-- ==== Sys2Proof/Word.lean ====
section
/-! DEFINITION. The word types of Naone (R6, R30, R77): bytes, 32-bit words and lanes, 64-bit scalars. -/

namespace Sys2Proof

/-- One byte of memory (R6). -/
abbrev Byte := BitVec 8

/-- A 32-bit word: a body word, a literal, one lane of a vector register (R30, R196). -/
abbrev Word := BitVec 32

/-- A 64-bit value: a scalar register, a clause position, a special register (R28, R77). -/
abbrev DWord := BitVec 64

end Sys2Proof
end

