-- ==== Sys2Proof/Config.lean ====
section
/-! DEFINITION. The free values of the model: constants without a body.
Nothing in Lean can evaluate one or prove a value of it, so every theorem holds whatever the device gives.
Each is named in a row of notes/assumptions. -/

namespace Sys2Proof.Config

/-- A free 64-bit value for each count of `State.fresh` (log 3): how far CLOCK and TIME have moved (R91), the
k-step of a running matrix operation (R243), the cycles left of an interval (R367), data of a peer or a host. -/
opaque freeWord : Nat → BitVec 64

/-- Which neighbour a faithful function delivers (R134): true is the one away from zero.
It depends on the operation (0 exp2, 1 log2, 2 sin, 3 cos, 4 tanh), on the element type and on the input alone. -/
opaque faithfulAway : Nat → Nat → Nat → Bool

/-- AES-256-GCM as R384 to R388 use it: key, 96-bit IV, additional data and plaintext to ciphertext and tag.
The cipher is named by its standard, whose bits the spec does not give (log 11). -/
opaque gcmEncrypt : Nat → Nat → List (BitVec 8) → List (BitVec 8) → List (BitVec 8) × List (BitVec 8)

/-- AES-256-GCM decryption: key, IV, additional data, ciphertext and tag to the plaintext, or none when the tag
fails (R387, R388; log 11). -/
opaque gcmDecrypt : Nat → Nat → List (BitVec 8) → List (BitVec 8) → List (BitVec 8) → Option (List (BitVec 8))

/-- GMAC of the first 48 bytes of a submission entry: key, IV, data (R388; log 11). -/
opaque gmac : Nat → Nat → List (BitVec 8) → List (BitVec 8)

/-- What one 64-byte burst of HBM written under one key slot's keys reads as under other keys (R380): the keys
written under, the keys read under, bits [45:6] of the device-physical address, and the 64 bytes written, to the byte read at a
place of the burst (log 11). -/
opaque xtsOther : Nat → Nat → Nat → List (BitVec 8) → Nat → BitVec 8

/-- The key of a new slot, context key or link, and a tenant's public key, for each count of `State.fresh` (R382, R383, R390;
log 11). -/
opaque freshKey : Nat → Nat

/-- The ML-KEM-1024 secret of an exchange with a tenant, by its public key and a count of `State.fresh` (R390; log 11). -/
opaque kemSecret : Nat → Nat → List (BitVec 8)

/-- The ECDH secret on P-384 of the same exchange (R390; log 11). -/
opaque ecdhSecret : Nat → Nat → List (BitVec 8)

/-- HKDF-SHA-384 with salt 0, to a submission key (R390; log 11). -/
opaque hkdf : List (BitVec 8) → Nat

/-- The device's half of an exchange, by the tenant's public key and a count of `State.fresh` (R390, R397; log 11). -/
opaque exchangeShare : Nat → Nat → List (BitVec 8)

/-- Whether the keys of a KEYLOAD unwrap, and to what (R381; log 11). -/
opaque unwrapKey : List (BitVec 8) → Nat

/-- Whether a flash image verifies: RSA-3072, SLH-DSA and the rollback floor (R408), as the REASON it is refused
with; 0 means it is accepted (log 11). -/
opaque imageReason : List (BitVec 8) → BitVec 8

/-- SHA-384 (0), and the signatures with the two identity keys: RSASSA-PSS (1) and SLH-DSA (2) (R397; log 11). -/
opaque reportBytes : Nat → List (BitVec 8) → List (BitVec 8)

/-- What a read returns of a frame that stage 2 gives to another partition, by address: the home does not perform it (R379;
log 129). -/
opaque foreignByte : Nat → BitVec 8

/-- Where the certificate chain of an identity key lies and how long it is, as record 3 of the capability list gives them
(R397, R409; log 85). -/
opaque chainPlace : Nat → BitVec 64

/-- The package number and the pod group of the peer to which a pod link is wired (R404; log 111). -/
opaque podPeer : Nat → BitVec 16 × BitVec 16

end Sys2Proof.Config
end

