-- ==== Sys2Proof/Syntax.lean ====
section
/-! DEFINITION. The instructions of Naone: one constructor for each row of the opcode table.
The first 228 constructors are body words (R40); the others are steps of the device without an encoding, which stand
in the agenda of the state. Operand fields keep the names of the table. -/

namespace Sys2Proof

/-- The seven crossbar patterns of a vector source slot (R34). -/
inductive Pat where
  | ident | rot | rots | bc | bcs | bf | mir
  deriving DecidableEq, Repr

/-- A scalar source slot, or slot B of a word that takes a scalar slot or the literal escape (R32, R33).
`reg` 0 to 27 is a scalar register, 28 to 30 a queue port, 31 is reserved; `bad` is a reserved combination (R32). -/
inductive SSrc where
  | reg (r : BitVec 5)
  | lit (w : Word)
  | bad (raw : BitVec 9)
  deriving DecidableEq, Repr

/-- A vector source slot (R31): a vector register with its last-read bit and crossbar pattern, a scalar register
that is broadcast, the literal escape, or a reserved combination. -/
inductive VSrc where
  | vec (r : BitVec 5) (lr : Bool) (pat : Pat)
  | sca (r : BitVec 5)
  | lit (w : Word)
  | bad (raw : BitVec 9)
  deriving DecidableEq, Repr

/-- Who writes a register or posts a command (R1, R8, R373): level 0 on PF 0, PF 1 as a delegate of level 0,
level 1 of a partition, level 2 of an interface. -/
inductive Agent where
  | level0
  | pf1
  | level1 (vf : Nat)
  | level2 (vf iface : Nat)
  deriving DecidableEq, Repr

/-- Who writes a register or posts a command, and the offset of the register or of the window's first register (R8, R403). -/
structure Post where
  who : Agent
  off : Nat
  deriving DecidableEq, Repr

/-- What a peer asks of exported memory: a read, a write, or an atomic of an operation and element type (R294, R298, R407). -/
inductive PeerAccess where
  | read
  | write
  | atomic (fn et : Nat)
  deriving DecidableEq, Repr

/-- The instructions: body words first, then the steps of the device. -/
inductive Instr where
  /-- Writes (a + b) mod 2^64 to the scalar destination (R77). -/
  | sadd (d : BitVec 5) (a : BitVec 5) (b : SSrc)
  /-- Writes (a - b) mod 2^64 to the scalar destination (R77). -/
  | ssub (d : BitVec 5) (a : BitVec 5) (b : SSrc)
  /-- Writes the low 64 bits of a times b (R77). -/
  | smul (d : BitVec 5) (a : BitVec 5) (b : SSrc)
  /-- Writes bits [127:64] of the signed 128-bit product (R77). -/
  | smulh (d : BitVec 5) (a : BitVec 5) (b : SSrc)
  /-- Writes the signed quotient rounded toward zero, with no trap on division by zero (R78). -/
  | sdiv (d : BitVec 5) (a : BitVec 5) (b : SSrc)
  /-- Writes the signed remainder with the sign of a, with no trap (R78). -/
  | srem (d : BitVec 5) (a : BitVec 5) (b : SSrc)
  /-- Writes the bitwise AND of a and b (R77). -/
  | sand (d : BitVec 5) (a : BitVec 5) (b : SSrc)
  /-- Writes the bitwise OR of a and b (R77). -/
  | sor (d : BitVec 5) (a : BitVec 5) (b : SSrc)
  /-- Writes the bitwise XOR of a and b (R77). -/
  | sxor (d : BitVec 5) (a : BitVec 5) (b : SSrc)
  /-- Shifts a left by b[5:0], filling with zeros (R77). -/
  | sshl (d : BitVec 5) (a : BitVec 5) (b : SSrc)
  /-- Shifts a right by b[5:0], filling with zeros (R77). -/
  | sshr (d : BitVec 5) (a : BitVec 5) (b : SSrc)
  /-- Shifts a right by b[5:0], filling with copies of the sign bit (R77). -/
  | ssar (d : BitVec 5) (a : BitVec 5) (b : SSrc)
  /-- Writes the signed minimum of a and b (R77). -/
  | smin (d : BitVec 5) (a : BitVec 5) (b : SSrc)
  /-- Writes the signed maximum of a and b (R77). -/
  | smax (d : BitVec 5) (a : BitVec 5) (b : SSrc)
  /-- Writes the unsigned minimum of a and b (R77). -/
  | sminu (d : BitVec 5) (a : BitVec 5) (b : SSrc)
  /-- Writes the unsigned maximum of a and b (R77). -/
  | smaxu (d : BitVec 5) (a : BitVec 5) (b : SSrc)
  /-- Writes 1 if a < b signed, else 0 (R77). -/
  | sslt (d : BitVec 5) (a : BitVec 5) (b : SSrc)
  /-- Writes 1 if a < b unsigned, else 0 (R77). -/
  | ssltu (d : BitVec 5) (a : BitVec 5) (b : SSrc)
  /-- Writes 1 if a equals b, else 0 (R77). -/
  | sseq (d : BitVec 5) (a : BitVec 5) (b : SSrc)
  /-- Writes a if the old destination is non-zero, else b (R79). -/
  | ssel (d : BitVec 5) (a : BitVec 5) (b : SSrc)
  /-- Copies slot B (register, queue pop or literal) to the scalar destination (R79). -/
  | smov (d : BitVec 5) (b : SSrc)
  /-- Replaces the high 32 bits of the destination with a literal (R79). -/
  | sli (d : BitVec 5) (lit : Word)
  /-- Writes the count of leading zeros of a (R79). -/
  | sclz (d : BitVec 5) (a : BitVec 5)
  /-- Writes the number of 1 bits in a (R79). -/
  | spopc (d : BitVec 5) (a : BitVec 5)
  /-- Adds a sign-extended immediate to a (R77). -/
  | saddI (d : BitVec 5) (a : BitVec 5) (i : BitVec 9)
  /-- Subtracts a sign-extended immediate from a (R77). -/
  | ssubI (d : BitVec 5) (a : BitVec 5) (i : BitVec 9)
  /-- Multiplies a by an immediate, low 64 bits (R77). -/
  | smulI (d : BitVec 5) (a : BitVec 5) (i : BitVec 9)
  /-- High half of the signed product of a and an immediate (R77). -/
  | smulhI (d : BitVec 5) (a : BitVec 5) (i : BitVec 9)
  /-- Signed division of a by an immediate (R78). -/
  | sdivI (d : BitVec 5) (a : BitVec 5) (i : BitVec 9)
  /-- Signed remainder of a by an immediate (R78). -/
  | sremI (d : BitVec 5) (a : BitVec 5) (i : BitVec 9)
  /-- Bitwise AND of a with an immediate (R77). -/
  | sandI (d : BitVec 5) (a : BitVec 5) (i : BitVec 9)
  /-- Bitwise OR of a with an immediate (R77). -/
  | sorI (d : BitVec 5) (a : BitVec 5) (i : BitVec 9)
  /-- Bitwise XOR of a with an immediate (R77). -/
  | sxorI (d : BitVec 5) (a : BitVec 5) (i : BitVec 9)
  /-- Shifts a left by an immediate amount (R77). -/
  | sshlI (d : BitVec 5) (a : BitVec 5) (i : BitVec 9)
  /-- Logical right shift of a by an immediate amount (R77). -/
  | sshrI (d : BitVec 5) (a : BitVec 5) (i : BitVec 9)
  /-- Arithmetic right shift of a by an immediate amount (R77). -/
  | ssarI (d : BitVec 5) (a : BitVec 5) (i : BitVec 9)
  /-- Signed minimum of a and an immediate (R77). -/
  | sminI (d : BitVec 5) (a : BitVec 5) (i : BitVec 9)
  /-- Signed maximum of a and an immediate (R77). -/
  | smaxI (d : BitVec 5) (a : BitVec 5) (i : BitVec 9)
  /-- Unsigned minimum of a and a sign-extended immediate (R77). -/
  | sminuI (d : BitVec 5) (a : BitVec 5) (i : BitVec 9)
  /-- Unsigned maximum of a and a sign-extended immediate (R77). -/
  | smaxuI (d : BitVec 5) (a : BitVec 5) (i : BitVec 9)
  /-- Signed less-than against an immediate (R77). -/
  | ssltI (d : BitVec 5) (a : BitVec 5) (i : BitVec 9)
  /-- Unsigned less-than against a sign-extended immediate (R77). -/
  | ssltuI (d : BitVec 5) (a : BitVec 5) (i : BitVec 9)
  /-- Equality test against an immediate (R77). -/
  | sseqI (d : BitVec 5) (a : BitVec 5) (i : BitVec 9)
  /-- Moves the whole split to the target clause (R81). -/
  | bra (o : BitVec 18)
  /-- Moves the split to the target when the named scalar register is non-zero (R81). -/
  | brs (s : BitVec 5) (o : BitVec 18)
  /-- Branches the whole split on a predicate vote over its guarded active lanes (R82). -/
  | brp (m : BitVec 2) (p : BitVec 3) (o : BitVec 18)
  /-- Per-lane branch that divides the split into taken and fall-through lanes, forming splits or bench entries or raising DIVERGE (R56). -/
  | brl (m : BitVec 1) (p : BitVec 3) (o : BitVec 18)
  /-- Writes the next clause position to the link register and moves the split to the target (R84). -/
  | call (l : BitVec 5) (o : BitVec 18)
  /-- Continues the split at the clause position held in a scalar register (R85). -/
  | ret (a : BitVec 5)
  /-- Continues the split at the header address held in a scalar register (R85). -/
  | jmpi (a : BitVec 5)
  /-- Ends the guarded active lanes; may end the split, squad, team, gang and launch (R86). -/
  | exit
  /-- Ends the split's turn and makes its squad youngest of its class for the next choice (R87). -/
  | yield
  /-- Does nothing; all fields are ignored (R87). -/
  | nop (x : BitVec 23)
  /-- Holds the split until every named completion flag is clear (R87). -/
  | waitf (m : BitVec 12)
  /-- Holds the split until a path counter is at or below a threshold register (R87). -/
  | waitc (p : BitVec 3) (a : BitVec 5)
  /-- Raises SOFT with its code; TPC points past the word (R92). -/
  | trap (c : BitVec 16)
  /-- Raises BREAK with its code; TPC holds the BRK's own position (R92). -/
  | brk (c : BitVec 16)
  /-- Returns from the trap handler, restoring mask and position and taking pending asynchronous traps (R96). -/
  | tret
  /-- Posts a service record to the interface's service queue and holds XFLAG until a reply or timeout (R93). -/
  | svc (d : BitVec 5) (a : BitVec 5) (c : BitVec 9)
  /-- Writes MODE from a literal, raising ILLOP on a reserved value (R88). -/
  | setm (lit : Word)
  /-- Writes the guard predicate and negate bit of MODE (R88). -/
  | setg (n : BitVec 1) (g : BitVec 3)
  /-- Writes the element type of MODE (R88). -/
  | sett (t : BitVec 4)
  /-- Writes the rounding mode, SAT and FTZ of MODE together (R88). -/
  | setr (r : BitVec 4) (f : BitVec 1) (s : BitVec 1)
  /-- Writes the segment width of MODE (R88). -/
  | setw (w : BitVec 3)
  /-- Writes the default scope of MODE (R88). -/
  | setd (s : BitVec 3)
  /-- Writes ROT, LANE and XMASK of one XP slot (R88). -/
  | setx (l : BitVec 1) (b : SSrc)
  /-- Reads a special register into a scalar register (R89). -/
  | srd (d : BitVec 5) (i : BitVec 12)
  /-- Writes a scalar register to a special register under its access codes (R89). -/
  | swr (s : BitVec 5) (i : BitVec 12)
  /-- Writes the context's BID register of one market class (R358). -/
  | bid (c : BitVec 3) (a : BitVec 5) (b : SSrc)
  /-- Per-lane addition of two vector sources (R125). -/
  | vadd (d : BitVec 5) (a : VSrc) (b : VSrc)
  /-- Per-lane subtraction (R125). -/
  | vsub (d : BitVec 5) (a : VSrc) (b : VSrc)
  /-- Per-lane multiplication (R125). -/
  | vmul (d : BitVec 5) (a : VSrc) (b : VSrc)
  /-- High half of the per-lane integer product (R125). -/
  | vmulh (d : BitVec 5) (a : VSrc) (b : VSrc)
  /-- Per-lane fused d + x * y (R125). -/
  | vmad (d : BitVec 5) (a : VSrc) (b : VSrc)
  /-- Per-lane fused d - x * y (R125). -/
  | vmsb (d : BitVec 5) (a : VSrc) (b : VSrc)
  /-- Per-lane fused -(d + x * y) (R125). -/
  | vnmad (d : BitVec 5) (a : VSrc) (b : VSrc)
  /-- Per-lane minimum, minimumNumber for floats (R127). -/
  | vmin (d : BitVec 5) (a : VSrc) (b : VSrc)
  /-- Per-lane maximum, maximumNumber for floats (R127). -/
  | vmax (d : BitVec 5) (a : VSrc) (b : VSrc)
  /-- Per-lane absolute value of slot B (R126). -/
  | vabs (d : BitVec 5) (b : VSrc)
  /-- Per-lane negation of slot B (R126). -/
  | vneg (d : BitVec 5) (b : VSrc)
  /-- Per-lane bitwise AND (R125). -/
  | vand (d : BitVec 5) (a : VSrc) (b : VSrc)
  /-- Per-lane bitwise OR (R125). -/
  | vor (d : BitVec 5) (a : VSrc) (b : VSrc)
  /-- Per-lane bitwise XOR (R125). -/
  | vxor (d : BitVec 5) (a : VSrc) (b : VSrc)
  /-- Per-lane bitwise NOT of slot B (R126). -/
  | vnot (d : BitVec 5) (b : VSrc)
  /-- Per-element left shift (R128). -/
  | vshl (d : BitVec 5) (a : VSrc) (b : VSrc)
  /-- Per-element right shift, arithmetic for signed types (R128). -/
  | vshr (d : BitVec 5) (a : VSrc) (b : VSrc)
  /-- Per-element rotate left (R128). -/
  | vrol (d : BitVec 5) (a : VSrc) (b : VSrc)
  /-- Per-element count of leading zeros (R126). -/
  | vclz (d : BitVec 5) (b : VSrc)
  /-- Per-element population count (R126). -/
  | vpopc (d : BitVec 5) (b : VSrc)
  /-- Per-element bit reversal (R126). -/
  | vbrev (d : BitVec 5) (b : VSrc)
  /-- Selects A or B per lane using the guard as selector (R130). -/
  | vsel (d : BitVec 5) (a : VSrc) (b : VSrc)
  /-- Per-lane equality compare combined into a predicate (R129). -/
  | vceq (m : BitVec 2) (p : BitVec 3) (a : VSrc) (b : VSrc)
  /-- Per-lane not-equal compare into a predicate (R129). -/
  | vcne (m : BitVec 2) (p : BitVec 3) (a : VSrc) (b : VSrc)
  /-- Per-lane less-than compare into a predicate (R129). -/
  | vclt (m : BitVec 2) (p : BitVec 3) (a : VSrc) (b : VSrc)
  /-- Per-lane less-or-equal compare into a predicate (R129). -/
  | vcle (m : BitVec 2) (p : BitVec 3) (a : VSrc) (b : VSrc)
  /-- Per-lane greater-than compare into a predicate (R129). -/
  | vcgt (m : BitVec 2) (p : BitVec 3) (a : VSrc) (b : VSrc)
  /-- Per-lane greater-or-equal compare into a predicate (R129). -/
  | vcge (m : BitVec 2) (p : BitVec 3) (a : VSrc) (b : VSrc)
  /-- Per-lane unordered compare into a predicate (R129). -/
  | vcun (m : BitVec 2) (p : BitVec 3) (a : VSrc) (b : VSrc)
  /-- Per-lane addition of an immediate (R125). -/
  | vaddI (d : BitVec 5) (a : VSrc) (i : BitVec 9)
  /-- Per-lane subtraction of an immediate (R125). -/
  | vsubI (d : BitVec 5) (a : VSrc) (i : BitVec 9)
  /-- Per-lane multiplication by an immediate (R125). -/
  | vmulI (d : BitVec 5) (a : VSrc) (i : BitVec 9)
  /-- High half of the product with an immediate (R125). -/
  | vmulhI (d : BitVec 5) (a : VSrc) (i : BitVec 9)
  /-- Fused d + x * immediate (R125). -/
  | vmadI (d : BitVec 5) (a : VSrc) (i : BitVec 9)
  /-- Fused d - x * immediate (R125). -/
  | vmsbI (d : BitVec 5) (a : VSrc) (i : BitVec 9)
  /-- Fused -(d + x * immediate) (R125). -/
  | vnmadI (d : BitVec 5) (a : VSrc) (i : BitVec 9)
  /-- Per-lane minimum with an immediate (R127). -/
  | vminI (d : BitVec 5) (a : VSrc) (i : BitVec 9)
  /-- Per-lane maximum with an immediate (R127). -/
  | vmaxI (d : BitVec 5) (a : VSrc) (i : BitVec 9)
  /-- Absolute value of an immediate in every element (R126). -/
  | vabsI (d : BitVec 5) (i : BitVec 9)
  /-- Negated immediate in every element (R126). -/
  | vnegI (d : BitVec 5) (i : BitVec 9)
  /-- Per-lane AND with an immediate (R125). -/
  | vandI (d : BitVec 5) (a : VSrc) (i : BitVec 9)
  /-- Per-lane OR with an immediate (R125). -/
  | vorI (d : BitVec 5) (a : VSrc) (i : BitVec 9)
  /-- Per-lane XOR with an immediate (R125). -/
  | vxorI (d : BitVec 5) (a : VSrc) (i : BitVec 9)
  /-- Bitwise NOT of an immediate in every element (R126). -/
  | vnotI (d : BitVec 5) (i : BitVec 9)
  /-- Per-element left shift by an immediate (R128). -/
  | vshlI (d : BitVec 5) (a : VSrc) (i : BitVec 9)
  /-- Per-element right shift by an immediate (R128). -/
  | vshrI (d : BitVec 5) (a : VSrc) (i : BitVec 9)
  /-- Per-element rotate left by an immediate (R128). -/
  | vrolI (d : BitVec 5) (a : VSrc) (i : BitVec 9)
  /-- Equality compare against an immediate (R129). -/
  | vceqI (m : BitVec 2) (p : BitVec 3) (a : VSrc) (i : BitVec 9)
  /-- Not-equal compare against an immediate (R129). -/
  | vcneI (m : BitVec 2) (p : BitVec 3) (a : VSrc) (i : BitVec 9)
  /-- Less-than compare against an immediate (R129). -/
  | vcltI (m : BitVec 2) (p : BitVec 3) (a : VSrc) (i : BitVec 9)
  /-- Less-or-equal compare against an immediate (R129). -/
  | vcleI (m : BitVec 2) (p : BitVec 3) (a : VSrc) (i : BitVec 9)
  /-- Greater-than compare against an immediate (R129). -/
  | vcgtI (m : BitVec 2) (p : BitVec 3) (a : VSrc) (i : BitVec 9)
  /-- Greater-or-equal compare against an immediate (R129). -/
  | vcgeI (m : BitVec 2) (p : BitVec 3) (a : VSrc) (i : BitVec 9)
  /-- Converts elements from STYPE to MODE.ET, placing them by POS (R131). -/
  | vcvt (d : BitVec 5) (a : VSrc) (s : BitVec 4) (p : BitVec 3)
  /-- Rounds each float element to an integral value under MODE.RM (R132). -/
  | vrnd (d : BitVec 5) (a : VSrc)
  /-- Scales each float element by 2 to the power of slot B (R133). -/
  | vscl (d : BitVec 5) (a : VSrc) (b : VSrc)
  /-- Correctly rounded reciprocal (R134). -/
  | vrcp (d : BitVec 5) (b : VSrc)
  /-- Correctly rounded reciprocal square root (R134). -/
  | vrsq (d : BitVec 5) (b : VSrc)
  /-- Correctly rounded square root (R134). -/
  | vsqrt (d : BitVec 5) (b : VSrc)
  /-- Faithful 2 to the power y (R134). -/
  | vexp2 (d : BitVec 5) (b : VSrc)
  /-- Faithful base-2 logarithm (R134). -/
  | vlog2 (d : BitVec 5) (b : VSrc)
  /-- Faithful sine (R134). -/
  | vsin (d : BitVec 5) (b : VSrc)
  /-- Faithful cosine (R134). -/
  | vcos (d : BitVec 5) (b : VSrc)
  /-- Faithful hyperbolic tangent (R134). -/
  | vtanh (d : BitVec 5) (b : VSrc)
  /-- Correctly rounded division x / y (R134). -/
  | vdiv (d : BitVec 5) (a : VSrc) (b : VSrc)
  /-- Per-lane AND of two predicates (R136). -/
  | pand (d : BitVec 3) (a : BitVec 3) (b : BitVec 3)
  /-- Per-lane OR of two predicates (R136). -/
  | por (d : BitVec 3) (a : BitVec 3) (b : BitVec 3)
  /-- Per-lane XOR of two predicates (R136). -/
  | pxor (d : BitVec 3) (a : BitVec 3) (b : BitVec 3)
  /-- Per-lane pa AND NOT pb (R136). -/
  | pandn (d : BitVec 3) (a : BitVec 3) (b : BitVec 3)
  /-- Per-lane NOT of a predicate (R136). -/
  | pnot (d : BitVec 3) (a : BitVec 3)
  /-- Moves a predicate's mask bits into a scalar register (R136). -/
  | pmov (d : BitVec 5) (a : BitVec 3)
  /-- Sets predicate lanes from the bits of a scalar or literal (R136). -/
  | pset (d : BitVec 3) (b : SSrc)
  /-- Writes a per-segment vote of a predicate to a predicate (R138). -/
  | vote (m : BitVec 2) (d : BitVec 3) (a : BitVec 3)
  /-- Writes a per-segment ballot mask to a vector register (R138). -/
  | vbal (d : BitVec 5) (a : BitVec 3)
  /-- Shuffles lane values within segments by per-lane index (R139). -/
  | vshf (d : BitVec 5) (a : VSrc) (b : VSrc)
  /-- Reduces contributors of each segment over a fixed tree (R140). -/
  | vrdc (d : BitVec 5) (a : VSrc) (o : BitVec 4)
  /-- Inclusive or exclusive scan within each segment (R140). -/
  | vscn (d : BitVec 5) (a : VSrc) (e : BitVec 1) (o : BitVec 4)
  /-- Finds each lane's row from a row-start table (R141). -/
  | rwalk (d : BitVec 5) (a : VSrc) (b : VSrc)
  /-- Marks lanes that open a run into a predicate (R142). -/
  | rnext (m : BitVec 2) (p : BitVec 3) (a : VSrc) (b : VSrc)
  /-- Segmented reduction over runs delimited by a predicate (R143). -/
  | vsred (d : BitVec 5) (a : VSrc) (p : BitVec 3) (o : BitVec 4)
  /-- Copies slot B to a vector register (R206). -/
  | vmov (d : BitVec 5) (b : VSrc)
  /-- Reads a vector register whose name is computed from a base and a scalar index (R207). -/
  | vmovx (d : BitVec 5) (a : VSrc) (b : BitVec 5)
  /-- Writes a vector register whose name is computed from a base and a scalar index (R207). -/
  | vmovxw (d : BitVec 5) (a : BitVec 5) (b : VSrc)
  /-- Unbinds the vector registers named by a mask (R208). -/
  | vfree (b : SSrc)
  /-- Sends a remote deposit into a vector register of another squad of the gang, with a cluster release (R210). -/
  | rdep (n : BitVec 5) (a : VSrc) (b : SSrc)
  /-- Waits until ARRV reaches a threshold, then acquires at cluster scope (R212). -/
  | waita (a : BitVec 5)
  /-- Loads 32 bytes and installs them as a tensor descriptor (R218). -/
  | tidset (n : BitVec 5) (a : BitVec 5) (s : BitVec 3) (o : VSrc)
  /-- Stores a tensor descriptor as 32 bytes (R218). -/
  | tidget (n : BitVec 5) (a : BitVec 5) (s : BitVec 3) (o : VSrc)
  /-- Sets the cursor of a tensor entry (R218). -/
  | tidcur (n : BitVec 5) (a : BitVec 5) (b : SSrc)
  /-- Invalidates a tensor entry (R218). -/
  | tidinv (n : BitVec 5)
  /-- Returns the team's next work range from the work distributor (R228). -/
  | wget (d : BitVec 5)
  /-- Accumulates a 32x32 matrix product into an accumulator tile (R245). -/
  | mma (s : BitVec 1) (v : BitVec 1) (c : BitVec 3) (t : BitVec 5) (r : BitVec 1) (b : BitVec 5)
  /-- Computes a 32x32 matrix product into a fresh tile with no incoming value (R245). -/
  | mmaz (s : BitVec 1) (v : BitVec 1) (c : BitVec 3) (t : BitVec 5) (r : BitVec 1) (b : BitVec 5)
  /-- Accumulates a 64x64 block into four tiles on two sub-arrays (R246). -/
  | mmaw (s : BitVec 1) (v : BitVec 1) (c : BitVec 3) (t : BitVec 5) (r : BitVec 1) (b : BitVec 5)
  /-- Binds a fresh zeroed FP32 tile on a sub-array (R250). -/
  | accz (n : BitVec 3) (b : SSrc)
  /-- Reads one tile row into a vector register (R250). -/
  | accrd (d : BitVec 5) (n : BitVec 3) (b : SSrc)
  /-- Writes one tile row from a vector source in place (R250). -/
  | accwr (n : BitVec 3) (a : BitVec 5) (b : VSrc)
  /-- Loads a 32x32 region into a fresh tile (R251). -/
  | accld (n : BitVec 3) (t : BitVec 5) (b : SSrc)
  /-- Stores a tile to a 32x32 region (R251). -/
  | accst (n : BitVec 3) (t : BitVec 5)
  /-- Unbinds the tiles named by a mask (R250). -/
  | accfree (b : SSrc)
  /-- Returns a tile's status word (R243). -/
  | accstat (d : BitVec 5) (n : BitVec 3)
  /-- Loads one byte per lane, zero-extended (R188). -/
  | vldB (d : BitVec 5) (a : BitVec 5) (s : BitVec 3) (o : VSrc)
  /-- Loads two bytes per lane, zero-extended (R188). -/
  | vldH (d : BitVec 5) (a : BitVec 5) (s : BitVec 3) (o : VSrc)
  /-- Loads four bytes per lane (R188). -/
  | vldW (d : BitVec 5) (a : BitVec 5) (s : BitVec 3) (o : VSrc)
  /-- Loads eight bytes per lane into a register pair (R188). -/
  | vldD (d : BitVec 5) (a : BitVec 5) (s : BitVec 3) (o : VSrc)
  /-- Loads sixteen bytes per lane into four registers (R188). -/
  | vldQ (d : BitVec 5) (a : BitVec 5) (s : BitVec 3) (o : VSrc)
  /-- Stores one byte per lane (R188). -/
  | vstB (d : BitVec 5) (a : BitVec 5) (s : BitVec 3) (o : VSrc)
  /-- Stores two bytes per lane (R188). -/
  | vstH (d : BitVec 5) (a : BitVec 5) (s : BitVec 3) (o : VSrc)
  /-- Stores four bytes per lane (R188). -/
  | vstW (d : BitVec 5) (a : BitVec 5) (s : BitVec 3) (o : VSrc)
  /-- Stores eight bytes per lane from a register pair (R188). -/
  | vstD (d : BitVec 5) (a : BitVec 5) (s : BitVec 3) (o : VSrc)
  /-- Stores sixteen bytes per lane from four registers (R188). -/
  | vstQ (d : BitVec 5) (a : BitVec 5) (s : BitVec 3) (o : VSrc)
  /-- Loads one byte into a scalar register (R190). -/
  | sldB (d : BitVec 5) (a : BitVec 5) (s : BitVec 3) (o : VSrc)
  /-- Loads two bytes into a scalar register (R190). -/
  | sldH (d : BitVec 5) (a : BitVec 5) (s : BitVec 3) (o : VSrc)
  /-- Loads four bytes into a scalar register (R190). -/
  | sldW (d : BitVec 5) (a : BitVec 5) (s : BitVec 3) (o : VSrc)
  /-- Loads eight bytes into a scalar register (R190). -/
  | sldD (d : BitVec 5) (a : BitVec 5) (s : BitVec 3) (o : VSrc)
  /-- Stores the low byte of a scalar register (R190). -/
  | sstB (d : BitVec 5) (a : BitVec 5) (s : BitVec 3) (o : VSrc)
  /-- Stores the low two bytes of a scalar register (R190). -/
  | sstH (d : BitVec 5) (a : BitVec 5) (s : BitVec 3) (o : VSrc)
  /-- Stores the low four bytes of a scalar register (R190). -/
  | sstW (d : BitVec 5) (a : BitVec 5) (s : BitVec 3) (o : VSrc)
  /-- Stores eight bytes of a scalar register (R190). -/
  | sstD (d : BitVec 5) (a : BitVec 5) (s : BitVec 3) (o : VSrc)
  /-- Loads one scratchpad byte per lane (R155). -/
  | spldB (d : BitVec 5) (a : BitVec 5) (s : BitVec 3) (o : VSrc)
  /-- Loads two scratchpad bytes per lane (R155). -/
  | spldH (d : BitVec 5) (a : BitVec 5) (s : BitVec 3) (o : VSrc)
  /-- Loads four scratchpad bytes per lane (R155). -/
  | spldW (d : BitVec 5) (a : BitVec 5) (s : BitVec 3) (o : VSrc)
  /-- Loads eight scratchpad bytes per lane into a pair (R155). -/
  | spldD (d : BitVec 5) (a : BitVec 5) (s : BitVec 3) (o : VSrc)
  /-- Stores one scratchpad byte per lane (R155). -/
  | spstB (d : BitVec 5) (a : BitVec 5) (s : BitVec 3) (o : VSrc)
  /-- Stores two scratchpad bytes per lane (R155). -/
  | spstH (d : BitVec 5) (a : BitVec 5) (s : BitVec 3) (o : VSrc)
  /-- Stores four scratchpad bytes per lane (R155). -/
  | spstW (d : BitVec 5) (a : BitVec 5) (s : BitVec 3) (o : VSrc)
  /-- Stores eight scratchpad bytes per lane from a pair (R155). -/
  | spstD (d : BitVec 5) (a : BitVec 5) (s : BitVec 3) (o : VSrc)
  /-- Loads one 128-byte block, one word per lane (R189). -/
  | vldb (d : BitVec 5) (a : BitVec 5) (s : BitVec 3) (o : VSrc)
  /-- Stores one 128-byte block, one word per lane (R189). -/
  | vstb (d : BitVec 5) (a : BitVec 5) (s : BitVec 3) (o : VSrc)
  /-- Loads one 128-byte scratchpad block in one cycle (R157). -/
  | spldb (d : BitVec 5) (a : BitVec 5) (s : BitVec 3) (o : VSrc)
  /-- Stores one 128-byte scratchpad block in one cycle (R157). -/
  | spstb (d : BitVec 5) (a : BitVec 5) (s : BitVec 3) (o : VSrc)
  /-- Loads a word per lane from a gang team's scratchpad through the remote window (R159). -/
  | rsld (d : BitVec 5) (a : BitVec 5) (s : BitVec 3) (o : VSrc)
  /-- Stores a word per lane to a gang team's scratchpad through the remote window (R159). -/
  | rsst (d : BitVec 5) (a : BitVec 5) (s : BitVec 3) (o : VSrc)
  /-- Prefetches lines at the level set by scope, never faulting (R192). -/
  | pld (a : BitVec 5) (s : BitVec 3) (o : VSrc)
  /-- Prefetches only when the die's HBS spot price is at or below a limit (R192). -/
  | pldc (d : BitVec 5) (a : BitVec 5) (s : BitVec 3) (o : VSrc)
  /-- Re-homes claimable pages of a range onto the issuing core's die and returns counts (R185). -/
  | claim (d : BitVec 5) (a : BitVec 5) (s : BitVec 3) (o : VSrc)
  /-- Writes back dirty cached lines of a range at the named scope (R193). -/
  | cwb (a : BitVec 5) (s : BitVec 3) (o : VSrc)
  /-- Writes back and invalidates cached lines of a range (R193). -/
  | cinv (a : BitVec 5) (s : BitVec 3) (o : VSrc)
  /-- Queries the translation of an address without faulting (R194). -/
  | xq (d : BitVec 5) (a : BitVec 5) (s : BitVec 3) (o : VSrc)
  /-- Orders the squad's accesses as an acquire, release or both at a scope (R283). -/
  | fence (k : BitVec 2) (s : BitVec 3)
  /-- Package acquire-release fence taking effect in one total order (R284). -/
  | fencet
  /-- Word load followed by an acquire at its scope (R285). -/
  | vldaW (d : BitVec 5) (a : BitVec 5) (s : BitVec 3) (o : VSrc)
  /-- Doubleword load followed by an acquire (R285). -/
  | vldaD (d : BitVec 5) (a : BitVec 5) (s : BitVec 3) (o : VSrc)
  /-- Release followed by a word store at its scope (R285). -/
  | vstrW (d : BitVec 5) (a : BitVec 5) (s : BitVec 3) (o : VSrc)
  /-- Release followed by a doubleword store (R285). -/
  | vstrD (d : BitVec 5) (a : BitVec 5) (s : BitVec 3) (o : VSrc)
  /-- Remote-promoting acquire: promotes a core's logged releases and loads a word (R288). -/
  | acqp (d : BitVec 5) (a : BitVec 5) (s : BitVec 3) (b : SSrc)
  /-- Returning atomic read-modify-write per lane (R299). -/
  | atom (d : BitVec 5) (a : BitVec 5) (p : BitVec 3) (o : BitVec 5) (f : BitVec 4)
  /-- Non-returning atomic reduction per lane (R299). -/
  | ared (d : BitVec 5) (a : BitVec 5) (p : BitVec 3) (o : BitVec 5) (f : BitVec 4)
  /-- Atomic compare-and-swap of 4, 8 or 16 bytes per lane (R300). -/
  | acas (d : BitVec 5) (a : BitVec 5) (p : BitVec 3) (o : BitVec 5) (z : BitVec 4)
  /-- Sets a team or gang barrier's roster (R308). -/
  | bari (s : BitVec 5) (c : BitVec 3) (n : BitVec 4)
  /-- Arrives at a barrier with a release and returns the phase token (R308). -/
  | bara (s : BitVec 5) (c : BitVec 3) (n : BitVec 4)
  /-- Waits until the barrier phase differs from a token, then acquires (R308). -/
  | barw (s : BitVec 5) (c : BitVec 3) (n : BitVec 4)
  /-- Arrives at a barrier and waits for its phase to complete (R308). -/
  | barx (s : BitVec 5) (c : BitVec 3) (n : BitVec 4)
  /-- Joins the barrier's roster (R308). -/
  | barj (c : BitVec 3) (n : BitVec 4)
  /-- Leaves the barrier's roster with a release (R308). -/
  | barl (c : BitVec 3) (n : BitVec 4)
  /-- Pushes a handle to a pass queue with a team release, waiting for allowance (R163). -/
  | pqpush (q : BitVec 3) (a : BitVec 5)
  /-- Pops a handle from a pass queue with a team acquire, waiting while empty (R163). -/
  | pqpop (d : BitVec 5) (q : BitVec 3)
  /-- Pops a handle if one is available, otherwise returns all ones (R163). -/
  | pqtry (d : BitVec 5) (q : BitVec 3)
  /-- Grants push allowance on a queue to a squad of the team (R165). -/
  | pqgive (q : BitVec 3) (a : BitVec 5) (b : SSrc)
  /-- Issue of a body word with an unassigned OP raises ILLOP with no effect (R41). -/
  | unassignedOpcode (w : Word)
  /-- At a clause boundary the quarter's scheduler chooses a ready split by deficit counters and age (R65). -/
  | clauseChoice (quarter : Nat)
  /-- Level-2 software resumes an escalated squad's trapping split at a supplied clause position (R98). -/
  | escalatedSquadResume (squad : Nat) (pos : DWord)
  /-- A load-class operation's data arrives, clearing its flag and lowering its path counter in issue order (R60). -/
  | loadReturn (squad : Nat) (op : Nat) (ext : List Byte)
  /-- A store-class operation is performed at its scope, clearing its flag and lowering its path counter (R60). -/
  | writePerformed (squad : Nat) (op : Nat)
  /-- The device moves a line on its own, carrying writes without ordering (R277). -/
  | eviction (core : Nat) (line : Nat)
  /-- A free walker translates a TLB miss through both stages, setting A and D or producing a fault record (R173). -/
  | tableWalk (die : Nat)
  /-- A RETRY response translates the parked word again and issues it from the fault buffer (R180). -/
  | faultRetry (who : Agent) (fid : BitVec 16)
  /-- A FAIL response frees the entry and raises XLATE in the issuing split (R180). -/
  | faultFail (who : Agent) (fid : BitVec 16)
  /-- A DENY response frees the entry and raises ACCESS in the issuing split (R180). -/
  | faultDeny (who : Agent) (fid : BitVec 16)
  /-- An unanswered fault record is answered FAIL by the device when its owner's timeout expires (R181). -/
  | faultTimeout (core : Nat) (entry : Nat)
  /-- The first write to a ZP page starts a zeroing sweep of the page at its home slice (R183). -/
  | zpSweep (squad : Nat) (op : Nat)
  /-- The sweep clears ZP, invalidates translations and performs the waiting writes in arrival order (R183). -/
  | zpSweepEnd (page : Nat)
  /-- After earlier accesses drain, one page of a CLAIM is locked, copied, swapped and unlocked (R185). -/
  | claimPageMove (squad : Nat) (op : Nat)
  /-- A fully drained sector is cleared to zero and joins the scratchpad region (R148). -/
  | sectorJoin (core : Nat)
  /-- A window packet is checked against the gang ticket and performed at the target bank or rejected (R160). -/
  | windowAccessAtTarget (squad : Nat) (op : Nat)
  /-- A remote deposit is ticket-checked and written into the target register with ARRV incremented (R211). -/
  | depositArrival (squad : Nat) (op : Nat)
  /-- An atomic lane is performed indivisibly at its execution point (R299). -/
  | atomicExecute (squad : Nat) (op : Nat)
  /-- A home slice recalls an owned line with its value before granting or performing (R295). -/
  | ownershipRecall (core : Nat) (line : Nat)
  /-- A host completes an AtomicOp; refusal returns 0 and raises ACCESS asynchronously (R302). -/
  | hostAtomicopCompletion (squad : Nat) (op : Nat) (lane : Nat) (ok : Bool)
  /-- An exporter refuses a pod-window access and ACCESS is raised asynchronously (R186). -/
  | podAccessRefused (squad : Nat) (op : Nat) (lane : Nat)
  /-- A peer's access is checked against the export table and performed through the interface's stages (R407). -/
  | incomingPodAccess (peer : Nat) (handle : Word) (offset : Nat) (access : PeerAccess) (data : List Byte)
  /-- Host software reads or writes device memory through the line's home at host scope (R292). -/
  | hostAccess (addr : Nat) (write : Bool) (data : List Byte)
  /-- Copy engine copies a region between tensors and produces a completion record (R220). -/
  | copy (squad : Nat)
  /-- Copy engine loads a region into the operand stack with block scales (R220). -/
  | stackLoad (squad : Nat)
  /-- Gather engine copies indexed source rows to destination rows (R220). -/
  | gather (squad : Nat)
  /-- Gather engine writes source rows to indexed destination rows (R220). -/
  | scatter (squad : Nat)
  /-- When every member has pushed its collective, the commands are matched or fail with MISMATCH (R220). -/
  | collectiveRendezvous (squad : Nat)
  /-- Collective engine combines every member's source region into each destination (R220). -/
  | reduce (id : Nat)
  /-- Collective engine concatenates every member's source region into each destination (R220). -/
  | allgather (id : Nat)
  /-- A running matrix operation completes, releasing its tokens and moving the staged one to running (R232). -/
  | mmaComplete (core : Nat) (sub : Nat)
  /-- The pre-emption engine spills another context's live tiles and sets AOWN to the new context (R255). -/
  | firstUseEvent (core : Nat)
  /-- Free tokens and the serve advance one ring position (R256). -/
  | ringStep (cluster : Nat)
  /-- A capture incomplete for more than one lap releases its tokens to the ring (R263). -/
  | captureRelease (cluster : Nat) (stop : Nat)
  /-- A priced word's or block's hold window ends and its tokens return to the ring (R264). -/
  | holdEnd (cluster : Nat) (hold : Nat)
  /-- A clause not begun within one lap of its capture returns its tokens and requests again (R264). -/
  | captureExpiry (squad : Nat) (split : Nat)
  /-- After 256 cycles without issue or free on a waiting core, the youngest gang is suspended (R203). -/
  | starvation (core : Nat)
  /-- A launch submission entry reads the launch block and starts or ends the launch (R226). -/
  | launch (vf : Nat) (iface : Nat) (slot : Nat) (blk : DWord)
  /-- A die command processor with an admitting cluster atomically claims the next gang number (R227). -/
  | gangClaim (die : Nat) (launch : Nat)
  /-- A gang's teams are admitted together onto cores and their squads created (R50). -/
  | gangAdmission (die : Nat) (launch : Nat)
  /-- Every gang of a cooperative launch is claimed and admitted at once (R227). -/
  | coopAdmission (launch : Nat)
  /-- The WAKEWIN timer expires and the MSI-X vector is raised for the wake words (R230). -/
  | wakeInterrupt (vf : Nat) (iface : Nat) (vector : Nat)
  /-- An SVC without reply within its timeout receives all ones and its flag clears (R93). -/
  | svcTimeout (squad : Nat) (op : Nat)
  /-- A host write of a service reply delivers the value to the SVC's register and clears its flag (R402). -/
  | serviceReply (vf : Nat) (iface : Nat) (value : DWord) (idx : Word)
  /-- A halt request stops a gang's issue, returns tokens and turns outstanding work into replay packets (R333). -/
  | gangHalt (gang : Nat) (cause : Nat)
  /-- After a halt, the context's release-log entries on the core are promoted at package scope (R290). -/
  | releaseLogDrain (core : Nat) (ctx : Nat)
  /-- The engine writes the image sections and commits with the header write (R338). -/
  | imageCommit (gang : Nat)
  /-- A saved gang is restored onto admissible cores and its replay packets reissued (R344). -/
  | gangRestore (gang : Nat)
  /-- An ACQP request at its target core promotes the caller's logged releases and reads the word (R288). -/
  | promotionRequest (squad : Nat) (op : Nat)
  /-- A full release log promotes its oldest entry to package scope to make room (R286). -/
  | eagerPromotion (core : Nat)
  /-- When a context leaves a core, its remaining log entries are promoted at package scope (R290). -/
  | noResidentDrain (core : Nat) (ctx : Nat)
  /-- A gang's router-barrier arrival reaches a router, which forwards or completes and multicasts release (R311). -/
  | routerArrival (gang : Nat) (n : Nat)
  /-- At the interval boundary leases lapse and take effect, purses refill and SPOT and LEASE update (R361). -/
  | intervalStart
  /-- After any unpin ends, a region's home passes to its bank (R320). -/
  | dsbPin (ctx : Nat) (die : Nat) (entry : Nat)
  /-- Once the excess tokens are withdrawn, the rail clock is lowered (R272). -/
  | railClockLower (die : Nat) (rail : Nat)
  /-- Retraining completes and held requests are served in arrival order (R273). -/
  | hbmRetrainEnd (stack : Nat)
  /-- Bids, balances and FIXED are sampled atomically and clamped (R361). -/
  | bidClose
  /-- The two-level auction clears, assigns units and debits purses (R365). -/
  | clearingComplete
  /-- At T minus 15 microseconds LEASENEXT gives the loss notices (R361). -/
  | leaseNotice
  /-- A peer's price record replaces its peer-price table entry (R371). -/
  | indexRecordReceive (pkg : BitVec 16) (seq : Word) (prices : List Word)
  /-- A die reaching its junction limit has its rails lowered and a THERMAL event sent (R411). -/
  | thermalLimit (die : Nat)
  /-- Input voltage out of range shuts the power stage down (R411). -/
  | powerInputFault
  /-- An uncorrectable error raises MCHK in the owning context or stops submission queues (R411). -/
  | uncorrectableError (ctx : Option Nat) (addr : Nat)
  /-- A flit failing its CRC is sent again on the same lane (R326). -/
  | linkCrcFailure (die : Nat) (lane : Nat)
  /-- A flit whose Ascon tag fails is retried, and a second failure is uncorrectable (R382). -/
  | hbmLinkTagFailure (stack : Nat) (again : Bool) (ctx : Nat) (addr : Nat)
  /-- The Damyo controller replaces a stack link key before its counter reaches 2^60 (R382). -/
  | hbmLinkRekey (stack : Nat)
  /-- A pod link goes down and launches needing it end with status ENDED (R405). -/
  | podLinkDown (link : Nat)
  /-- A VF reset halts without save, discards state and makes the partition's memory scrub-pending (R395). -/
  | functionLevelReset (vf : Nat)
  /-- A home slice sweeps one scrub-pending page in idle cycles (R396). -/
  | scrubPage (die : Nat)
  /-- A secured session creates a protected context with fresh keys (R383). -/
  | sessionCreate (vf : Nat) (iface : Nat) (key : Nat) (grace : Nat) (period : Nat)
  /-- A rekey exchange replaces the submission key and sets E to 1 (R390). -/
  | rekey (vf : Nat) (iface : Nat)
  /-- An authenticated HEARTBEAT entry resets the heartbeat timer (R393). -/
  | heartbeat (vf : Nat) (iface : Nat)
  /-- Three periods without an accepted entry seal the protected context (R393). -/
  | heartbeatTimeout (vf : Nat) (iface : Nat)
  /-- The grace window ends without rekey and the context's keys and data are destroyed (R393). -/
  | graceExpiry (vf : Nat) (iface : Nat)
  /-- Authenticated copy and decryption of host data into protected memory (R388). -/
  | importCmd (vf : Nat) (iface : Nat) (seq : DWord) (src : DWord) (dst : DWord) (len : DWord)
  /-- Authenticated encryption and copy of protected memory to host memory (R388). -/
  | exportCmd (vf : Nat) (iface : Nat) (seq : DWord) (src : DWord) (dst : DWord) (len : DWord)
  /-- A plain submission entry of another kind or for a protected interface is dropped with event SUBMIT (R402). -/
  | submitDropped (vf : Nat) (iface : Nat) (launch : DWord)
  /-- The device issues a report signed with both identity keys (R397). -/
  | attestationReport (vf : Nat) (iface : Nat) (nonce : List Byte)
  /-- Invalidates stage-1 translations of a virtual range of one interface (R176). -/
  | invs1 (win : Post) (vf : Nat) (iface : Nat) (base : DWord) (len : DWord)
  /-- Invalidates every stage-1 translation of one interface (R176). -/
  | invs1all (win : Post) (vf : Nat) (iface : Nat)
  /-- Invalidates translations of a partition-physical range (R176). -/
  | invs2 (win : Post) (vf : Nat) (base : DWord) (len : DWord)
  /-- Invalidates every translation of one partition at both stages (R176). -/
  | invs2all (win : Post) (vf : Nat)
  /-- Halts a launch with cause REQUEST until a RESUME (R332). -/
  | suspend (win : Post) (launch : Nat) (auth : Bool)
  /-- Allows a suspended launch to be restored (R332). -/
  | resume (win : Post) (launch : Nat) (auth : Bool)
  /-- Ends a launch from outside with status ENDED (R230). -/
  | endCmd (win : Post) (launch : Nat)
  /-- Takes a checkpoint of the whole partition's dirty granules (R348). -/
  | ckpt (win : Post) (vf : Nat) (dst : DWord) (size : DWord)
  /-- Restores a chain of checkpoints onto a partition of the same shape (R349). -/
  | restore (win : Post) (vf : Nat) (list : DWord) (count : DWord)
  /-- Loads two wrapped keys into an HBM key slot (R381). -/
  | keyload (win : Post) (slot : Nat) (addr : DWord)
  /-- Zeroes an HBM key slot (R381). -/
  | keydestroy (win : Post) (slot : Nat)
  /-- Removes a cluster, bank, way, channel or lane from service at an interval end (R21). -/
  | retire (win : Post) (cls : Nat) (unit : Nat)
  /-- A command code that is not defined gives STATUS REFUSED (R403). -/
  | unknownCommand (win : Nat) (code : DWord)
  /-- Mailbox command writing data to a flash copy (R409). -/
  | flashwrite
  /-- Mailbox command verifying and committing a flash copy (R409). -/
  | flashcommit
  /-- Mailbox command returning status (R409). -/
  | status
  /-- Mailbox command beginning a normal start (R409). -/
  | restart
  /-- The start sequence verifies firmware, trains HBM and lanes and opens the functions (R408). -/
  | packageStart (training : BitVec 8)
  /-- Firmware not operational within 10 s fails the start (R408). -/
  | bootWatchdog
  /-- Level 1 pushes a free frame to a die's claim reserve (R184). -/
  | claimReservePush (who : Agent) (vf : Nat) (die : Nat) (large : Bool) (v : DWord)
  /-- Level 1 pops a returned frame from the return queue (R184). -/
  | claimReservePop (who : Agent) (vf : Nat) (die : Nat)
  /-- A CONS write frees room, letting waiting fault and service records be appended (R401). -/
  | queueConsume (off : Post) (cons : BitVec 16)
  /-- A RIGHTS1 or RIGHTS2 write grants or revokes rights and resends pending fault records (R375). -/
  | rightsWrite (who : Agent) (off : Nat) (v : DWord)
  /-- A place-table write is taken only while no team is resident on the units named (R378). -/
  | placeTableWrite (who : Agent) (off : Nat) (v : DWord)
  /-- A FIXED write is refused and counted if fixed units would exceed units in service (R354). -/
  | fixedWrite (who : Agent) (off : Nat) (v : DWord)
  /-- A PSLOTS write is checked and resets the partition's priority pointer (R364). -/
  | pmktctlWrite (who : Agent) (off : Nat) (v : DWord)
  /-- A circuit entry write is refused unless both lanes are leased and free (R327). -/
  | connectionTableWrite (who : Agent) (off : Nat) (v : DWord)
  /-- Setting EN from 0 to 1 sets every dirty-map bit (R347). -/
  | ckctlWrite (who : Agent) (off : Nat) (v : DWord)
  /-- A MIGPOL write resets the migration counters (R351). -/
  | migpolWrite (who : Agent) (off : Nat) (v : DWord)
  /-- A VF's port assignment is taken only while it holds no context (R398). -/
  | vfportWrite (who : Agent) (off : Nat) (v : DWord)
  /-- GROUP and PKG are taken only while no multi-package launch is resident (R404). -/
  | podcfgWrite (who : Agent) (off : Nat) (v : DWord)
  /-- Writing an export entry with V set increments its generation (R407). -/
  | exportTableWrite (who : Agent) (off : Nat) (v : DWord)
  /-- A write to a register without behaviour of its own takes effect under its access codes (R8). -/
  | registerWrite (who : Agent) (off : Nat) (v : DWord)
  /-- A rail's voltage and clock switch completes; issue resumes, and on a raise CAP, prices and HOLD take their new values and the extra tokens enter the ring (R272). -/
  | clockSwitchEnd (die : Nat) (rail : Nat)
  /-- A bank finishes writing back its dirty lines and home of the region returns to the home slices, with waiting accesses performed there in arrival order (R320). -/
  | dsbUnpinComplete (bank : Nat)
  /-- A pod link completes training and its UP bit is set, so traffic to its peer can flow again (R404). -/
  | podLinkUp (link : Nat)
  /-- An authenticated submission entry whose tag fails, or that has a reserved field or an undefined KIND, is dropped and counted with event AUTH and E unchanged (R389). -/
  | authEntryDropped (vf : Nat) (iface : Nat)
  deriving DecidableEq, Repr

end Sys2Proof
end

