-- ==== Sys2Proof/Machine/State.lean ====
section
/-! DEFINITION. The state of the machine as plain data: everything the spec gives Lerolo.
Sparse tables are lists of (key, value) pairs with rising keys; what a table does not list is at its reset value. -/

namespace Sys2Proof.Machine

/-- A sparse table by key, keys rising. -/
abbrev Tbl (α : Type) := List (Nat × α)

/-- One bit for each of the 32 lanes, or for each of the 32 vector names. -/
abbrev Mask := BitVec 32

/-- The 32 lanes of a vector register (R196). -/
abbrev Lanes := Vector Word 32

/-- Trap causes (R43). -/
inductive Cause where
  | illop | illhdr | converge | regname | regidx | accname | tidbad | align | xlate | access | gangtkt | unaff
  | diverge | qfault | engine | soft | brk | fpe | mchk | pqfault | barfault | place
  deriving DecidableEq, Repr

/-- What a split waits for at its word or before its clause (R63). -/
inductive Wait where
  /-- Outstanding operations that write these vector names (R26, R199). -/
  | names (n : Mask)
  /-- Completion flags (R87). -/
  | flags (m : BitVec 12)
  /-- A path counter to be at or below what a scalar register then holds (R87). -/
  | counter (path reg : Nat)
  /-- A path counter that stands at 63 (R61). -/
  | full (path : Nat)
  /-- Physical registers of the pool, for the names that a word writes (R202). -/
  | pool (names : List Nat)
  /-- Free tile slots, one on each sub-array listed (R205, R241). -/
  | tile (subs : List Nat)
  /-- The stage of a sub-array (R232). -/
  | stage (sub : Nat)
  /-- Readers or writers of the tiles of these accumulator names (R241, R250). -/
  | tileWords (n : BitVec 8)
  /-- A first-use event on the core (R255). -/
  | firstUse
  /-- A table walk of the page that holds a virtual address (R175). -/
  | walk (va : Nat)
  /-- A free entry of the fault buffer (R178). -/
  | faultBuffer
  /-- Completion records on a queue port (R80, R222). -/
  | record (port count : Nat)
  /-- Fewer than 16 commands on a queue port (R219). -/
  | command (port : Nat)
  /-- A TIDSET of a tensor name (R218). -/
  | tensor (n : Nat)
  /-- The arrival counter to come up to what a scalar slot then reads (R212). -/
  | arrival (slot : Nat)
  /-- Allowance on a pass queue (R163). -/
  | allowance (q : Nat)
  /-- A handle of a pass queue (R164). -/
  | handle (q : Nat)
  /-- The phase of a barrier to differ from a token (R308). -/
  | barrier (scope n : Nat) (token : Bool)
  /-- Fewer than four outstanding SVCs (R93). -/
  | svc
  /-- The release log: room, and no promotion on the core (R286, R289). -/
  | releaseLog
  /-- Earlier accesses of the squad that a retraining stack or a passing home holds back (R273, R320). -/
  | memory
  /-- A top-up of tokens for the word (R265). -/
  | topUp
  /-- The squad's parked word (R177). -/
  | parked
  deriving DecidableEq, Repr

/-- The words of a clause as they were fetched (R22, R27). -/
structure Clause where
  header : Word
  words : List Word
  deriving DecidableEq, Repr

/-- Why a walk stopped (R173, R179): the stage (1 or 2, 0 for the handle table), the cause, the table level, whether the
access was a walk of a stage-1 table, and the addresses of the record. -/
structure WalkFault where
  stage : Nat
  cause : Nat
  level : Nat
  walk : Bool
  va : Nat
  ppa : Nat
  deriving DecidableEq, Repr

/-- A split (R47). -/
structure Split where
  /-- Which of the squad's four split slots it takes; the model's own name for it. -/
  id : Nat
  /-- The clause position (R28). -/
  pos : DWord
  mask : Mask
  /-- Held at convergence (R58). -/
  held : Bool := false
  /-- Released from the convergence header at which it stands (R58). -/
  passed : Bool := false
  /-- The clause at the position, once its words have been fetched (R25). -/
  clause : Option Clause := none
  /-- Whether a word of the clause has issued since the split came to the clause (R56). -/
  begun : Bool := false
  /-- Tokens captured for words of the clause: index of the word and tokens (R260, R264). -/
  tokens : List (Nat × Nat) := []
  /-- Whether the clause's capture is complete, or its price is 0 (R261). -/
  captured : Bool := false
  /-- Positions that free tokens have moved since then, while the clause has not begun (R264). -/
  lapse : Nat := 0
  /-- Its position was supplied at level 2 since its image was written (R98). -/
  supplied : Bool := false
  wait : Option Wait := none
  /-- The token of a BARX whose arrival has been performed (R308, R313). -/
  arrived : Option Bool := none
  /-- The phase of the barrier on which it waited has completed (R306). -/
  released : Bool := false
  /-- The virtual address of a finished walk that found no translation, and why (R175, R177). -/
  walked : Option (Nat × WalkFault) := none
  /-- The registers or tiles that the pool has come to hold for its word, until the word takes them (R202, R205). -/
  owed : Option Wait := none
  /-- It waits at the start of its clause for values produced before, and that wait has been counted (R26). -/
  awaiting : Bool := false
  deriving DecidableEq, Repr

/-- A deferred group of lanes (R47). -/
structure Bench where
  pos : DWord
  mask : Mask
  deriving DecidableEq, Repr

/-- A vector name bound to a physical register, `token` being the model's name of the register (R198). -/
structure Binding where
  token : Nat
  lanes : Lanes
  deriving DecidableEq, Repr

/-- The result of translating one address (R173, R175): the device-physical address, the key slot, whether L1 may
hold the line, the device-physical address of the stage-2 leaf and the page size there, for ZP; and the virtual address
with the context that accesses it, for pins and charges (R320, R324). -/
structure Xlate where
  pa : Nat
  key : Nat
  nc : Bool
  leaf : Nat
  size : Nat
  va : Nat := 0
  /-- None for an access of the device or of the host. -/
  context : Option Nat := none
  deriving DecidableEq, Repr

/-- Where one lane's access goes. -/
inductive Place where
  | memory (x : Xlate)
  | scratch (addr : Nat)
  /-- A window address: the logical team of the gang and the offset (R158). -/
  | window (team addr : Nat)
  | pod (va : Nat)
  deriving DecidableEq, Repr

/-- One lane of an outstanding operation: its virtual address, where it goes, the bytes it writes, and the bytes it
has read. `refused` marks a lane that an exporter, a host or a ticket check refused (R160, R186, R302). -/
structure LaneAccess where
  lane : Nat
  va : DWord
  place : Place
  data : List Byte := []
  result : List Byte := []
  finished : Bool := false
  refused : Bool := false
  deriving DecidableEq, Repr

/-- The element formats of tensors (R216). -/
inductive Fmt where
  | f32 | f16 | bf16 | e4m3 | e5m2 | mxfp8e4m3 | mxfp8e5m2 | mxfp4 | sf4 | i8 | u8 | i4 | i32
  deriving DecidableEq, Repr

/-- The operand snapshot of a matrix operation (R239): element patterns of A by row and of B by column, the scales
of each block, and the band scales of each row and column. -/
structure Operands where
  fmtA : Fmt
  fmtB : Fmt
  a : List (List Nat)
  b : List (List Nat)
  blkA : List (List Nat) := []
  blkB : List (List Nat) := []
  bandA : List Nat := []
  bandB : List Nat := []
  deriving DecidableEq, Repr

/-- One part of a matrix operation (R246): its sub-array, its tile slot, and whether it has finished. -/
structure MmaPart where
  sub : Nat
  tile : Nat
  rowBase : Nat
  colBase : Nat
  /-- No incoming value: MMAZ (R245). -/
  fresh : Bool
  finished : Bool := false
  /-- Running when a halt stopped it: the k-steps completed, and the partial sums of its cells then (R252, R342). -/
  ran : Bool := false
  steps : Nat := 0
  cells : List Int := []
  deriving DecidableEq, Repr

/-- What an outstanding operation does. -/
inductive OpKind where
  /-- A vector load: destination name, register count per lane (R188). -/
  | vload (d : BitVec 5)
  /-- A scalar load (R190). -/
  | sload (d : BitVec 5)
  /-- A store (R188). -/
  | store
  /-- ATOM or ARED: operation, element type, whether old values return (R298). -/
  | atomic (fn et : Nat) (returns : Bool) (d : BitVec 5)
  /-- ACAS (R300). -/
  | compareSwap (d : BitVec 5)
  /-- A remote deposit: register name, target team and squad (R210). -/
  | deposit (n : BitVec 5) (team sq : Nat) (lanes : Mask) (data : Lanes)
  /-- A service call: the index of its record, its argument, and the reply that a saved squad holds (R93, R341). -/
  | svc (d : BitVec 5) (record : Nat) (arg : DWord) (reply : Option DWord)
  /-- CLAIM: range still to do and the three counts; its lane holds the first address (R185). -/
  | claim (d : BitVec 5) (next last moved home skipped : Nat)
  /-- XQ with its result (R194). -/
  | query (d : BitVec 5) (value : DWord)
  /-- CWB or CINV over a range of virtual addresses (R193). -/
  | cache (invalidate : Bool) (first last : Nat)
  /-- ACQP: destination, target physical core, scope (R288). -/
  | acqp (d : BitVec 5) (core scope : Nat)
  | tidset (n : BitVec 5)
  | tidget (n : BitVec 5)
  /-- A matrix word (R245). -/
  | mma (ops : Operands) (ftz sat : Bool) (parts : List MmaPart)
  /-- A read of one row of a tile: destination, tile slot or none for an unbound name (R250). -/
  | accRead (d : BitVec 5) (tile : Option Nat) (row : Nat) (lanes : Mask)
  /-- A write of one row of a tile (R250). -/
  | accWrite (tile row : Nat) (lanes : Mask) (data : Lanes)
  /-- A load of a tile from its lane accesses, with the name it binds and whether its elements are I32 (R251). -/
  | accLoad (tile : Nat) (name : BitVec 3) (isInt : Bool)
  /-- A store of a tile; its elements are read when the tile's earlier words are done (R251). -/
  | accStore (tile : Option Nat)
  deriving DecidableEq, Repr

/-- An outstanding operation (R24, R60, R335). -/
structure Op where
  id : Nat
  instr : Instr
  pos : DWord
  kind : OpKind
  /-- The flag it holds: 0 to 11 (R24). -/
  flag : Option Nat
  /-- Its path: 0 GL, 1 GS, 2 SP, 3 RM (R60). -/
  path : Option Nat
  /-- LFLAG or XFLAG (R24). -/
  loadClass : Bool
  scope : Nat := 0
  size : Nat := 4
  lanes : List LaneAccess := []
  /-- Vector names it writes (R199). -/
  writes : Mask := 0
  /-- Physical registers it still reads (R199). -/
  reads : List Nat := []
  performed : Bool := false
  /-- Completed, but an older operation of its path is not (R60). -/
  finished : Bool := false
  /-- The generation tag at issue (R335). -/
  gen : BitVec 10 := 0
  /-- Translate before issue, after a restore (R182). -/
  translate : Bool := false
  /-- A resumed matrix record that has not captured its word's price again (R269). -/
  asks : Bool := false
  deriving DecidableEq, Repr

/-- A tensor descriptor as its 256 bits (R216). -/
abbrev Descriptor := BitVec 256

/-- A pushed engine command: its words, the descriptors it names as they were at the push, rows done, and its
record once produced (R219, R222, R224). -/
structure Command where
  words : List DWord
  dst : Descriptor
  src : Descriptor
  idx : Descriptor
  scope : Nat
  rows : Nat := 0
  /-- Blocks of the row at hand whose tokens have been captured and given back (R415). -/
  blocks : Nat := 0
  /-- The command waits on a fault-buffer style record of the engine (R222). -/
  fault : Option (Nat × DWord) := none
  /-- The id of the collective it combines in (R220). -/
  collective : Option Nat := none
  /-- Its place in the order in which the team pushed (R60, R220). -/
  seq : Nat := 0
  record : Option DWord := none
  /-- The end of the rows of the block at hand (R415); 0 between blocks. -/
  upto : Nat := 0
  /-- The indices of a GATHER or SCATTER, once read (R220). -/
  index : Option (List Int) := none
  /-- Its access is translated first when it goes on after a restore (R182, R333). -/
  translate : Bool := false
  /-- The word that pushed it with its literal, where it stood, and the generation tag then (R336). -/
  word : Word := 0
  lit : Word := 0
  pos : DWord := 0
  gen : BitVec 10 := 0
  deriving DecidableEq, Repr

/-- A trap waiting to be taken (R97). -/
structure Pending where
  cause : Cause
  value : DWord
  deriving DecidableEq, Repr

/-- An escalated trap: the split that raised it, cause, value, position (R98). -/
structure Escalation where
  split : Nat
  cause : Cause
  value : DWord
  pos : DWord
  deriving DecidableEq, Repr

/-- A deposit saved at the target (R213). -/
structure PendingDeposit where
  name : BitVec 5
  lanes : Mask
  data : Lanes
  deriving DecidableEq, Repr

/-- The kinds of a translated access (R179). -/
inductive AccessKind where
  | read | write | atomic | fetch
  deriving DecidableEq, Repr

/-- A pending translation fault (R177, R179). `split` is the split of a word, 4 to 6 for a command of ports q0 to q2, 7 for
the writing of an image (R337), 8 for a replay packet (R195), 9 for the spill of a deferred tile (R343). -/
structure Fault2 where
  squad : Nat
  split : Nat
  /-- The level that owns the record: 0, 1 or 2, with the partition and the interface. -/
  owner : Agent
  lane : Nat
  va : DWord
  gen : BitVec 10
  /-- The captured operation, or none for a fetch (R177), with the names it writes and releases, the ports it pops,
  and the kind of its accesses. -/
  op : Option Op
  dests : List Nat := []
  rels : List Nat := []
  pops : List Nat := []
  kind : AccessKind := .read
  bytes : List Byte
  deriving DecidableEq, Repr

/-- A squad (R47, R196). -/
structure Squad where
  team : Nat
  sq : Nat
  core : Nat
  quarter : Nat
  sregs : Vector DWord 28 := Vector.replicate 28 0
  vregs : Vector (Option Binding) 32 := Vector.replicate 32 none
  /-- Retired physical registers (R199). -/
  retired : List Nat := []
  preds : Vector Mask 7 := Vector.replicate 7 0
  /-- Accumulator names bound to tile slots of the core (R241). -/
  accs : Vector (Option Nat) 8 := Vector.replicate 8 none
  mode : BitVec 32 := 0x000800A7#32
  xp : BitVec 32 := 0
  fstat : BitVec 5 := 0
  tvec : DWord := 0
  tpc : DWord := 0
  active : Bool := false
  tcause : BitVec 6 := 0
  tval : DWord := 0
  tmask : DWord := 0
  arrv : DWord := 0
  rng : DWord := 0
  splits : List Split := []
  bench : List Bench := []
  /-- The split that the quarter served last (R65). -/
  lastServed : Option Nat := none
  /-- The split that runs the handler (R95). -/
  handler : Option Nat := none
  ops : List Op := []
  /-- Partly written commands of q0, q1 and q2 (R219). -/
  assembly : Vector (List DWord) 3 := Vector.replicate 3 []
  /-- Commands pushed and not popped, oldest first, of q0, q1 and q2 (R219, R222). -/
  commands : Vector (List Command) 3 := Vector.replicate 3 []
  /-- Places in the push order of commands popped while an older one is not: they still count on EQ (R60). -/
  popped : List Nat := []
  pending : List Pending := []
  escalation : Option Escalation := none
  /-- The word that is parked on a translation fault: the entry of the core's fault buffer (R177). -/
  parked : Option Nat := none
  /-- The parked word of a halted squad, as its fault-buffer entry held it (R182). -/
  captured : Option Fault2 := none
  deposits : List PendingDeposit := []
  /-- Which of its quarter's sixteen squad slots it takes, and that slot's generation tag (R50, R335). -/
  slot : Nat := 0
  gen : BitVec 10 := 0
  /-- Halted, suspended or saved with its gang (R63). -/
  halted : Bool := false
  deriving DecidableEq, Repr

/-- A barrier (R306). The roster and the arrived set name squads by 32 × TEAMID + SQID, or gangs by number. -/
structure Barrier where
  roster : List Nat := []
  arrived : List Nat := []
  phase : Bool := false
  deriving DecidableEq, Repr

/-- A pass queue (R162). -/
structure PassQueue where
  head : Nat := 0
  tail : Nat := 0
  count : Nat := 0
  /-- Allowance of each squad by SQID. -/
  allow : Tbl Nat := []
  /-- Waiting pops in the order they issued: squad and split (R164). -/
  waiting : List (Nat × Nat) := []
  deriving DecidableEq, Repr

/-- A team (R47). -/
structure Team where
  gang : Nat
  index : Nat
  core : Nat
  squads : List Nat
  /-- Base granule of the scratchpad allocation in the core's SRAM (R146). -/
  base : Nat := 0
  /-- Scratchpad bytes not 0, by team address (R146). -/
  scratch : List Host.Cell := []
  tensors : Vector Descriptor 32 := Vector.replicate 32 0
  queues : Vector PassQueue 8 := Vector.replicate 8 {}
  barriers : Vector Barrier 16 := Vector.replicate 16 {}
  /-- Stripe offset of the operand-stack share (R234). -/
  stackBase : Nat := 0
  /-- Operand-stack bytes not 0, by stripe × Q + offset (R234). -/
  stack : List Host.Cell := []
  /-- The next iteration of the work distributor; none before the first WGET (R228). -/
  work : Option Nat := none
  deriving DecidableEq, Repr

/-- The life of a gang (R333, R338, R344). -/
inductive Phase where
  | running
  /-- Halted, the image not yet committed. -/
  | halted
  /-- Saved: the image is committed. -/
  | saved
  | ended
  deriving DecidableEq, Repr

/-- A gang (R47, R53). -/
structure Gang where
  launch : Nat
  index : Nat
  ticket : Word
  age : Nat
  cluster : Nat
  teams : List Nat
  phase : Phase := .running
  /-- The causes of the halt, lowest code (R332). -/
  cause : Nat := 0
  /-- The order of halting (R204). -/
  haltOrder : Nat := 0
  barriers : Vector Barrier 8 := Vector.replicate 8 {}
  /-- The gang's sub-barriers of l0 to l3 (R311). -/
  routers : Vector Barrier 4 := Vector.replicate 4 {}
  /-- The die whose instances of die-scope router barriers it belongs to, wherever it is restored (R311, R312). -/
  routerDie : Nat := 0
  /-- The page of the gang-image place within the save area (R416); the team images follow it. -/
  page : Nat := 0
  pages : Nat := 0
  /-- The directory entry (R416). -/
  directory : Nat := 0
  /-- A protected image was refused; tried again at RESUME (R387). -/
  refused : Bool := false
  deriving DecidableEq, Repr

/-- A router-barrier instance of a launch: the scope fixed for it, and one barrier for the package or for each die (R311). -/
structure RouterBarrier where
  scope : Option Nat := none
  instances : Tbl Barrier := []
  deriving DecidableEq, Repr

/-- A launch: its block as read (R226), and its life (R230). -/
structure Launch where
  context : Nat
  id : Nat
  block : DWord
  coop : Bool := false
  fused : Bool := false
  wdist : Bool := false
  dep : Bool := false
  wakeIrq : Bool := false
  entry : DWord := 0
  trapEntry : DWord := 0
  gangCount : Nat := 1
  squads : Nat := 1
  teams : Nat := 1
  regs : Nat := 32
  floor : Nat := 32
  accums : Nat := 0
  cls : Nat := 0
  weights : BitVec 16 := 0
  scratch : Nat := 0
  stack : Nat := 0
  args : List DWord := []
  seed : DWord := 0
  tidMask : Word := 0
  tidTab : DWord := 0
  tiles : Nat := 0
  iters : Nat := 0
  prodBlock : DWord := 0
  depMap : Nat := 0
  depParam : Nat := 0
  wakeAddr : DWord := 0
  wakeWindow : Nat := 0
  vector : Nat := 0
  podTag : Nat := 0
  podCount : Nat := 1
  bitmap : DWord := 0
  started : Bool := false
  /-- The page of a cooperative launch's own image place (R337, R416). -/
  place : Option Nat := none
  /-- A gang claimed by a die's command processor and not yet admitted, by die (R227). -/
  claimed : Tbl Nat := []
  /-- Dies whose claiming has ended (R227). -/
  closed : List Nat := []
  /-- Dies on which a gang of the launch has ended: its teams stay members of the die's collectives (R220). -/
  gone : List Nat := []
  routers : Vector RouterBarrier 4 := Vector.replicate 4 {}
  suspended : Bool := false
  /-- Final status, once ended (R230). -/
  ended : Option Nat := none
  deriving DecidableEq, Repr

/-- A context (R357, R364, R225). -/
structure Context where
  bids : Vector DWord 5 := Vector.replicate 5 0
  weights : Vector Nat 4 := Vector.replicate 4 1
  /-- Launch entries performed (R225). -/
  launches : Nat := 0
  /-- Counters C[a][b] of the migration engine, by 8 a + b (R351). -/
  moves : Tbl Nat := []
  /-- Dies that the migration engine has moved a unit to and onto which no gang has been restored since, those onto which the first
  one has, and those that it moved a unit from at the last bid close (R352). -/
  movedTo : List Nat := []
  arrived : List Nat := []
  movedFrom : List Nat := []
  /-- The number of the context in its interface, in the order of creation (R362). -/
  number : Nat := 0
  /-- PLDIE as its creation and the last interval boundary found it, by which its capability registers read (R410). -/
  dies : DWord := 0
  isProtected : Bool := false
  counter : Nat := 0
  contextKey : Nat := 0
  submissionKey : Nat := 0
  keySlot : Nat := 0
  /-- The expected number E of the authenticated queue; none while the queue is halted or exhausted (R389). -/
  expect : Option Nat := some 1
  /-- Digests of IMPORTs, in SEQ order, the device's share of the last key exchange, and the tenant's public key (R390, R397). -/
  imports : List (List Byte) := []
  share : List Byte := []
  tenant : Nat := 0
  deriving DecidableEq, Repr

/-- A record that waits for a queue to have room: queue offset, bytes, and for a level-0 ring the PF that it goes to (R401; log 13). -/
structure Waiting where
  queue : Nat
  bytes : List Byte
  pf : Nat := 0
  deriving DecidableEq, Repr

/-- A combined translation in a core's TLB (R175). -/
structure TlbEntry where
  vf : Nat
  iface : Nat
  /-- First virtual address and size of the page. -/
  va : Nat
  size : Nat
  pa : Nat
  r : Bool
  w : Bool
  x : Bool
  nc : Bool
  claimable : Bool
  zp : Bool
  key : Nat
  /-- D seen set at both stages (R174). -/
  dirty : Bool
  /-- Stage-2 leaf entry and the size of its page; stage-1 leaf entry; partition-physical page. -/
  leaf2 : Nat
  size2 : Nat
  leaf1 : Nat
  ppa : Nat
  deriving DecidableEq, Repr

/-- A page-table walk asked for (R175). -/
structure Walk where
  squad : Nat
  split : Nat
  va : Nat
  kind : AccessKind
  deriving DecidableEq, Repr

/-- A release-log entry: context, scope and cut (R286): the addresses of the bytes that stood dirty when the release took
effect; every other write that happens before it was already at its home. -/
structure LogEntry where
  context : Nat
  scope : Nat
  cut : List Nat := []
  deriving DecidableEq, Repr

/-- An accumulator tile (R241): owner, elements, type I32 or not, sticky overflow. -/
structure Tile where
  squad : Nat
  context : Nat
  words : List Word
  isInt : Bool := false
  ovf : Bool := false
  /-- Still read by an operation after its name was unbound (R241). -/
  retired : Bool := false
  /-- Deferred: belongs to a saved gang (R343), with the accumulator name. -/
  deferred : Option Nat := none
  deriving DecidableEq, Repr

/-- The scheduler of one quarter (R65), and its first-level TLB, newest entry first (R175). -/
structure Quarter where
  tlb : List TlbEntry := []
  dc : Vector Int 4 := Vector.replicate 4 0
  ptr : Nat := 0
  /-- The split being issued: squad and split, and the words it issued in this turn. -/
  chosen : Option (Nat × Nat) := none
  words : Nat := 0
  /-- The squad that is the youngest of its class for the next choice (R65, R87). -/
  youngest : Option Nat := none
  deriving DecidableEq, Repr

/-- A valid line of an L1 (R150): its way, and the context that allocated it (R324). -/
structure L1Line where
  way : Nat
  context : Option Nat
  deriving DecidableEq, Repr

/-- A core. -/
structure Core where
  quarters : Vector Quarter 4 := Vector.replicate 4 {}
  /-- The TLB that the quarters share, newest entry first (R175). -/
  tlb : List TlbEntry := []
  faults : Tbl Fault2 := []
  /-- Generations of the fault-buffer entries (R180). -/
  faultGen : Tbl (BitVec 10) := []
  log : List LogEntry := []
  /-- The valid lines of the L1 by address / 128 (R150). -/
  lines : Tbl L1Line := []
  /-- Dirty bytes of the L1 by device-physical address (R150, R277), each with the stage-2 leaf through which it was written, whose
KEY its write-back takes (R380; log 122). -/
  dirty : Tbl (Byte × Nat) := []
  /-- Sectors of the scratchpad region (R145). -/
  sectors : Nat := 0
  /-- Ways that drain to join the region, and the launch whose gang waits for them (R148). -/
  draining : Nat := 0
  drainFor : Option Nat := none
  tiles : Tbl Tile := []
  /-- For each sub-array the running and the staged matrix parts: squad, operation, part (R232). -/
  subs : Tbl (List (Nat × Nat × Nat)) := []
  aown : DWord := 0
  /-- Generation tags of the squad slots, by 16 × quarter + slot (R335). -/
  gens : Tbl (BitVec 10) := []
  clock : DWord := 0
  /-- Performance counters by kind (R26, R61, R120, R156, R191, R199, R211, R232, R265, R283; log 86). -/
  perf : Tbl Nat := []
  deriving DecidableEq, Repr

/-- A request of a split or of an engine block at a ring stop (R260). -/
structure Request where
  /-- The squad and split, or none for an engine block and for a matrix record. -/
  split : Option (Nat × Nat)
  /-- The squad and the operation of a resumed matrix record (R269). -/
  record : Option (Nat × Nat) := none
  /-- Price of each word, by index; an engine block has one. -/
  prices : List (Nat × Nat)
  captured : Nat := 0
  /-- Positions that free tokens have moved while the request stood at the head (R263, R266). -/
  waited : Nat := 0
  held : Nat := 0
  deriving DecidableEq, Repr

/-- Tokens held by an issued word or a block (R264). -/
structure Hold where
  stop : Nat
  tokens : Nat
  squad : Nat
  /-- The operation whose completion ends it; none for a vector word. -/
  op : Option Nat
  deriving DecidableEq, Repr

/-- A cluster. -/
structure Cluster where
  /-- Free tokens at each ring position (R256). -/
  free : Vector Nat 10 := Vector.replicate 10 0
  serve : Nat := 0
  /-- The stop that holds the serve (R266). -/
  serving : Option Nat := none
  queues : Vector (List Request) 10 := Vector.replicate 10 []
  holds : Tbl Hold := []
  /-- Tokens still to be withdrawn (R272). -/
  withdraw : Nat := 0
  fused : Bool := false
  /-- The context that last held it (R151). -/
  last : Option Nat := none
  deriving DecidableEq, Repr

/-- A rail's change of state (R272): 0 none, 1 lowering, 2 the clock switch of a raise, 3 the clock switch of a fall. -/
structure Rail where
  state : Nat := 0
  /-- The state whose capacity and prices are in effect. -/
  effect : Nat := 0
  change : Nat := 0
  /-- States by which a thermal limit holds the rail below its target (R411). -/
  thermal : Nat := 0
  deriving DecidableEq, Repr

/-- A collective that combines (R220): its code word, its members' squads in index order, and once every source has been read the
rows that it writes. -/
structure Collective where
  code : DWord
  members : List Nat
  result : Option (List (List Nat)) := none
  deriving DecidableEq, Repr

/-- A die-scratch pin: the context, the virtual region, the bank, and whether home is passing (R318, R320). -/
structure Pin where
  context : Nat
  entry : Nat
  region : Nat
  bank : Nat
  /-- Home has passed to the bank; false while it passes there. -/
  home : Bool := false
  leaving : Bool := false
  deriving DecidableEq, Repr

/-- A compute die. -/
structure Die where
  rails : Vector Rail 4 := Vector.replicate 4 {}
  /-- The rail of each cluster of the die in effect (R270). -/
  railOf : Tbl Nat := []
  walks : List Walk := []
  collectives : Tbl Collective := []
  hot : Bool := false
  deriving DecidableEq, Repr

/-- A valid line of an L2 (R316): the context that allocated it, its way, whether that context has leased the way since then, and
whether the line is dirty. Its set within its home slice is fixed by its address (R315; log 87). -/
structure L2Line where
  context : Nat
  way : Nat
  leased : Bool
  dirty : Bool
  deriving DecidableEq, Repr

/-- A filled line of a die-scratch bank (R320): the line that it recorded, as address / 128, the context of the bank, and the
stage-2 leaf whose KEY its write-back takes (R380; log 122). -/
structure BankLine where
  line : Nat
  context : Nat
  leaf : Nat := 0
  deriving DecidableEq, Repr

/-- A page that a CLAIM has locked (R185): whose it is, its size, the frame that it is copied to, the stage-1 leaf as it was read
and where that leaf lies with its key slot. -/
structure Lock where
  vf : Nat
  iface : Nat
  base : Nat
  size : Nat
  frame : Nat
  /-- The die whose reserve gave the frame. -/
  die : Nat
  entry : Nat
  leaf : Nat
  slot : Nat
  deriving DecidableEq, Repr

/-- What every context with work on a die shares (R315 to R330, R282). -/
structure Fabric where
  pins : List Pin := []
  /-- The lines of the L2s, by address / 128 (R315, R316). -/
  l2 : Tbl L2Line := []
  /-- The lines of the die-scratch banks, by 16384 × bank + line of the bank (R320). -/
  banks : Tbl BankLine := []
  /-- Dirty bytes of the banks by the address their line recorded (R320). -/
  bankData : Tbl Byte := []
  /-- Ranges that a sweep has written zero, newest first: first address, bytes, and what stands for the keys it wrote under; a burst
written since has its own entry in State.burstKey (R183, R380). -/
  swept : List (Nat × Nat × Nat) := []
  /-- Pages that a CLAIM has locked, by the CLAIM's operation (R185). -/
  locks : Tbl Lock := []
  /-- Flits that each link between a die and an HBM stack has carried under its keys, by stack (R382). -/
  nonces : Tbl Nat := []
  /-- Ticks charged in the interval, by 8 × context + die (R324). -/
  charged : Tbl Nat := []
  /-- The row last opened on each HBM channel and whether its last burst was a write (R324; log 88). -/
  rows : Tbl (Nat × Bool) := []
  /-- Cross-die writes that a die has applied from another, by 8 × die + source (R282). -/
  applied : Tbl Nat := []
  /-- Usage counters, by (8 × context + die) × 32 + offset / 8 (R330, R352, R369). -/
  usage : Tbl DWord := []
  /-- HBM lines with an uncorrectable error, by address / 128, and the machine checks that reads of them have raised: context and
  address (R411). -/
  bad : List Nat := []
  checks : List (Nat × Nat) := []
  deriving DecidableEq, Repr

/-- A saved team, as its image holds it (R340). -/
structure Saved where
  team : Team
  squads : List (Nat × Squad)
  /-- Tiles written to the image: squad, accumulator name and tile (R343). -/
  tiles : List (Nat × Nat × Tile) := []
  /-- Tiles whose names are unbound and which outstanding words still touch: squad, slot and tile (R241, R253; log 31). -/
  kept : List (Nat × Nat × Tile) := []
  deriving DecidableEq, Repr

/-- What a checkpoint holds beside memory: the model's own form of the images in it (R348; log 32). -/
structure Snapshot where
  /-- The header that the checkpoint was written with. -/
  head : List Byte
  gangs : Tbl Gang
  launches : Tbl Launch
  saved : Tbl Saved
  contexts : Tbl Context
  deriving DecidableEq, Repr

/-- A partition (R184, R347). -/
structure Part where
  /-- Claim reserves by 2 × die + size, and return queues by die, of frame addresses (R184). -/
  reserve : Tbl (List Nat) := []
  returned : Tbl (List (Nat × Bool)) := []
  /-- Granules written since the last checkpoint; none lists all (R347). -/
  dirtyAll : Bool := false
  dirty : List Nat := []
  cksq : Nat := 0
  ckfull : Bool := true
  /-- A checkpoint with STOP set keeps the partition's contexts halted (R347, R348). -/
  stopped : Bool := false
  /-- A CKPT that awaits the commit of a gang: its window, destination and size (R348). -/
  job : Option (Nat × Nat × Nat) := none
  snapshots : List Snapshot := []
  deriving DecidableEq, Repr

/-- A ZP sweep in progress: stage-2 leaf, page base, size, key, writers waiting (R183). -/
structure Sweep where
  leaf : Nat
  base : Nat
  size : Nat
  key : Nat
  vf : Nat
  waiting : List (Nat × Nat) := []
  deriving DecidableEq, Repr

/-- An invalidation that is not complete: its window, and the accesses under old translations that it awaits, by squad and operation
(R176). -/
structure Invalidation where
  window : Nat
  accesses : List (Nat × Nat)
  deriving DecidableEq, Repr

/-- A scrub-pending page: the reset or destruction that recorded it, its partition, and its stage-2 leaf (R396). -/
structure Scrub where
  job : Nat
  vf : Nat
  leaf : Nat
  size : Nat
  ppa : Nat
  deriving DecidableEq, Repr

/-- A clamped bid of one bidder (R362). -/
structure Bid where
  bidder : Nat
  cls : Nat
  price : Nat
  lots : List Nat
  aon : Bool
  deriving DecidableEq, Repr

/-- The market (R353 to R371). -/
structure Market where
  /-- Number of the interval in force (R367). -/
  interval : Nat := 0
  running : Bool := false
  /-- The interval's length in µs, and PKG and GROUP as 0x109 reads them (R360, R410). -/
  length : Nat := 1000
  pod : DWord := 0
  /-- The bids sampled and clamped at the bid close: partitions, contexts (R362). -/
  sampled1 : List Bid := []
  sampled2 : List Bid := []
  fixed : Tbl DWord := []
  /-- Units that leave service at the next boundary, as the bid close found them (R21). -/
  leaving : List Nat := []
  pslots : Tbl Nat := []
  /-- Results of the clearing: holder of each unit in the next interval, by class × 2048 + unit (R366). -/
  next : Tbl Nat := []
  /-- Where the interval stands (R361): bids sampled, cleared, notices given. -/
  closed : Bool := false
  cleared : Bool := false
  noticed : Bool := false
  /-- Dies whose clearing had not completed when the notices were due, whether they have given theirs since, and the TIME of the
  boundary that follows for them (R361). -/
  late : List Nat := []
  lateNoticed : Bool := false
  lateEnd : Nat := 0
  /-- TIME at the end of the interval in force, in ns (R360, R367). -/
  finish : Nat := 0
  /-- Level-2 price and units sold by (vf × 5 + class) × 8 + die, cleared and in force (R367). -/
  spotNext : Tbl (Nat × Nat) := []
  spot : Tbl (Nat × Nat) := []
  /-- Level-1 prices by 8 × class + die (R371). -/
  prices : Tbl Nat := []
  pricesNext : Tbl Nat := []
  /-- Level-1 holder of open-pool units: units won by (vf × 5 + class) × 8 + die. -/
  open1 : Tbl Nat := []
  open1Next : Tbl Nat := []
  /-- Priority pointers: open pool, and each partition (R364). -/
  ptr1 : Nat := 0
  ptr2 : Tbl Nat := []
  /-- Shortfall counters of purses by register offset (R356). -/
  shortfall : Tbl Nat := []
  deriving DecidableEq, Repr

/-- What leaves the package other than by memory: interrupts, escalated traps, packets to peers, reports. -/
inductive Message where
  /-- An MSI-X vector of PF 0 (0), PF 1 (1) or VF v (2 + v) is raised (R376, R401). -/
  | interrupt (function vector : Nat)
  /-- An escalated trap of a squad to level 2 (R98). -/
  | trap (context : Nat) (cause : Cause) (value pos : DWord) (identity : List DWord) (regs : List DWord)
  /-- A store to a pod window: bytes at a handle offset of a peer (R186, R406). -/
  | podWrite (pkg : Nat) (handle : Word) (offset : Nat) (bytes : List Byte)
  /-- An atomic on a pod window, which executes at the exporter's port (R294): operation as R298 codes it, 12 for a
  compare-and-swap, element type, operand bytes. -/
  | podAtomic (pkg : Nat) (handle : Word) (offset : Nat) (fn et : Nat) (data : List Byte)
  /-- The price record to every pod link (R371). -/
  | index (pkg : BitVec 16) (seq : Word) (prices : List Word)
  /-- An attestation report, or a session share, with both signatures (R390, R397). -/
  | report (bytes : List Byte)
  /-- An incoming access was refused (R407). -/
  | podRefused (peer : Nat)
  /-- The port refused a host access: the page's key slot has another owner (R381). -/
  | hostRefused (addr : Nat)
  /-- Data of an incoming read, or of a host read (R407, R292). -/
  | data (bytes : List Byte)
  deriving DecidableEq, Repr

/-- The issuing point: the squad and split whose word executes. -/
structure Cursor where
  squad : Nat
  split : Nat
  deriving DecidableEq, Repr

/-- The state of the package. -/
structure State where
  cur : Cursor
  /-- The quarter that acts next when the agenda is empty: 4 × core + quarter. -/
  turn : Nat
  /-- Device steps and host actions that come next, in order. -/
  agenda : List Instr
  /-- Which kind of device step comes next when the agenda is empty; it turns with every step (log 2). -/
  rotor : Nat
  /-- Counter of free values (log 3). -/
  fresh : Nat
  /-- Counter of the keys of squads, teams, gangs, launches and operations. -/
  nextId : Nat
  squads : Tbl Squad
  teams : Tbl Team
  gangs : Tbl Gang
  launches : Tbl Launch
  contexts : Tbl Context
  parts : Tbl Part
  cores : Tbl Core
  clusters : Tbl Cluster
  dies : Tbl Die
  /-- HBM and host memory by device-physical address; canonical: rising addresses, no 0 byte listed. -/
  mem : List Host.Cell
  /-- The keys each HBM burst was last written under, by address / 64 (R380). -/
  burstKey : Tbl Nat
  fabric : Fabric
  /-- The register blocks of R399 by offset in PF 0's BAR0. -/
  regs : Tbl DWord
  /-- Holder of each leased unit, by class × 2048 + physical unit (R366). -/
  leases : Tbl Nat
  market : Market
  /-- Units out of service, and units to leave it at the next boundary, by class × 2048 + unit (R21). -/
  retired : List Nat
  retiring : List Nat
  sweeps : List Sweep
  invalidations : List Invalidation
  scrubs : List Scrub
  scrubbed : Tbl Nat
  saved : Tbl Saved
  /-- Freshness entries: image place (context × 2^32 + page) and COUNTER (R386). -/
  freshness : Tbl Nat
  /-- Keys of the 64 slots (R381). -/
  keys : Tbl Nat
  /-- Keys of the links between dies and HBM stacks, by stack (R382). -/
  linkKeys : Tbl Nat
  /-- The peer that each trained pod link joins, by link: its package number and its pod group (R404; log 111). -/
  peers : Tbl (Nat × Nat)
  waiting : List Waiting
  out : List Message
  /-- Wake words written and not yet covered by an interrupt, by (vf × 64 + interface) × 2^16 + vector (R230). -/
  wakes : Tbl Nat
  /-- Outstanding service records: interface, ring index, squad, operation (R402). -/
  services : List (Nat × Nat × Nat × Nat)
  /-- Flash copies by stage and copy: bytes written by FLASHWRITE (R409). -/
  flash : Tbl (List Byte)
  fails : Nat
  committed : Bool
  /-- RESTART has asked for a normal start (R409). -/
  restarting : Bool
  powered : Bool
  submissionsStopped : Bool
  time : DWord
  admissions : Nat
  tickets : Nat
  halts : Nat
  fencets : Nat
  deriving DecidableEq, Repr

/-- The faults of the machine. Every stop that the spec gives a program is a trap, a status or a record. -/
inductive Fault where
  /-- Raised by `step` alone, with the power stage shut down and no start on the agenda (R411). Safe. -/
  | powerOff
  deriving DecidableEq, Repr

/-- The refusals of the machine. -/
inductive Refusal where
  /-- An instruction whose meaning is not written: raised by the arms of `exec` that say so. Safe. -/
  | notModelled (mnemonic : String)
  deriving DecidableEq, Repr

/-- The package right after package reset, before the start sequence of R408. -/
def State.reset : State where
  cur := ⟨0, 0⟩
  turn := 0
  agenda := []
  rotor := 0
  fresh := 0
  nextId := 1
  squads := []
  teams := []
  gangs := []
  launches := []
  contexts := []
  parts := []
  cores := []
  clusters := []
  dies := []
  mem := []
  burstKey := []
  fabric := {}
  regs := []
  leases := []
  market := {}
  retired := []
  retiring := []
  sweeps := []
  invalidations := []
  scrubs := []
  scrubbed := []
  saved := []
  freshness := []
  keys := []
  linkKeys := []
  peers := []
  waiting := []
  out := []
  wakes := []
  services := []
  flash := []
  fails := 0
  committed := false
  restarting := false
  powered := true
  submissionsStopped := false
  time := 0
  admissions := 1
  tickets := 1
  halts := 0
  fencets := 0

end Sys2Proof.Machine
end

