-- ==== Sys2Proof/Machine/Table.lean ====
section
/-! DEFINITION. Sparse tables, fixed vectors and memory as lists of cells: reading and writing one entry. -/

namespace Sys2Proof.Machine

/-- The entry of a table under a key. -/
def Tbl.get? {α : Type} : Tbl α → Nat → Option α
  | [], _ => none
  | (j, x) :: t, k => if j = k then some x else Tbl.get? t k

/-- The entry under a key, or the value of an unlisted one. -/
def Tbl.getD {α : Type} (t : Tbl α) (k : Nat) (d : α) : α := (Tbl.get? t k).getD d

/-- Put an entry under a key, keeping the keys rising. -/
def Tbl.set {α : Type} : Tbl α → Nat → α → Tbl α
  | [], k, v => [(k, v)]
  | (j, x) :: t, k, v =>
    if k < j then (k, v) :: (j, x) :: t
    else if k = j then (k, v) :: t
    else (j, x) :: Tbl.set t k v

/-- Remove the entry under a key. -/
def Tbl.erase {α : Type} : Tbl α → Nat → Tbl α
  | [], _ => []
  | (j, x) :: t, k => if j = k then t else (j, x) :: Tbl.erase t k

/-- The keys of a table whose entry satisfies a test. -/
def Tbl.keysWith {α : Type} (t : Tbl α) (p : α → Bool) : List Nat := (t.filter fun e => p e.2).map (·.1)

/-- The keys rise strictly. -/
def Tbl.sorted {α : Type} : Tbl α → Bool
  | [] => true
  | [_] => true
  | (j, _) :: (k, y) :: t => decide (j < k) && Tbl.sorted ((k, y) :: t)

/-- The vector of a function of the index. -/
def tab {α : Type} (n : Nat) (f : Nat → α) : Vector α n := ⟨⟨(List.range n).map f⟩, by simp⟩

/-- The entry of a vector at an index, with a value for an index past the end. -/
def at' {α : Type} {n : Nat} (v : Vector α n) (i : Nat) (d : α) : α := v.toList.getD i d

/-- A vector with one entry changed; an index past the end changes nothing. -/
def put {α : Type} {n : Nat} (v : Vector α n) (i : Nat) (x : α) : Vector α n :=
  ⟨⟨v.toList.set i x⟩, by simp⟩

/-- Lane `i` of a vector register. -/
def lane (v : Lanes) (i : Nat) : Word := at' v i 0

/-- The vector register whose lane `i` is `f i`. -/
def lanesOf (f : Nat → Word) : Lanes := tab 32 f

/-- 0 in every lane. -/
def zeroLanes : Lanes := lanesOf fun _ => 0

/-- The byte that an unlisted address reads as (R146 for scratchpad; log 6 for HBM). -/
def unlisted : Byte := 0

/-- Read one byte of a memory. -/
def readByte (m : List Host.Cell) (a : Nat) : Byte := Tbl.getD (α := Byte) m a unlisted

/-- Write one byte of a memory; writing what an unlisted address reads as removes the entry. -/
def writeByte (m : List Host.Cell) (a : Nat) (b : Byte) : List Host.Cell :=
  if b = unlisted then Tbl.erase (α := Byte) m a else Tbl.set (α := Byte) m a b

/-- `n` bytes from an address up. -/
def readBytes (m : List Host.Cell) (a n : Nat) : List Byte := (List.range n).map fun i => readByte m (a + i)

/-- Write bytes from an address up. -/
def writeBytes : List Host.Cell → Nat → List Byte → List Host.Cell
  | m, _, [] => m
  | m, a, b :: bs => writeBytes (writeByte m a b) (a + 1) bs

/-- Set `n` bytes from an address up to what an unlisted address reads as. -/
def clearBytes (m : List Host.Cell) (a n : Nat) : List Host.Cell :=
  m.filter fun c => decide (c.1 < a) || decide (a + n ≤ c.1)

/-- The canonical form of a memory: addresses rise strictly and no entry is what an unlisted address reads as. -/
def Memory.wf (m : List Host.Cell) : Bool := Tbl.sorted (α := Byte) m && m.all fun c => c.2 != unlisted

/-- The little-endian value of bytes (R6). -/
def leNat : List Byte → Nat
  | [] => 0
  | b :: bs => b.toNat + 256 * leNat bs

/-- `n` bytes of a value, least significant first (R6). -/
def leBytes (v : Nat) : Nat → List Byte
  | 0 => []
  | n + 1 => BitVec.ofNat 8 v :: leBytes (v / 256) n

/-- Whether bit `i` of a mask is set. -/
def has {w : Nat} (m : BitVec w) (i : Nat) : Bool := m.getLsbD i

/-- The mask whose bit `i` is `f i`. -/
def maskOf (f : Nat → Bool) : Mask :=
  BitVec.ofNat 32 ((List.range 32).foldl (fun acc i => if f i then acc + 2 ^ i else acc) 0)

/-- The set bits of a mask, ascending. -/
def lanesIn (m : Mask) : List Nat := (List.range 32).filter fun i => has m i

/-- A list without repeats, first places kept. -/
def distinct {α : Type} [BEq α] (l : List α) : List α := l.foldl (fun acc x => if acc.contains x then acc else acc ++ [x]) []

end Sys2Proof.Machine
end

