-- ==== Sys2Proof/Machine/Regs.lean ====
section
/-! DEFINITION. The register blocks behind the ports (R399, R400) by offset in PF 0's BAR0, and the place tables. -/

namespace Sys2Proof.Machine

/-- The package block (R399). -/
def packageBase : Nat := 0x00010000

/-- The block of die `d` (R399). -/
def dieBase (d : Nat) : Nat := 0x00100000 + d * 0x10000

/-- The block of partition `v` (R399). -/
def partBase (v : Nat) : Nat := 0x10000000 + v * 0x800000

/-- The block of interface `i` of partition `v` (R399). -/
def ifaceBase (v i : Nat) : Nat := partBase v + 0x100000 + i * 0x10000

/-- The key of a context: partition, interface slot and context slot (R400). -/
def contextKey (v i k : Nat) : Nat := (v * 64 + i) * 4 + k

/-- The partition of a context. -/
def contextVf (c : Nat) : Nat := c / 256

/-- The interface slot of a context. -/
def contextIface (c : Nat) : Nat := c / 4 % 64

/-- The block of a context slot (R400). -/
def contextBase (c : Nat) : Nat := ifaceBase (contextVf c) (contextIface c) + 0x4000 + 0x3000 * (c % 4)

/-- The offset of a register within its partition block, for offsets in the partitions' range. -/
def inPart (off : Nat) : Nat := (off - 0x10000000) % 0x800000

/-- The offset within the interface block, for offsets at or above 0x10_0000 of a partition block. -/
def inIface (off : Nat) : Nat := (inPart off - 0x100000) % 0x10000

/-- Whether an offset lies in a partition block. -/
def isPart (off : Nat) : Bool := decide (0x10000000 ≤ off) && decide (off < 0x20000000)

/-- Whether an offset lies in an interface block. -/
def isIface (off : Nat) : Bool :=
  isPart off && decide (0x100000 ≤ inPart off) && decide (inPart off < 0x500000)

/-- The partition and interface of an offset in an interface block. -/
def ifaceOf (off : Nat) : Nat × Nat := ((off - 0x10000000) / 0x800000, (inPart off - 0x100000) / 0x10000)

/-- The reset value of the register at an offset (R364, R360, R381, R392, R401); 0 where no field gives another. -/
def regReset (off : Nat) : DWord :=
  if off = packageBase + 0x8 then 1000
  else if off = packageBase + 0x210 then 1000
  else if off = packageBase + 0x1000 then 0x8000000000000000#64
  else if isIface off then
    if inIface off = 0x250 then 1000
    else if inIface off = 0x270 then 1000
    else if inIface off = 0x030 then 0x0000001E000003E8#64
    else 0
  else if isPart off then
    if inPart off = 0x4D0 then 64
    else if inPart off = 0x710 then 1000
    else 0
  else 0

/-- Read the register at an offset. -/
def State.reg (s : State) (off : Nat) : DWord := s.regs.getD off (regReset off)

/-- Set the register at an offset, whoever asks. -/
def State.setReg (s : State) (off : Nat) (v : DWord) : State := { s with regs := s.regs.set off v }

/-- Bits `hi` to `lo` of a 64-bit value as a number. -/
def bits (v : DWord) (hi lo : Nat) : Nat := v.toNat / 2 ^ lo % 2 ^ (hi + 1 - lo)

/-- A 64-bit value with bits `hi` to `lo` replaced. -/
def withBits (v : DWord) (hi lo x : Nat) : DWord :=
  let m : DWord := BitVec.ofNat 64 ((2 ^ (hi + 1 - lo) - 1) * 2 ^ lo)
  (v &&& ~~~m) ||| (BitVec.ofNat 64 (x * 2 ^ lo) &&& m)

/-- The physical die that a PLDIE value gives logical die `l`, if it is valid (R377). -/
def dieIn (r : DWord) (l : Nat) : Option Nat := if l < 8 ∧ has r (24 + l) then some (bits r (3 * l + 2) (3 * l)) else none

/-- The physical die that logical die `l` of a context names, if it is valid (R377). -/
def State.physDie? (s : State) (c l : Nat) : Option Nat := dieIn (s.reg (contextBase c)) l

/-- The lowest logical die of a context that names a physical die (R377). -/
def State.logicalDie? (s : State) (c d : Nat) : Option Nat :=
  (List.range 8).find? fun l => s.physDie? c l == some d

/-- The PLCL entry of a logical cluster (R377). -/
def State.plcl (s : State) (c k : Nat) : DWord := s.reg (contextBase c + 8 + 8 * k)

/-- The physical core that a logical core of a context names, if it is in the table (R377). -/
def State.physCore? (s : State) (c l : Nat) : Option Nat :=
  if l < 1280 then
    let e := s.plcl c (l / 8)
    let p := bits e 7 0
    if has e 63 ∧ has e (8 + l % 8) ∧ p < 160 ∧ (s.logicalDie? c (p / 20)).isSome then
      some (p * 8 + bits e (18 + 3 * (l % 8)) (16 + 3 * (l % 8)))
    else none
  else none

/-- The lowest logical core of a context that names a physical core (R377). -/
def State.logicalCore? (s : State) (c p : Nat) : Option Nat :=
  ((List.range 160).filter fun k => bits (s.plcl c k) 7 0 == p / 8).foldl
    (fun acc k => match acc with
      | some x => some x
      | none => ((List.range 8).find? fun j => s.physCore? c (8 * k + j) == some p).map (8 * k + ·)) none

/-- The logical clusters of a context in the place table that name a physical cluster (R377). -/
def State.logicalCluster? (s : State) (c p : Nat) : Option Nat :=
  (List.range 160).find? fun k =>
    has (s.plcl c k) 63 && bits (s.plcl c k) 7 0 == p && (s.logicalDie? c (p / 20)).isSome

/-- The key of a unit of a class in the lease table (R18). -/
def unitKey (cls unit : Nat) : Nat := cls * 2048 + unit

/-- Units of a class on one die (R18). -/
def unitsPerDie : Nat → Nat
  | 0 => 20 | 1 => 64 | 2 => 16 | 3 => 64 | _ => 128

/-- The context that leases a unit (R366). -/
def State.leaseOf (s : State) (cls unit : Nat) : Option Nat := s.leases.get? (unitKey cls unit)

/-- Units of a class on a physical die that a context holds (R367). -/
def State.unitsHeld (s : State) (c cls d : Nat) : Nat :=
  ((List.range (unitsPerDie cls)).filter fun u => s.leaseOf cls (d * unitsPerDie cls + u) == some c).length

/-- Add to a counter register. -/
def State.count (s : State) (off n : Nat) : State := if n = 0 then s else s.setReg off (s.reg off + BitVec.ofNat 64 n)

/-- Device Control 2 of a PF, whose bit 6 enables the AtomicOp requests of the PF and of its VFs (R302, R398; log 95). -/
def deviceControl2 (pf : Nat) : Nat := 0x20000028 + 0x1000 * pf

/-- A free 64-bit value (log 3). -/
def State.free (s : State) : DWord := Config.freeWord s.fresh

/-- The state after a free value has been used. -/
def State.spend (s : State) : State := { s with fresh := s.fresh + 1 }

end Sys2Proof.Machine
end

