-- ==== Sys2Proof/Machine/Float.lean ====
section
/-! DEFINITION. Number formats and exact arithmetic (R99 to R114): floating-point patterns as values, exact magnitudes,
rounding once to a format, and the exceptions of each. -/

namespace Sys2Proof.Machine

/-- A floating-point format (R102): exponent and mantissa bits, bias, the largest finite magnitude pattern, whether
it has an infinity, and its canonical NaN (none for E2M1). -/
structure FloatFmt where
  ebits : Nat
  mbits : Nat
  bias : Nat
  maxPat : Nat
  inf : Option Nat
  nan : Option Nat
  deriving DecidableEq, Repr

/-- Bits of a pattern. -/
def FloatFmt.width (f : FloatFmt) : Nat := 1 + f.ebits + f.mbits

def fmtF64 : FloatFmt := ⟨11, 52, 1023, 0x7FEFFFFFFFFFFFFF, some 0x7FF0000000000000, some 0x7FF8000000000000⟩
def fmtF32 : FloatFmt := ⟨8, 23, 127, 0x7F7FFFFF, some 0x7F800000, some 0x7FC00000⟩
def fmtF16 : FloatFmt := ⟨5, 10, 15, 0x7BFF, some 0x7C00, some 0x7E00⟩
def fmtBF16 : FloatFmt := ⟨8, 7, 127, 0x7F7F, some 0x7F80, some 0x7FC0⟩
def fmtE4M3 : FloatFmt := ⟨4, 3, 7, 0x7E, none, some 0x7F⟩
def fmtE5M2 : FloatFmt := ⟨5, 2, 15, 0x7B, some 0x7C, some 0x7E⟩
def fmtE2M1 : FloatFmt := ⟨2, 1, 1, 0x7, none, none⟩

/-- The float format of an element type; none for integers (R37). -/
def floatFmt : Nat → Option FloatFmt
  | 8 => some fmtF16 | 9 => some fmtBF16 | 10 => some fmtF32 | 11 => some fmtF64
  | 12 => some fmtE4M3 | 13 => some fmtE5M2 | 14 => some fmtE2M1 | _ => none

/-- Element width in bits by element type (R37, R99, R102). -/
def elemWidth : Nat → Nat
  | 0 => 8 | 1 => 8 | 2 => 16 | 3 => 16 | 4 => 32 | 5 => 32 | 6 => 64 | 7 => 64
  | 8 => 16 | 9 => 16 | 10 => 32 | 11 => 64 | 12 => 8 | 13 => 8 | _ => 4

/-- A signed integer element type (R37). -/
def signedType : Nat → Bool
  | 0 => true | 2 => true | 4 => true | 6 => true | _ => false

/-- An integer element type. -/
def isInt (et : Nat) : Bool := decide (et ≤ 7)

/-- A float element type that vector arithmetic accepts (R122). -/
def isArithFloat (et : Nat) : Bool := decide (8 ≤ et) && decide (et ≤ 11)

/-- A 64-bit element type: one element in an even:odd pair (R100). -/
def isWide (et : Nat) : Bool := decide (et = 6) || decide (et = 7) || decide (et = 11)

/-- The value of a floating-point pattern (R103): a finite non-zero value is `m × 2^e`. -/
inductive FVal where
  | nan (signalling : Bool)
  | inf (neg : Bool)
  | zero (neg : Bool)
  | fin (neg : Bool) (m : Nat) (e : Int)
  deriving DecidableEq, Repr

/-- Read a pattern (R102, R103). -/
def FloatFmt.read (f : FloatFmt) (p : Nat) : FVal :=
  let mag := p % 2 ^ (f.ebits + f.mbits)
  let neg := p / 2 ^ (f.ebits + f.mbits) % 2 == 1
  let m := mag % 2 ^ f.mbits
  let e := mag / 2 ^ f.mbits
  if f.inf.isSome ∧ e = 2 ^ f.ebits - 1 then
    if m = 0 then .inf neg else .nan (m < 2 ^ (f.mbits - 1))
  else if f.inf.isNone ∧ f.nan = some mag then .nan false
  else if mag = 0 then .zero neg
  else if e = 0 then .fin neg m (1 - (f.bias : Int) - f.mbits)
  else .fin neg (2 ^ f.mbits + m) ((e : Int) - f.bias - f.mbits)

/-- Whether a pattern is a subnormal (R102). -/
def FloatFmt.subnormal (f : FloatFmt) (p : Nat) : Bool :=
  let mag := p % 2 ^ (f.ebits + f.mbits)
  decide (0 < mag) && decide (mag < 2 ^ f.mbits)

/-- FTZ acts on F64, F32, F16 and BF16 only (R112). -/
def FloatFmt.flushes (f : FloatFmt) : Bool := decide (9 < f.width) && f.inf.isSome

/-- Read an operand, a subnormal as zero of its sign under FTZ (R112). -/
def FloatFmt.operand (f : FloatFmt) (ftz : Bool) (p : Nat) : FVal :=
  if ftz && f.flushes && f.subnormal p then .zero (p / 2 ^ (f.ebits + f.mbits) % 2 == 1) else f.read p

/-- A sign on a magnitude pattern. -/
def FloatFmt.signed (f : FloatFmt) (neg : Bool) (mag : Nat) : Nat :=
  if neg then mag + 2 ^ (f.ebits + f.mbits) else mag

/-- The sticky flags of FSTAT (R123): IV 1, DZ 2, OF 4, UF 8, NX 16. -/
abbrev Flags := BitVec 5

def flagIV : Flags := 1
def flagDZ : Flags := 2
def flagOF : Flags := 4
def flagUF : Flags := 8
def flagNX : Flags := 16

/-- A result pattern with the exceptions it signals. -/
structure Elem where
  pat : Nat
  flags : Flags
  deriving DecidableEq, Repr

/-- The canonical NaN; +0 with invalid where the format has none (R104). -/
def FloatFmt.nanElem (f : FloatFmt) (fl : Flags) : Elem :=
  match f.nan with
  | some n => ⟨n, fl⟩
  | none => ⟨0, fl ||| flagIV⟩

/-- An exact positive magnitude: a quotient, or the square root of one. -/
inductive Mag where
  | rat (n d : Nat)
  | root (n d : Nat)
  deriving DecidableEq, Repr

/-- The integer square root by bits from `2^k` down. -/
def isqrtAux (n : Nat) : Nat → Nat → Nat
  | 0, r => if (r + 1) * (r + 1) ≤ n then r + 1 else r
  | k + 1, r =>
    let t := r + 2 ^ (k + 1)
    isqrtAux n k (if t * t ≤ n then t else r)

/-- The integer square root. -/
def isqrt (n : Nat) : Nat := isqrtAux n (Nat.log2 n / 2 + 1) 0

/-- `⌊x × 2^k⌋`. -/
def Mag.floorAt (x : Mag) (k : Int) : Nat :=
  match x with
  | .rat n d => if 0 ≤ k then n * 2 ^ k.toNat / d else n / (d * 2 ^ (-k).toNat)
  | .root n d => isqrt (if 0 ≤ k then n * 2 ^ (2 * k.toNat) / d else n / (d * 2 ^ (2 * (-k).toNat)))

/-- Whether `x × 2^k` is an integer. -/
def Mag.exactAt (x : Mag) (k : Int) : Bool :=
  match x with
  | .rat n d => if 0 ≤ k then n * 2 ^ k.toNat % d == 0 else n % (d * 2 ^ (-k).toNat) == 0
  | .root n d =>
    let r := Mag.floorAt (.root n d) k
    if 0 ≤ k then r * r * d == n * 2 ^ (2 * k.toNat) else r * r * (d * 2 ^ (2 * (-k).toNat)) == n

/-- `⌊log₂ x⌋` of a positive magnitude. -/
def Mag.ilog (x : Mag) : Int :=
  match x with
  | .rat n d =>
    let g : Int := (Nat.log2 n : Int) - Nat.log2 d
    if Mag.floorAt (.rat n d) (-g) = 0 then g - 1 else g
  | .root n d =>
    let g : Int := ((Nat.log2 n : Int) - Nat.log2 d) / 2
    if Mag.floorAt (.root n d) (-g) = 0 then g - 1
    else if 2 ≤ Mag.floorAt (.root n d) (-g) then g + 1 else g

/-- `m × 2^e` as a magnitude. -/
def dyadic (m : Nat) (e : Int) : Mag :=
  if 0 ≤ e then .rat (m * 2 ^ e.toNat) 1 else .rat m (2 ^ (-e).toNat)

/-- Whether the neighbour away from zero is taken, for the neighbour toward zero `a` in units of `2^q` (R109, R110). -/
def roundsUp (rm : Nat) (neg : Bool) (x : Mag) (q : Int) (a : Nat) (draw : Nat) : Bool :=
  if x.exactAt (-q) then false
  else
    let twice := x.floorAt (1 - q)
    let tie := x.exactAt (1 - q) && twice == 2 * a + 1
    match rm with
    | 0 => if tie then a % 2 == 1 else twice == 2 * a + 1
    | 1 => false
    | 2 => neg
    | 3 => !neg
    | 4 => twice == 2 * a + 1
    | _ => decide (2 ^ 32 ≤ x.floorAt (32 - q) - a * 2 ^ 32 + draw)

/-- A magnitude rounded to a format with an unbounded exponent range: its magnitude pattern, and whether it is
inexact (R109). -/
def FloatFmt.roundMag (f : FloatFmt) (rm : Nat) (neg : Bool) (x : Mag) (draw : Nat) : Nat × Bool :=
  let emin : Int := 1 - (f.bias : Int)
  let q : Int := max x.ilog emin - f.mbits
  let a := x.floorAt (-q)
  let r := if roundsUp rm neg x q a draw then a + 1 else a
  ((q - (emin - f.mbits)).toNat * 2 ^ f.mbits + r, !x.exactAt (-q))

/-- What an overflow delivers (R111); `clamp` is a conversion under MODE.SAT. -/
def FloatFmt.overflow (f : FloatFmt) (rm : Nat) (neg clamp : Bool) : Elem :=
  let fl := flagOF ||| flagNX
  let toMax := clamp || rm == 1 || (rm == 2 && !neg) || (rm == 3 && neg)
  if toMax then ⟨f.signed neg f.maxPat, fl⟩
  else match f.inf with
    | some i => ⟨f.signed neg i, fl⟩
    | none => match f.nan with
      | some n => ⟨n, fl⟩
      | none => ⟨f.signed neg f.maxPat, fl⟩

/-- Deliver a rounded magnitude: overflow, underflow, flushing, and their exceptions (R109, R111 to R113). -/
def FloatFmt.deliver (f : FloatFmt) (rm : Nat) (ftz clamp neg : Bool) (pat : Nat) (inexact : Bool) : Elem :=
  if f.maxPat < pat then f.overflow rm neg clamp
  else
    let sub := decide (0 < pat) && decide (pat < 2 ^ f.mbits)
    let uf : Flags := if sub && inexact then flagUF else 0
    if ftz && f.flushes && sub then ⟨f.signed neg 0, uf ||| flagNX⟩
    else ⟨f.signed neg pat, uf ||| (if inexact then flagNX else 0)⟩

/-- How a word rounds: mode, FTZ, and SAT for a conversion. -/
structure Rounding where
  rm : Nat
  ftz : Bool
  clamp : Bool := false
  deriving DecidableEq, Repr

/-- Round an exact non-zero value to a format (R109). -/
def FloatFmt.round (f : FloatFmt) (r : Rounding) (neg : Bool) (x : Mag) (draw : Nat) : Elem :=
  let (p, ix) := f.roundMag r.rm neg x draw
  f.deliver r.rm r.ftz r.clamp neg p ix

/-- An exact sum or product of values, before rounding. -/
inductive Exact where
  | nan (fl : Flags)
  | inf (neg : Bool)
  /-- A zero with a sign of its own. -/
  | zero (neg : Bool)
  /-- A zero from cancellation: its sign is that of R109. -/
  | cancel
  | val (neg : Bool) (m : Nat) (e : Int)
  deriving DecidableEq, Repr

/-- Whether a value is a signalling NaN. -/
def FVal.snan : FVal → Bool
  | .nan b => b
  | _ => false

/-- Whether a value is a NaN. -/
def FVal.isNan : FVal → Bool
  | .nan _ => true
  | _ => false

/-- The flags of NaN operands (R113). -/
def nanFlags (l : List FVal) : Flags := if l.any FVal.snan then flagIV else 0

/-- The exact product; 0 × ∞ is invalid (R113). -/
def FVal.mul (x y : FVal) : Exact :=
  match x, y with
  | .nan a, .nan b => .nan (if a || b then flagIV else 0)
  | .nan a, _ => .nan (if a then flagIV else 0)
  | _, .nan b => .nan (if b then flagIV else 0)
  | .inf _, .zero _ => .nan flagIV
  | .zero _, .inf _ => .nan flagIV
  | .inf a, .inf b => .inf (a != b)
  | .inf a, .fin b _ _ => .inf (a != b)
  | .fin a _ _, .inf b => .inf (a != b)
  | .zero a, .zero b => .zero (a != b)
  | .zero a, .fin b _ _ => .zero (a != b)
  | .fin a _ _, .zero b => .zero (a != b)
  | .fin a m e, .fin b n k => .val (a != b) (m * n) (e + k)

/-- A value as an exact number. -/
def FVal.exact : FVal → Exact
  | .nan s => .nan (if s then flagIV else 0)
  | .inf n => .inf n
  | .zero n => .zero n
  | .fin n m e => .val n m e

/-- The exact sum; ∞ − ∞ is invalid (R113). -/
def Exact.add (x y : Exact) : Exact :=
  match x, y with
  | .nan a, .nan b => .nan (a ||| b)
  | .nan a, _ => .nan a
  | _, .nan b => .nan b
  | .inf a, .inf b => if a = b then .inf a else .nan flagIV
  | .inf a, _ => .inf a
  | _, .inf b => .inf b
  | .zero a, .zero b => if a = b then .zero a else .cancel
  | .zero _, .cancel => .cancel
  | .cancel, .zero _ => .cancel
  | .cancel, .cancel => .cancel
  | .zero _, .val n m e => .val n m e
  | .cancel, .val n m e => .val n m e
  | .val n m e, .zero _ => .val n m e
  | .val n m e, .cancel => .val n m e
  | .val a m e, .val b n k =>
    let lo := min e k
    let mm := m * 2 ^ (e - lo).toNat
    let nn := n * 2 ^ (k - lo).toNat
    if a = b then .val a (mm + nn) lo
    else if mm = nn then .cancel
    else if nn < mm then .val a (mm - nn) lo
    else .val b (nn - mm) lo

/-- The exact value with its sign inverted; a cancelled zero takes the inverted sign when it is delivered. -/
def Exact.neg : Exact → Exact
  | .nan f => .nan f
  | .inf n => .inf !n
  | .zero n => .zero !n
  | .cancel => .cancel
  | .val n m e => .val (!n) m e

/-- Deliver an exact value in a format; `inverted` inverts the sign of a cancelled zero (R109, R125). -/
def FloatFmt.finish (f : FloatFmt) (r : Rounding) (inverted : Bool) (x : Exact) (draw : Nat) : Elem :=
  match x with
  | .nan fl => f.nanElem fl
  | .inf n => match f.inf with
    | some i => ⟨f.signed n i, 0⟩
    | none => f.overflow r.rm n r.clamp
  | .zero n => ⟨f.signed n 0, 0⟩
  | .cancel => ⟨f.signed ((r.rm == 2) != inverted) 0, 0⟩
  | .val n m e => f.round r n (dyadic m e) draw

/-- `x + y` (R125). -/
def FloatFmt.add (f : FloatFmt) (r : Rounding) (x y draw : Nat) : Elem :=
  f.finish r false ((f.operand r.ftz x).exact.add (f.operand r.ftz y).exact) draw

/-- The sign bit of a pattern inverted, of anything but a NaN's meaning (R125). -/
def FVal.negate : FVal → FVal
  | .nan s => .nan s
  | .inf n => .inf !n
  | .zero n => .zero !n
  | .fin n m e => .fin (!n) m e

/-- `x − y` (R125). -/
def FloatFmt.sub (f : FloatFmt) (r : Rounding) (x y draw : Nat) : Elem :=
  f.finish r false ((f.operand r.ftz x).exact.add (f.operand r.ftz y).negate.exact) draw

/-- `x × y` (R125). -/
def FloatFmt.mul (f : FloatFmt) (r : Rounding) (x y draw : Nat) : Elem :=
  f.finish r false ((f.operand r.ftz x).mul (f.operand r.ftz y)) draw

/-- `d ± x × y`, or its negation, fused (R125). -/
def FloatFmt.fma (f : FloatFmt) (r : Rounding) (negProduct negResult : Bool) (d x y draw : Nat) : Elem :=
  let a := f.operand r.ftz x
  let p := (if negProduct then a.negate else a).mul (f.operand r.ftz y)
  let z := (f.operand r.ftz d).exact.add p
  f.finish r negResult (if negResult then z.neg else z) draw

/-- `x / y` (R134, R135). -/
def FloatFmt.div (f : FloatFmt) (r : Rounding) (x y draw : Nat) : Elem :=
  match f.operand r.ftz x, f.operand r.ftz y with
  | .nan a, b => f.nanElem (nanFlags [.nan a, b])
  | a, .nan b => f.nanElem (nanFlags [a, .nan b])
  | .inf _, .inf _ => f.nanElem flagIV
  | .zero _, .zero _ => f.nanElem flagIV
  | .inf a, .zero b => f.finish r false (.inf (a != b)) 0
  | .inf a, .fin b _ _ => f.finish r false (.inf (a != b)) 0
  | .zero a, .inf b => ⟨f.signed (a != b) 0, 0⟩
  | .zero a, .fin b _ _ => ⟨f.signed (a != b) 0, 0⟩
  | .fin a _ _, .inf b => ⟨f.signed (a != b) 0, 0⟩
  | .fin a _ _, .zero b => ⟨f.signed (a != b) (f.inf.getD f.maxPat), flagDZ⟩
  | .fin a m e, .fin b n k =>
    let x : Mag := if k ≤ e then .rat (m * 2 ^ (e - k).toNat) n else .rat m (n * 2 ^ (k - e).toNat)
    f.round r (a != b) x draw

/-- `√y` (R134, R135). -/
def FloatFmt.sqrt (f : FloatFmt) (r : Rounding) (y draw : Nat) : Elem :=
  match f.operand r.ftz y with
  | .nan s => f.nanElem (if s then flagIV else 0)
  | .zero n => ⟨f.signed n 0, 0⟩
  | .inf false => ⟨f.inf.getD f.maxPat, 0⟩
  | .inf true => f.nanElem flagIV
  | .fin true _ _ => f.nanElem flagIV
  | .fin false m e => f.round r false (if 0 ≤ e then .root (m * 2 ^ e.toNat) 1 else .root m (2 ^ (-e).toNat)) draw

/-- `1 / √y` (R134, R135). -/
def FloatFmt.rsqrt (f : FloatFmt) (r : Rounding) (y draw : Nat) : Elem :=
  match f.operand r.ftz y with
  | .nan s => f.nanElem (if s then flagIV else 0)
  | .zero n => ⟨f.signed n (f.inf.getD f.maxPat), flagDZ⟩
  | .inf false => ⟨0, 0⟩
  | .inf true => f.nanElem flagIV
  | .fin true _ _ => f.nanElem flagIV
  | .fin false m e => f.round r false (if 0 ≤ e then .root 1 (m * 2 ^ e.toNat) else .root (2 ^ (-e).toNat) m) draw

/-- The pattern of 1. -/
def FloatFmt.one (f : FloatFmt) : Nat := f.bias * 2 ^ f.mbits

/-- A finite value as an integer over a power of two, for comparing: numerator at a scale at or below both. -/
def FVal.scaled (v : FVal) (lo : Int) : Int :=
  match v with
  | .fin n m e => (if n then -1 else 1) * ((m * 2 ^ (e - lo).toNat : Nat) : Int)
  | _ => 0

/-- The exponent of a value. -/
def FVal.expo : FVal → Int
  | .fin _ _ e => e
  | _ => 0

/-- The order of two values that are not NaN, −0 equal to +0 (R129). -/
def FVal.less (x y : FVal) : Bool :=
  match x, y with
  | .nan _, _ => false
  | _, .nan _ => false
  | .inf a, .inf b => a && !b
  | .inf a, _ => a
  | _, .inf b => !b
  | x, y =>
    let lo := min x.expo y.expo
    decide (x.scaled lo < y.scaled lo)

/-- Equality of two values that are not NaN, −0 equal to +0 (R129). -/
def FVal.same (x y : FVal) : Bool := !x.isNan && !y.isNan && !x.less y && !y.less x

/-- The sign of a value. -/
def FVal.sign : FVal → Bool
  | .nan _ => false
  | .inf n => n
  | .zero n => n
  | .fin n _ _ => n

/-- minimumNumber, or maximumNumber (R127). -/
def FloatFmt.minMax (f : FloatFmt) (ftz wantMax : Bool) (x y : Nat) : Elem :=
  let a := f.operand ftz x
  let b := f.operand ftz y
  let pat := fun (v : FVal) (p : Nat) => match v with
    | .zero n => f.signed n 0
    | _ => p
  let fl := nanFlags [a, b]
  if a.isNan && b.isNan then f.nanElem fl
  else if a.isNan then ⟨pat b y, fl⟩
  else if b.isNan then ⟨pat a x, fl⟩
  else
    let aLess := a.less b || (a.same b && a.sign && !b.sign)
    if aLess != wantMax then ⟨pat a x, fl⟩ else ⟨pat b y, fl⟩

/-- A finite value as an integer rounded under a mode: its magnitude, and whether that differs from it (R114). -/
def roundToInt (rm : Nat) (neg : Bool) (x : Mag) (draw : Nat) : Nat × Bool :=
  let a := x.floorAt 0
  (if roundsUp rm neg x 0 a draw then a + 1 else a, !x.exactAt 0)

/-- An integral value of the same type (R132). -/
def FloatFmt.toIntegral (f : FloatFmt) (r : Rounding) (y draw : Nat) : Elem :=
  match f.operand r.ftz y with
  | .nan s => f.nanElem (if s then flagIV else 0)
  | .inf n => ⟨f.signed n (f.inf.getD f.maxPat), 0⟩
  | .zero n => ⟨f.signed n 0, 0⟩
  | .fin n m e =>
    let (k, ix) := roundToInt r.rm n (dyadic m e) draw
    let fl : Flags := if ix then flagNX else 0
    if k = 0 then ⟨f.signed n 0, fl⟩
    else
      let z := f.round { r with rm := 0 } n (.rat k 1) 0
      ⟨z.pat, z.flags ||| fl⟩

/-- The bound past which a power of two overflows or vanishes in every format. -/
def scaleBound : Int := 5000

/-- `A × 2^n` (R133). -/
def FloatFmt.scale (f : FloatFmt) (r : Rounding) (y : Nat) (n : Int) (draw : Nat) : Elem :=
  match f.operand r.ftz y with
  | .nan s => f.nanElem (if s then flagIV else 0)
  | .inf b => ⟨f.signed b (f.inf.getD f.maxPat), 0⟩
  | .zero b => ⟨f.signed b 0, 0⟩
  | .fin b m e => f.round r b (dyadic m (e + max (-scaleBound) (min scaleBound n))) draw

/-! ## Integers (R99, R101) -/

/-- The value of a `w`-bit pattern. -/
def intOf (w : Nat) (sgn : Bool) (p : Nat) : Int :=
  if sgn ∧ 2 ^ (w - 1) ≤ p % 2 ^ w then ((p % 2 ^ w : Nat) : Int) - 2 ^ w else ((p % 2 ^ w : Nat) : Int)

/-- The least value of a type. -/
def intMin (w : Nat) (sgn : Bool) : Int := if sgn then -(2 ^ (w - 1)) else 0

/-- The greatest value of a type. -/
def intMax (w : Nat) (sgn : Bool) : Int := if sgn then 2 ^ (w - 1) - 1 else 2 ^ w - 1

/-- The low bits of an exact value. -/
def intPat (w : Nat) (v : Int) : Nat := (v % 2 ^ w).toNat

/-- An exact integer result under MODE.SAT (R101). -/
def intResult (w : Nat) (sgn sat : Bool) (v : Int) : Nat :=
  if sat then intPat w (max (intMin w sgn) (min (intMax w sgn) v)) else intPat w v

/-! ## Conversions (R114) -/

/-- Convert one element from one type to another (R114). `src` and `dst` are element types. A finite result for an infinity, or for a
value outside an integer's range, differs from the exact value and signals inexact (R113; log 104). -/
def convert (src dst : Nat) (r : Rounding) (sat : Bool) (p draw : Nat) : Elem :=
  match floatFmt src, floatFmt dst with
  | none, none =>
    let v := intOf (elemWidth src) (signedType src) p
    ⟨intResult (elemWidth dst) (signedType dst) sat v, 0⟩
  | none, some f =>
    let v := intOf (elemWidth src) (signedType src) p
    if v = 0 then ⟨0, 0⟩ else f.round { r with clamp := sat } (decide (v < 0)) (.rat v.natAbs 1) draw
  | some g, none =>
    let w := elemWidth dst
    let sg := signedType dst
    match g.operand r.ftz p with
    | .nan _ => ⟨0, flagIV⟩
    | .inf n => ⟨intPat w (if n then intMin w sg else intMax w sg), flagIV ||| flagNX⟩
    | .zero _ => ⟨0, 0⟩
    | .fin n m e =>
      let (k, ix) := roundToInt r.rm n (dyadic m e) draw
      let v : Int := if n then -(k : Int) else k
      if v < intMin w sg then ⟨intPat w (intMin w sg), flagIV ||| flagNX⟩
      else if intMax w sg < v then ⟨intPat w (intMax w sg), flagIV ||| flagNX⟩
      else ⟨intPat w v, if ix then flagNX else 0⟩
  | some g, some f =>
    match g.operand r.ftz p with
    | .nan s => f.nanElem (if s then flagIV else 0)
    | .inf n =>
      match f.inf, f.nan with
      | some i, _ => ⟨f.signed n i, 0⟩
      | none, some q => if sat then ⟨f.signed n f.maxPat, flagNX⟩ else ⟨q, flagIV⟩
      | none, none => ⟨f.signed n f.maxPat, flagNX⟩
    | .zero n => ⟨f.signed n 0, 0⟩
    | .fin n m e => f.round { r with clamp := sat } n (dyadic m e) draw

/-- An F32 literal widened exactly to F64 (R33); a NaN literal is the canonical NaN (R104; log 39). -/
def widenLiteral (w : Word) : Nat :=
  match fmtF32.read w.toNat with
  | .nan _ => 0x7FF8000000000000
  | .inf n => fmtF64.signed n 0x7FF0000000000000
  | .zero n => fmtF64.signed n 0
  | .fin n m e => (fmtF64.round ⟨0, false, false⟩ n (dyadic m e) 0).pat

/-- The exact float of a small integer in a float format (R33). -/
def FloatFmt.ofInt (f : FloatFmt) (v : Int) : Nat :=
  if v = 0 then 0 else (f.round ⟨0, false, false⟩ (decide (v < 0)) (.rat v.natAbs 1) 0).pat

/-! ## The stochastic generator (R110) -/

/-- The mixing function (R110). -/
def mix (z : DWord) : DWord :=
  let z := (z ^^^ (z >>> 30)) * 0xBF58476D1CE4E5B9#64
  let z := (z ^^^ (z >>> 27)) * 0x94D049BB133111EB#64
  z ^^^ (z >>> 31)

/-- The step of the generator (R110). -/
def rngStep : DWord := 0x9E3779B97F4A7C15#64

/-- The draw of element `e` (R110). -/
def drawOf (st : DWord) (e : Nat) : Nat := bits (mix (st + BitVec.ofNat 64 (e + 1) * rngStep)) 63 32

/-- The generator after a word that rounds (R110). -/
def rngNext (st : DWord) : DWord := st + 129 * rngStep

end Sys2Proof.Machine
end

