-- ==== Sys2Proof/Machine/Dot.lean ====
section
/-! DEFINITION. Matrix dot products (R105 to R107, R115 to R118) and the element formats of tensors (R216). -/

namespace Sys2Proof.Machine

/-- The format of a code (R216). -/
def fmtOf : Nat → Option Fmt
  | 0 => some .f32 | 1 => some .f16 | 2 => some .bf16 | 3 => some .e4m3 | 4 => some .e5m2
  | 5 => some .mxfp8e4m3 | 6 => some .mxfp8e5m2 | 7 => some .mxfp4 | 8 => some .sf4
  | 9 => some .i8 | 10 => some .u8 | 11 => some .i4 | 12 => some .i32 | _ => none

/-- Bits of an element (R216). -/
def Fmt.bits : Fmt → Nat
  | .f32 => 32 | .i32 => 32 | .f16 => 16 | .bf16 => 16
  | .e4m3 => 8 | .e5m2 => 8 | .mxfp8e4m3 => 8 | .mxfp8e5m2 => 8 | .i8 => 8 | .u8 => 8
  | .mxfp4 => 4 | .sf4 => 4 | .i4 => 4

/-- The block length of a block-scaled format (R106, R107); 0 for others. -/
def Fmt.block : Fmt → Nat
  | .mxfp8e4m3 => 32 | .mxfp8e5m2 => 32 | .mxfp4 => 32 | .sf4 => 8
  | .f32 => 0 | .f16 => 0 | .bf16 => 0 | .e4m3 => 0 | .e5m2 => 0 | .i8 => 0 | .u8 => 0 | .i4 => 0 | .i32 => 0

/-- A block-scaled format (R108). -/
def Fmt.scaled (f : Fmt) : Bool := decide (f.block ≠ 0)

/-- An integer format. -/
def Fmt.isInt : Fmt → Bool
  | .i8 => true | .u8 => true | .i4 => true | .i32 => true
  | .f32 => false | .f16 => false | .bf16 => false | .e4m3 => false | .e5m2 => false | .mxfp8e4m3 => false
  | .mxfp8e5m2 => false | .mxfp4 => false | .sf4 => false

/-- The element as a value (R102, R103). -/
def Fmt.value (f : Fmt) (p : Nat) : FVal :=
  match f with
  | .f32 => fmtF32.read p
  | .f16 => fmtF16.read p
  | .bf16 => fmtBF16.read p
  | .e4m3 => fmtE4M3.read p
  | .mxfp8e4m3 => fmtE4M3.read p
  | .e5m2 => fmtE5M2.read p
  | .mxfp8e5m2 => fmtE5M2.read p
  | .mxfp4 => fmtE2M1.read p
  | .sf4 => fmtE2M1.read p
  | .i8 => .zero false
  | .u8 => .zero false
  | .i4 => .zero false
  | .i32 => .zero false

/-- The element as an integer (R99). -/
def Fmt.int (f : Fmt) (p : Nat) : Int :=
  match f with
  | .i8 => intOf 8 true p
  | .u8 => intOf 8 false p
  | .i4 => intOf 4 true p
  | .i32 => intOf 32 true p
  | .f32 => 0
  | .f16 => 0
  | .bf16 => 0
  | .e4m3 => 0
  | .e5m2 => 0
  | .mxfp8e4m3 => 0
  | .mxfp8e5m2 => 0
  | .mxfp4 => 0
  | .sf4 => 0

/-- An E8M0 scale (R105). -/
def e8m0 (p : Nat) : FVal := if p % 256 = 255 then .nan false else .fin false 1 ((p % 256 : Nat) - 127)

/-- An E3M5 scale (R105). -/
def e3m5 (p : Nat) : FVal :=
  let e := p / 32 % 8
  let m := p % 32
  if p % 256 = 255 then .nan false
  else if e = 0 then (if m = 0 then .zero false else .fin false m (-7))
  else .fin false (32 + m) ((e : Int) - 8)

/-- A block scale of a format (R106, R107). -/
def Fmt.scale (f : Fmt) (p : Nat) : FVal :=
  match f with
  | .sf4 => e3m5 p
  | .mxfp8e4m3 => e8m0 p
  | .mxfp8e5m2 => e8m0 p
  | .mxfp4 => e8m0 p
  | _ => .fin false 1 0

/-- The exact product of two values; ∞ × 0 is a NaN (R116). -/
def FVal.times (x y : FVal) : FVal :=
  match x.mul y with
  | .nan _ => .nan false
  | .inf n => .inf n
  | .zero n => .zero n
  | .cancel => .zero false
  | .val n m e => .fin n m e

/-- One term: the product of two elements with their block and band scales (R115). -/
def Operands.term (o : Operands) (r c k : Nat) : FVal :=
  let a := (o.a.getD r []).getD k 0
  let b := (o.b.getD c []).getD k 0
  let p := (o.fmtA.value a).times (o.fmtB.value b)
  let p := if o.fmtA.scaled then p.times (o.fmtA.scale ((o.blkA.getD r []).getD (k / o.fmtA.block) 0)) else p
  let p := if o.fmtB.scaled then p.times (o.fmtB.scale ((o.blkB.getD c []).getD (k / o.fmtB.block) 0)) else p
  let p := if o.fmtA = .sf4 then p.times (fmtBF16.read (o.bandA.getD r 0)) else p
  if o.fmtB = .sf4 then p.times (fmtBF16.read (o.bandB.getD c 0)) else p

/-- The largest `⌊log₂ |t|⌋` over the non-zero finite terms (R115). -/
def maxExponent (ts : List FVal) : Option Int :=
  ts.foldl (fun acc t => match t with
    | .fin _ m e =>
      let x : Int := (Nat.log2 m : Int) + e
      match acc with
      | none => some x
      | some y => some (max x y)
    | _ => acc) none

/-- A term truncated toward zero to a multiple of `2^q`, in units of it (R115). -/
def truncated (q : Int) (t : FVal) : Int :=
  match t with
  | .fin n m e => (if n then -1 else 1) * (((dyadic m e).floorAt (-q) : Nat) : Int)
  | _ => 0

/-- The FP32 sum of terms (R115 to R117). -/
def floatSum (ftz sat : Bool) (ts : List FVal) : Nat :=
  let infP := ts.any fun t => t == .inf false
  let infN := ts.any fun t => t == .inf true
  if ts.any FVal.isNan || (infP && infN) then 0x7FC00000
  else if infP then 0x7F800000
  else if infN then 0xFF800000
  else
    match maxExponent ts with
    | none => if ts.all fun t => t == .zero true then fmtF32.signed true 0 else 0
    | some emax =>
      let q := emax - 50
      let v := (ts.map (truncated q)).sum
      if v = 0 then 0
      else (fmtF32.round ⟨0, ftz, sat⟩ (decide (v < 0)) (dyadic v.natAbs q) 0).pat

/-- The integer sum (R118): the tile's element, and whether it was clamped. -/
def intSum (sat : Bool) (v : Int) : Nat × Bool :=
  if sat then (intResult 32 true true v, decide (v < intMin 32 true) || decide (intMax 32 true < v))
  else (intPat 32 v, false)

/-- One element of a matrix operation (R245): reduction extent, row and column, and the incoming value, if any. -/
def Operands.element (o : Operands) (ftz sat : Bool) (kb r c : Nat) (incoming : Option Word) : Nat × Bool :=
  if o.fmtA.isInt then
    let ps := (List.range kb).map fun k =>
      o.fmtA.int ((o.a.getD r []).getD k 0) * o.fmtB.int ((o.b.getD c []).getD k 0)
    intSum sat (ps.sum + (incoming.map BitVec.toInt).getD 0)
  else
    let ts := (List.range kb).map fun k => o.term r c k
    let ts := match incoming with
      | none => ts
      | some w => fmtF32.read w.toNat :: ts
    (floatSum ftz sat ts, false)

/-- The partial sum of a cell after its first `n` reduction indices, incoming value included (R252, R342): an integer, or in units
of the window of R115, which every term of the operation fixes; 0 where a special value decides the result (log 31). -/
def Operands.partialSum (o : Operands) (kb r c n : Nat) (incoming : Option Word) : Int :=
  if o.fmtA.isInt then
    ((List.range n).map fun k => o.fmtA.int ((o.a.getD r []).getD k 0) * o.fmtB.int ((o.b.getD c []).getD k 0)).sum +
      (incoming.map BitVec.toInt).getD 0
  else
    let first := (incoming.map fun w => fmtF32.read w.toNat).toList
    match maxExponent (first ++ (List.range kb).map fun k => o.term r c k) with
    | none => 0
    | some emax => ((first ++ (List.range n).map fun k => o.term r c k).map (truncated (emax - 50))).sum

/-- A cell that goes on from the partial sum of its first `n` reduction indices (R115, R118, R252). -/
def Operands.resumed (o : Operands) (ftz sat : Bool) (kb r c : Nat) (incoming : Option Word) (n : Nat) (cell : Int) : Nat × Bool :=
  let rest := (List.range (kb - n)).map (n + ·)
  if o.fmtA.isInt then
    intSum sat (cell + (rest.map fun k => o.fmtA.int ((o.a.getD r []).getD k 0) * o.fmtB.int ((o.b.getD c []).getD k 0)).sum)
  else
    let ts := (incoming.map fun w => fmtF32.read w.toNat).toList ++ (List.range kb).map fun k => o.term r c k
    match ts.any FVal.isNan || ts.any fun t => t == .inf false || t == .inf true, maxExponent ts with
    | false, some emax =>
      let v := cell + (rest.map fun k => truncated (emax - 50) (o.term r c k)).sum
      (if v = 0 then 0 else (fmtF32.round ⟨0, ftz, sat⟩ (decide (v < 0)) (dyadic v.natAbs (emax - 50)) 0).pat, false)
    | _, _ => (floatSum ftz sat ts, false)

/-- The reduction indices of a format pair (R231). -/
def Fmt.kb (f : Fmt) : Nat :=
  match f with
  | .bf16 => 32 | .f16 => 32
  | .mxfp4 => 128 | .sf4 => 128 | .i4 => 128
  | .f32 => 0 | .i32 => 0
  | .e4m3 => 64 | .e5m2 => 64 | .mxfp8e4m3 => 64 | .mxfp8e5m2 => 64 | .i8 => 64 | .u8 => 64

end Sys2Proof.Machine
end

