-- ==== Sys2Proof/WellFormed.lean ====
section
/-! DEFINITION. Which instructions are legal encodings: the checks of R31, R32, R35, R42, R75 and of each entry that
need the word alone. A word that fails one raises ILLOP when it issues (R42). -/

namespace Sys2Proof

/-- A legal scalar slot (R32): a scalar register, a queue port, or the literal escape. -/
def SSrc.ok : SSrc → Bool
  | .reg r => decide (r.toNat ≤ 30)
  | .lit _ => true
  | .bad _ => false

/-- A legal vector source slot A (R31): no literal escape. -/
def VSrc.okA : VSrc → Bool
  | .vec _ _ _ => true
  | .sca r => decide (r.toNat ≤ 27)
  | .lit _ => false
  | .bad _ => false

/-- A legal vector source slot B (R31). -/
def VSrc.okB : VSrc → Bool
  | .vec _ _ _ => true
  | .sca r => decide (r.toNat ≤ 27)
  | .lit _ => true
  | .bad _ => false

/-- A slot that must be a scalar register or the literal escape (R189, R190, R157, R185, R218). -/
def VSrc.okScalar : VSrc → Bool
  | .vec _ _ _ => false
  | .sca r => decide (r.toNat ≤ 27)
  | .lit _ => true
  | .bad _ => false

/-- A slot that must be a vector register (R206). -/
def VSrc.isVec : VSrc → Bool
  | .vec _ _ _ => true
  | _ => false

/-- The special-register indices that R90 assigns. -/
def specialReadable (i : Nat) : Bool :=
  decide (i ≤ 0x002) || (decide (0x010 ≤ i) && decide (i ≤ 0x014)) || decide (i = 0x020) ||
  (decide (0x030 ≤ i) && decide (i ≤ 0x034)) || (decide (0x040 ≤ i) && decide (i ≤ 0x043)) ||
  (decide (0x060 ≤ i) && decide (i ≤ 0x0D0)) || (decide (0x0D8 ≤ i) && decide (i ≤ 0x0DC)) ||
  decide (i = 0x0E0) || decide (i = 0x0E1) || (decide (0x100 ≤ i) && decide (i ≤ 0x1FF))

/-- The special registers with a writable field (R89, R90): MODE, XP, FSTAT, the trap registers, ARRV and BID. -/
def specialWritable (i : Nat) : Bool :=
  decide (i ≤ 0x002) || (decide (0x010 ≤ i) && decide (i ≤ 0x014)) || decide (i = 0x020) ||
  (decide (0x0D8 ≤ i) && decide (i ≤ 0x0DC))

/-- The barrier numbers of each scope (R307): b0 to b15, g0 to g7, l0 to l3. -/
def barrierOk (c : BitVec 3) (n : BitVec 4) : Bool :=
  match c.toNat with
  | 1 => true
  | 2 => decide (n.toNat ≤ 7)
  | 3 => decide (n.toNat ≤ 3)
  | 4 => decide (n.toNat ≤ 3)
  | 6 => decide (n.toNat ≤ 3)
  | _ => false

/-- The legal encodings. A step of the device has none, and is legal. -/
def Instr.wf : Instr → Bool
  | .sadd d a b => decide (d.toNat ≤ 30) && decide (a.toNat ≤ 30) && b.ok
  | .ssub d a b => decide (d.toNat ≤ 30) && decide (a.toNat ≤ 30) && b.ok
  | .smul d a b => decide (d.toNat ≤ 30) && decide (a.toNat ≤ 30) && b.ok
  | .smulh d a b => decide (d.toNat ≤ 30) && decide (a.toNat ≤ 30) && b.ok
  | .sdiv d a b => decide (d.toNat ≤ 30) && decide (a.toNat ≤ 30) && b.ok
  | .srem d a b => decide (d.toNat ≤ 30) && decide (a.toNat ≤ 30) && b.ok
  | .sand d a b => decide (d.toNat ≤ 30) && decide (a.toNat ≤ 30) && b.ok
  | .sor d a b => decide (d.toNat ≤ 30) && decide (a.toNat ≤ 30) && b.ok
  | .sxor d a b => decide (d.toNat ≤ 30) && decide (a.toNat ≤ 30) && b.ok
  | .sshl d a b => decide (d.toNat ≤ 30) && decide (a.toNat ≤ 30) && b.ok
  | .sshr d a b => decide (d.toNat ≤ 30) && decide (a.toNat ≤ 30) && b.ok
  | .ssar d a b => decide (d.toNat ≤ 30) && decide (a.toNat ≤ 30) && b.ok
  | .smin d a b => decide (d.toNat ≤ 30) && decide (a.toNat ≤ 30) && b.ok
  | .smax d a b => decide (d.toNat ≤ 30) && decide (a.toNat ≤ 30) && b.ok
  | .sminu d a b => decide (d.toNat ≤ 30) && decide (a.toNat ≤ 30) && b.ok
  | .smaxu d a b => decide (d.toNat ≤ 30) && decide (a.toNat ≤ 30) && b.ok
  | .sslt d a b => decide (d.toNat ≤ 30) && decide (a.toNat ≤ 30) && b.ok
  | .ssltu d a b => decide (d.toNat ≤ 30) && decide (a.toNat ≤ 30) && b.ok
  | .sseq d a b => decide (d.toNat ≤ 30) && decide (a.toNat ≤ 30) && b.ok
  | .ssel d a b => decide (d.toNat ≤ 27) && decide (a.toNat ≤ 30) && b.ok
  | .smov d b => decide (d.toNat ≤ 30) && b.ok
  | .sli d _ => decide (d.toNat ≤ 27)
  | .sclz d a => decide (d.toNat ≤ 30) && decide (a.toNat ≤ 30)
  | .spopc d a => decide (d.toNat ≤ 30) && decide (a.toNat ≤ 30)
  | .saddI d a _ => decide (d.toNat ≤ 30) && decide (a.toNat ≤ 30)
  | .ssubI d a _ => decide (d.toNat ≤ 30) && decide (a.toNat ≤ 30)
  | .smulI d a _ => decide (d.toNat ≤ 30) && decide (a.toNat ≤ 30)
  | .smulhI d a _ => decide (d.toNat ≤ 30) && decide (a.toNat ≤ 30)
  | .sdivI d a _ => decide (d.toNat ≤ 30) && decide (a.toNat ≤ 30)
  | .sremI d a _ => decide (d.toNat ≤ 30) && decide (a.toNat ≤ 30)
  | .sandI d a _ => decide (d.toNat ≤ 30) && decide (a.toNat ≤ 30)
  | .sorI d a _ => decide (d.toNat ≤ 30) && decide (a.toNat ≤ 30)
  | .sxorI d a _ => decide (d.toNat ≤ 30) && decide (a.toNat ≤ 30)
  | .sshlI d a _ => decide (d.toNat ≤ 30) && decide (a.toNat ≤ 30)
  | .sshrI d a _ => decide (d.toNat ≤ 30) && decide (a.toNat ≤ 30)
  | .ssarI d a _ => decide (d.toNat ≤ 30) && decide (a.toNat ≤ 30)
  | .sminI d a _ => decide (d.toNat ≤ 30) && decide (a.toNat ≤ 30)
  | .smaxI d a _ => decide (d.toNat ≤ 30) && decide (a.toNat ≤ 30)
  | .sminuI d a _ => decide (d.toNat ≤ 30) && decide (a.toNat ≤ 30)
  | .smaxuI d a _ => decide (d.toNat ≤ 30) && decide (a.toNat ≤ 30)
  | .ssltI d a _ => decide (d.toNat ≤ 30) && decide (a.toNat ≤ 30)
  | .ssltuI d a _ => decide (d.toNat ≤ 30) && decide (a.toNat ≤ 30)
  | .sseqI d a _ => decide (d.toNat ≤ 30) && decide (a.toNat ≤ 30)
  | .bra _ => true
  | .brs s _ => decide (s.toNat ≤ 27)
  | .brp _ _ _ => true
  | .brl _ _ _ => true
  | .call l _ => decide (l.toNat ≤ 27)
  | .ret a => decide (a.toNat ≤ 27)
  | .jmpi a => decide (a.toNat ≤ 27)
  | .exit => true
  | .yield => true
  | .nop _ => true
  | .waitf _ => true
  | .waitc p a => decide (p.toNat ≤ 4) && decide (a.toNat ≤ 27)
  | .trap _ => true
  | .brk _ => true
  | .tret => true
  | .svc d a _ => decide (d.toNat ≤ 27) && decide (a.toNat ≤ 27)
  | .setm _ => true
  | .setg _ _ => true
  | .sett t => decide (t.toNat ≠ 15)
  | .setr r _ _ => decide (r.toNat ≤ 5)
  | .setw w => decide (w.toNat ≤ 4)
  | .setd s => decide (s.toNat ≠ 7)
  | .setx _ b => b.ok
  | .srd d i => decide (d.toNat ≤ 27) && specialReadable i.toNat
  | .swr s i => decide (s.toNat ≤ 27) && specialWritable i.toNat
  | .bid c a b => decide (c.toNat ≤ 4) && decide (a.toNat ≤ 30) && b.ok
  | .vadd _ a b => a.okA && b.okB
  | .vsub _ a b => a.okA && b.okB
  | .vmul _ a b => a.okA && b.okB
  | .vmulh _ a b => a.okA && b.okB
  | .vmad _ a b => a.okA && b.okB
  | .vmsb _ a b => a.okA && b.okB
  | .vnmad _ a b => a.okA && b.okB
  | .vmin _ a b => a.okA && b.okB
  | .vmax _ a b => a.okA && b.okB
  | .vabs _ b => b.okB
  | .vneg _ b => b.okB
  | .vand _ a b => a.okA && b.okB
  | .vor _ a b => a.okA && b.okB
  | .vxor _ a b => a.okA && b.okB
  | .vnot _ b => b.okB
  | .vshl _ a b => a.okA && b.okB
  | .vshr _ a b => a.okA && b.okB
  | .vrol _ a b => a.okA && b.okB
  | .vclz _ b => b.okB
  | .vpopc _ b => b.okB
  | .vbrev _ b => b.okB
  | .vsel _ a b => a.okA && b.okB
  | .vceq _ p a b => a.okA && b.okB && decide (p.toNat ≠ 7)
  | .vcne _ p a b => a.okA && b.okB && decide (p.toNat ≠ 7)
  | .vclt _ p a b => a.okA && b.okB && decide (p.toNat ≠ 7)
  | .vcle _ p a b => a.okA && b.okB && decide (p.toNat ≠ 7)
  | .vcgt _ p a b => a.okA && b.okB && decide (p.toNat ≠ 7)
  | .vcge _ p a b => a.okA && b.okB && decide (p.toNat ≠ 7)
  | .vcun _ p a b => a.okA && b.okB && decide (p.toNat ≠ 7)
  | .vaddI _ a _ => a.okA
  | .vsubI _ a _ => a.okA
  | .vmulI _ a _ => a.okA
  | .vmulhI _ a _ => a.okA
  | .vmadI _ a _ => a.okA
  | .vmsbI _ a _ => a.okA
  | .vnmadI _ a _ => a.okA
  | .vminI _ a _ => a.okA
  | .vmaxI _ a _ => a.okA
  | .vabsI _ _ => true
  | .vnegI _ _ => true
  | .vandI _ a _ => a.okA
  | .vorI _ a _ => a.okA
  | .vxorI _ a _ => a.okA
  | .vnotI _ _ => true
  | .vshlI _ a _ => a.okA
  | .vshrI _ a _ => a.okA
  | .vrolI _ a _ => a.okA
  | .vceqI _ p a _ => a.okA && decide (p.toNat ≠ 7)
  | .vcneI _ p a _ => a.okA && decide (p.toNat ≠ 7)
  | .vcltI _ p a _ => a.okA && decide (p.toNat ≠ 7)
  | .vcleI _ p a _ => a.okA && decide (p.toNat ≠ 7)
  | .vcgtI _ p a _ => a.okA && decide (p.toNat ≠ 7)
  | .vcgeI _ p a _ => a.okA && decide (p.toNat ≠ 7)
  | .vcvt _ a s _ => a.okA && decide (s.toNat ≠ 15)
  | .vrnd _ a => a.okA
  | .vscl _ a b => a.okA && b.okB
  | .vrcp _ b => b.okB
  | .vrsq _ b => b.okB
  | .vsqrt _ b => b.okB
  | .vexp2 _ b => b.okB
  | .vlog2 _ b => b.okB
  | .vsin _ b => b.okB
  | .vcos _ b => b.okB
  | .vtanh _ b => b.okB
  | .vdiv _ a b => a.okA && b.okB
  | .pand d _ _ => decide (d.toNat ≠ 7)
  | .por d _ _ => decide (d.toNat ≠ 7)
  | .pxor d _ _ => decide (d.toNat ≠ 7)
  | .pandn d _ _ => decide (d.toNat ≠ 7)
  | .pnot d _ => decide (d.toNat ≠ 7)
  | .pmov d _ => decide (d.toNat ≤ 27)
  | .pset d b => decide (d.toNat ≠ 7) && b.ok
  | .vote _ d _ => decide (d.toNat ≠ 7)
  | .vbal _ _ => true
  | .vshf _ a b => a.okA && b.okB
  | .vrdc _ a o => a.okA && decide (o.toNat ≤ 5)
  | .vscn _ a _ o => a.okA && decide (o.toNat ≤ 5)
  | .rwalk _ a b => a.okA && b.okB
  | .rnext _ p a b => a.okA && b.okB && decide (p.toNat ≠ 7)
  | .vsred _ a _ o => a.okA && decide (o.toNat ≤ 5)
  | .vmov _ b => b.okB
  | .vmovx _ a b => a.isVec && decide (b.toNat ≤ 30)
  | .vmovxw _ a b => decide (a.toNat ≤ 30) && b.okB
  | .vfree b => b.ok
  | .rdep _ a b => a.okA && b.ok
  | .waita a => decide (a.toNat ≤ 30)
  | .tidset _ a _ o => decide (a.toNat ≤ 27) && o.okScalar
  | .tidget _ a _ o => decide (a.toNat ≤ 27) && o.okScalar
  | .tidcur _ a b => decide (a.toNat ≤ 30) && b.ok
  | .tidinv _ => true
  | .wget d => decide (d.toNat ≤ 27)
  | .mma _ _ _ _ _ _ => true
  | .mmaz _ _ _ _ _ _ => true
  | .mmaw _ _ c _ _ _ => decide (c.toNat % 4 = 0)
  | .accz _ b => b.ok
  | .accrd _ _ b => b.ok
  | .accwr _ a b => decide (a.toNat ≤ 30) && b.okB
  | .accld _ _ b => b.ok
  | .accst _ _ => true
  | .accfree b => b.ok
  | .accstat d _ => decide (d.toNat ≤ 27)
  | .vldB _ a _ o => decide (a.toNat ≤ 27) && o.okB
  | .vldH _ a _ o => decide (a.toNat ≤ 27) && o.okB
  | .vldW _ a _ o => decide (a.toNat ≤ 27) && o.okB
  | .vldD d a _ o => decide (a.toNat ≤ 27) && o.okB && decide (d.toNat % 2 = 0)
  | .vldQ d a _ o => decide (a.toNat ≤ 27) && o.okB && decide (d.toNat % 4 = 0)
  | .vstB _ a _ o => decide (a.toNat ≤ 27) && o.okB
  | .vstH _ a _ o => decide (a.toNat ≤ 27) && o.okB
  | .vstW _ a _ o => decide (a.toNat ≤ 27) && o.okB
  | .vstD d a _ o => decide (a.toNat ≤ 27) && o.okB && decide (d.toNat % 2 = 0)
  | .vstQ d a _ o => decide (a.toNat ≤ 27) && o.okB && decide (d.toNat % 4 = 0)
  | .sldB d a _ o => decide (a.toNat ≤ 27) && o.okScalar && decide (d.toNat ≤ 27)
  | .sldH d a _ o => decide (a.toNat ≤ 27) && o.okScalar && decide (d.toNat ≤ 27)
  | .sldW d a _ o => decide (a.toNat ≤ 27) && o.okScalar && decide (d.toNat ≤ 27)
  | .sldD d a _ o => decide (a.toNat ≤ 27) && o.okScalar && decide (d.toNat ≤ 27)
  | .sstB d a _ o => decide (a.toNat ≤ 27) && o.okScalar && decide (d.toNat ≤ 27)
  | .sstH d a _ o => decide (a.toNat ≤ 27) && o.okScalar && decide (d.toNat ≤ 27)
  | .sstW d a _ o => decide (a.toNat ≤ 27) && o.okScalar && decide (d.toNat ≤ 27)
  | .sstD d a _ o => decide (a.toNat ≤ 27) && o.okScalar && decide (d.toNat ≤ 27)
  | .spldB _ a _ o => decide (a.toNat ≤ 27) && o.okB
  | .spldH _ a _ o => decide (a.toNat ≤ 27) && o.okB
  | .spldW _ a _ o => decide (a.toNat ≤ 27) && o.okB
  | .spldD d a _ o => decide (a.toNat ≤ 27) && o.okB && decide (d.toNat % 2 = 0)
  | .spstB _ a _ o => decide (a.toNat ≤ 27) && o.okB
  | .spstH _ a _ o => decide (a.toNat ≤ 27) && o.okB
  | .spstW _ a _ o => decide (a.toNat ≤ 27) && o.okB
  | .spstD d a _ o => decide (a.toNat ≤ 27) && o.okB && decide (d.toNat % 2 = 0)
  | .vldb _ a _ o => decide (a.toNat ≤ 27) && o.okScalar
  | .vstb _ a _ o => decide (a.toNat ≤ 27) && o.okScalar
  | .spldb _ a _ o => decide (a.toNat ≤ 27) && o.okScalar
  | .spstb _ a _ o => decide (a.toNat ≤ 27) && o.okScalar
  | .rsld _ a _ o => decide (a.toNat ≤ 27) && o.okB
  | .rsst _ a _ o => decide (a.toNat ≤ 27) && o.okB
  | .pld a _ o => decide (a.toNat ≤ 27) && o.okB
  | .pldc d a _ o => decide (a.toNat ≤ 27) && o.okB && decide (d.toNat ≤ 27)
  | .claim d a _ o => decide (a.toNat ≤ 27) && o.okScalar && decide (d.toNat ≤ 27)
  | .cwb a _ o => decide (a.toNat ≤ 27) && o.okScalar
  | .cinv a _ o => decide (a.toNat ≤ 27) && o.okScalar
  | .xq d a _ o => decide (a.toNat ≤ 27) && o.okScalar && decide (d.toNat ≤ 27)
  | .fence k _ => decide (k.toNat ≠ 0)
  | .fencet => true
  | .vldaW _ a _ o => decide (a.toNat ≤ 27) && o.okB
  | .vldaD d a _ o => decide (a.toNat ≤ 27) && o.okB && decide (d.toNat % 2 = 0)
  | .vstrW _ a _ o => decide (a.toNat ≤ 27) && o.okB
  | .vstrD d a _ o => decide (a.toNat ≤ 27) && o.okB && decide (d.toNat % 2 = 0)
  | .acqp d a _ b => decide (d.toNat ≤ 27) && decide (a.toNat ≤ 27) && b.ok
  | .atom _ a _ _ f => decide (a.toNat ≤ 27) && decide (f.toNat ≤ 11)
  | .ared _ a _ _ f => decide (a.toNat ≤ 27) && decide (f.toNat ≤ 11)
  | .acas d a _ o z => decide (a.toNat ≤ 27) && decide (z.toNat ≤ 2) && decide (d.toNat % 2 ^ (z.toNat + 1) = 0) && (decide (z.toNat = 0) || decide (o.toNat % 2 = 0))
  | .bari s c n => decide (s.toNat ≤ 27) && ((c == 1#3) || (c == 2#3)) && barrierOk c n
  | .bara s c n => decide (s.toNat ≤ 27) && barrierOk c n
  | .barw s c n => decide (s.toNat ≤ 27) && barrierOk c n
  | .barx s c n => decide (s.toNat ≤ 27) && barrierOk c n
  | .barj c n => barrierOk c n
  | .barl c n => barrierOk c n
  | .pqpush _ a => decide (a.toNat ≤ 30)
  | .pqpop d _ => decide (d.toNat ≤ 27)
  | .pqtry d _ => decide (d.toNat ≤ 27)
  | .pqgive _ a b => decide (a.toNat ≤ 30) && b.ok
  | .unassignedOpcode _ => true
  | .clauseChoice _ => true
  | .escalatedSquadResume _ _ => true
  | .loadReturn _ _ _ => true
  | .writePerformed _ _ => true
  | .eviction _ _ => true
  | .tableWalk _ => true
  | .faultRetry _ _ => true
  | .faultFail _ _ => true
  | .faultDeny _ _ => true
  | .faultTimeout _ _ => true
  | .zpSweep _ _ => true
  | .zpSweepEnd _ => true
  | .claimPageMove _ _ => true
  | .sectorJoin _ => true
  | .windowAccessAtTarget _ _ => true
  | .depositArrival _ _ => true
  | .atomicExecute _ _ => true
  | .ownershipRecall _ _ => true
  | .hostAtomicopCompletion _ _ _ _ => true
  | .podAccessRefused _ _ _ => true
  | .incomingPodAccess _ _ _ _ _ => true
  | .hostAccess _ _ _ => true
  | .copy _ => true
  | .stackLoad _ => true
  | .gather _ => true
  | .scatter _ => true
  | .collectiveRendezvous _ => true
  | .reduce _ => true
  | .allgather _ => true
  | .mmaComplete _ _ => true
  | .firstUseEvent _ => true
  | .ringStep _ => true
  | .captureRelease _ _ => true
  | .holdEnd _ _ => true
  | .captureExpiry _ _ => true
  | .starvation _ => true
  | .launch _ _ _ _ => true
  | .gangClaim _ _ => true
  | .gangAdmission _ _ => true
  | .coopAdmission _ => true
  | .wakeInterrupt _ _ _ => true
  | .svcTimeout _ _ => true
  | .serviceReply _ _ _ _ => true
  | .gangHalt _ _ => true
  | .releaseLogDrain _ _ => true
  | .imageCommit _ => true
  | .gangRestore _ => true
  | .promotionRequest _ _ => true
  | .eagerPromotion _ => true
  | .noResidentDrain _ _ => true
  | .routerArrival _ _ => true
  | .intervalStart => true
  | .dsbPin _ _ _ => true
  | .railClockLower _ _ => true
  | .hbmRetrainEnd _ => true
  | .bidClose => true
  | .clearingComplete => true
  | .leaseNotice => true
  | .indexRecordReceive _ _ _ => true
  | .thermalLimit _ => true
  | .powerInputFault => true
  | .uncorrectableError _ _ => true
  | .linkCrcFailure _ _ => true
  | .hbmLinkTagFailure _ _ _ _ => true
  | .hbmLinkRekey _ => true
  | .podLinkDown _ => true
  | .functionLevelReset _ => true
  | .scrubPage _ => true
  | .sessionCreate _ _ _ _ _ => true
  | .rekey _ _ => true
  | .heartbeat _ _ => true
  | .heartbeatTimeout _ _ => true
  | .graceExpiry _ _ => true
  | .importCmd _ _ _ _ _ _ => true
  | .exportCmd _ _ _ _ _ _ => true
  | .submitDropped _ _ _ => true
  | .attestationReport _ _ _ => true
  | .invs1 _ _ _ _ _ => true
  | .invs1all _ _ _ => true
  | .invs2 _ _ _ _ => true
  | .invs2all _ _ => true
  | .suspend _ _ _ => true
  | .resume _ _ _ => true
  | .endCmd _ _ => true
  | .ckpt _ _ _ _ => true
  | .restore _ _ _ _ => true
  | .keyload _ _ _ => true
  | .keydestroy _ _ => true
  | .retire _ _ _ => true
  | .unknownCommand _ _ => true
  | .flashwrite => true
  | .flashcommit => true
  | .status => true
  | .restart => true
  | .packageStart _ => true
  | .bootWatchdog => true
  | .claimReservePush _ _ _ _ _ => true
  | .claimReservePop _ _ _ => true
  | .queueConsume _ _ => true
  | .rightsWrite _ _ _ => true
  | .placeTableWrite _ _ _ => true
  | .fixedWrite _ _ _ => true
  | .pmktctlWrite _ _ _ => true
  | .connectionTableWrite _ _ _ => true
  | .ckctlWrite _ _ _ => true
  | .migpolWrite _ _ _ => true
  | .vfportWrite _ _ _ => true
  | .podcfgWrite _ _ _ => true
  | .exportTableWrite _ _ _ => true
  | .registerWrite _ _ _ => true
  | .clockSwitchEnd _ _ => true
  | .dsbUnpinComplete _ => true
  | .podLinkUp _ => true
  | .authEntryDropped _ _ => true

end Sys2Proof
end

