-- ==== Sys2Proof/Decode.lean ====
section
/-! DEFINITION. Decoding body words (R30 to R36, R40 to R42, R412) and, after it, the encoder.
Decoding is total: a word is an instruction or is rejected by name. -/

namespace Sys2Proof

/-- Why a word is not an instruction (R41, R42, R25). -/
inductive DecodeError where
  /-- OP is not assigned (R41). -/
  | unassignedOpcode
  /-- A field that must have one value has another (R42, R75). -/
  | reservedField
  /-- OP 0x1F0 to 0x1FF marks a clause header (R40). -/
  | headerWord
  /-- A literal-taking word has no word after it (R25). -/
  | missingLiteral
  deriving DecidableEq, Repr

/-- `len` bits of a word from bit `lo` up. -/
def fld (w : Word) (lo len : Nat) : BitVec len := w.extractLsb' lo len

/-- The pattern of a PAT field; 0b111 names none (R34). -/
def Pat.ofCode (c : BitVec 3) : Option Pat :=
  match c.toNat with
  | 0 => some .ident | 1 => some .rot | 2 => some .rots | 3 => some .bc
  | 4 => some .bcs | 5 => some .bf | 6 => some .mir | _ => none

/-- The PAT field of a pattern (R34). -/
def Pat.code : Pat → BitVec 3
  | .ident => 0 | .rot => 1 | .rots => 2 | .bc => 3 | .bcs => 4 | .bf => 5 | .mir => 6

/-- A scalar slot B, or the literal escape 0x1FF with its literal (R32, R33). -/
def SSrc.ofCode (c : BitVec 9) (l : Word) : SSrc :=
  if c = 0x1FF#9 then .lit l
  else if c.extractLsb' 0 4 = 0#4 then .reg (c.extractLsb' 4 5)
  else .bad c

/-- The nine bits of a scalar slot (R32). -/
def SSrc.code : SSrc → BitVec 9
  | .reg r => r ++ 0#4
  | .lit _ => 0x1FF#9
  | .bad c => c

/-- A vector source slot without the literal escape: slot A (R31). -/
def VSrc.ofCodeA (c : BitVec 9) : VSrc :=
  match Pat.ofCode (c.extractLsb' 0 3) with
  | some p => .vec (c.extractLsb' 4 5) (c.getLsbD 3) p
  | none => if c.getLsbD 3 = false ∧ (c.extractLsb' 4 5).toNat ≤ 27 then .sca (c.extractLsb' 4 5) else .bad c

/-- A vector source slot B, with the literal escape 0x1FF (R31, R33). -/
def VSrc.ofCodeB (c : BitVec 9) (l : Word) : VSrc :=
  if c = 0x1FF#9 then .lit l else VSrc.ofCodeA c

/-- The nine bits of a vector source slot (R31). -/
def VSrc.code : VSrc → BitVec 9
  | .vec r lr p => r ++ BitVec.ofBool lr ++ p.code
  | .sca r => r ++ 0#1 ++ 7#3
  | .lit _ => 0x1FF#9
  | .bad c => c

/-- One row of the opcode table: its OP, the bits that have one value and that value, whether B = 0x1FF takes a
literal word (R412), and the instruction its fields make. -/
structure Row where
  mask : Word
  fixed : Word
  literal : Bool
  build : Word → Word → Instr

/-- Rows of the opcode table from SADD to SPOPC (R40). -/
def rows0 : List Row :=
  [⟨0xFF801E00, 0x00000000, true, fun w l => .sadd (fld w 18 5) (fld w 13 5) (SSrc.ofCode (fld w 0 9) l)⟩,
   ⟨0xFF801E00, 0x00800000, true, fun w l => .ssub (fld w 18 5) (fld w 13 5) (SSrc.ofCode (fld w 0 9) l)⟩,
   ⟨0xFF801E00, 0x01000000, true, fun w l => .smul (fld w 18 5) (fld w 13 5) (SSrc.ofCode (fld w 0 9) l)⟩,
   ⟨0xFF801E00, 0x01800000, true, fun w l => .smulh (fld w 18 5) (fld w 13 5) (SSrc.ofCode (fld w 0 9) l)⟩,
   ⟨0xFF801E00, 0x02000000, true, fun w l => .sdiv (fld w 18 5) (fld w 13 5) (SSrc.ofCode (fld w 0 9) l)⟩,
   ⟨0xFF801E00, 0x02800000, true, fun w l => .srem (fld w 18 5) (fld w 13 5) (SSrc.ofCode (fld w 0 9) l)⟩,
   ⟨0xFF801E00, 0x03000000, true, fun w l => .sand (fld w 18 5) (fld w 13 5) (SSrc.ofCode (fld w 0 9) l)⟩,
   ⟨0xFF801E00, 0x03800000, true, fun w l => .sor (fld w 18 5) (fld w 13 5) (SSrc.ofCode (fld w 0 9) l)⟩,
   ⟨0xFF801E00, 0x04000000, true, fun w l => .sxor (fld w 18 5) (fld w 13 5) (SSrc.ofCode (fld w 0 9) l)⟩,
   ⟨0xFF801E00, 0x04800000, true, fun w l => .sshl (fld w 18 5) (fld w 13 5) (SSrc.ofCode (fld w 0 9) l)⟩,
   ⟨0xFF801E00, 0x05000000, true, fun w l => .sshr (fld w 18 5) (fld w 13 5) (SSrc.ofCode (fld w 0 9) l)⟩,
   ⟨0xFF801E00, 0x05800000, true, fun w l => .ssar (fld w 18 5) (fld w 13 5) (SSrc.ofCode (fld w 0 9) l)⟩,
   ⟨0xFF801E00, 0x06000000, true, fun w l => .smin (fld w 18 5) (fld w 13 5) (SSrc.ofCode (fld w 0 9) l)⟩,
   ⟨0xFF801E00, 0x06800000, true, fun w l => .smax (fld w 18 5) (fld w 13 5) (SSrc.ofCode (fld w 0 9) l)⟩,
   ⟨0xFF801E00, 0x07000000, true, fun w l => .sminu (fld w 18 5) (fld w 13 5) (SSrc.ofCode (fld w 0 9) l)⟩,
   ⟨0xFF801E00, 0x07800000, true, fun w l => .smaxu (fld w 18 5) (fld w 13 5) (SSrc.ofCode (fld w 0 9) l)⟩,
   ⟨0xFF801E00, 0x08000000, true, fun w l => .sslt (fld w 18 5) (fld w 13 5) (SSrc.ofCode (fld w 0 9) l)⟩,
   ⟨0xFF801E00, 0x08800000, true, fun w l => .ssltu (fld w 18 5) (fld w 13 5) (SSrc.ofCode (fld w 0 9) l)⟩,
   ⟨0xFF801E00, 0x09000000, true, fun w l => .sseq (fld w 18 5) (fld w 13 5) (SSrc.ofCode (fld w 0 9) l)⟩,
   ⟨0xFF801E00, 0x09800000, true, fun w l => .ssel (fld w 18 5) (fld w 13 5) (SSrc.ofCode (fld w 0 9) l)⟩,
   ⟨0xFF83FE00, 0x0A000000, true, fun w l => .smov (fld w 18 5) (SSrc.ofCode (fld w 0 9) l)⟩,
   ⟨0xFF83FFFF, 0x0A8001FF, true, fun w l => .sli (fld w 18 5) l⟩,
   ⟨0xFF801FFF, 0x0B000000, false, fun w _ => .sclz (fld w 18 5) (fld w 13 5)⟩,
   ⟨0xFF801FFF, 0x0B800000, false, fun w _ => .spopc (fld w 18 5) (fld w 13 5)⟩]

/-- Rows of the opcode table from SADD_I to CALL (R40). -/
def rows1 : List Row :=
  [⟨0xFF801E00, 0x10000000, false, fun w _ => .saddI (fld w 18 5) (fld w 13 5) (fld w 0 9)⟩,
   ⟨0xFF801E00, 0x10800000, false, fun w _ => .ssubI (fld w 18 5) (fld w 13 5) (fld w 0 9)⟩,
   ⟨0xFF801E00, 0x11000000, false, fun w _ => .smulI (fld w 18 5) (fld w 13 5) (fld w 0 9)⟩,
   ⟨0xFF801E00, 0x11800000, false, fun w _ => .smulhI (fld w 18 5) (fld w 13 5) (fld w 0 9)⟩,
   ⟨0xFF801E00, 0x12000000, false, fun w _ => .sdivI (fld w 18 5) (fld w 13 5) (fld w 0 9)⟩,
   ⟨0xFF801E00, 0x12800000, false, fun w _ => .sremI (fld w 18 5) (fld w 13 5) (fld w 0 9)⟩,
   ⟨0xFF801E00, 0x13000000, false, fun w _ => .sandI (fld w 18 5) (fld w 13 5) (fld w 0 9)⟩,
   ⟨0xFF801E00, 0x13800000, false, fun w _ => .sorI (fld w 18 5) (fld w 13 5) (fld w 0 9)⟩,
   ⟨0xFF801E00, 0x14000000, false, fun w _ => .sxorI (fld w 18 5) (fld w 13 5) (fld w 0 9)⟩,
   ⟨0xFF801E00, 0x14800000, false, fun w _ => .sshlI (fld w 18 5) (fld w 13 5) (fld w 0 9)⟩,
   ⟨0xFF801E00, 0x15000000, false, fun w _ => .sshrI (fld w 18 5) (fld w 13 5) (fld w 0 9)⟩,
   ⟨0xFF801E00, 0x15800000, false, fun w _ => .ssarI (fld w 18 5) (fld w 13 5) (fld w 0 9)⟩,
   ⟨0xFF801E00, 0x16000000, false, fun w _ => .sminI (fld w 18 5) (fld w 13 5) (fld w 0 9)⟩,
   ⟨0xFF801E00, 0x16800000, false, fun w _ => .smaxI (fld w 18 5) (fld w 13 5) (fld w 0 9)⟩,
   ⟨0xFF801E00, 0x17000000, false, fun w _ => .sminuI (fld w 18 5) (fld w 13 5) (fld w 0 9)⟩,
   ⟨0xFF801E00, 0x17800000, false, fun w _ => .smaxuI (fld w 18 5) (fld w 13 5) (fld w 0 9)⟩,
   ⟨0xFF801E00, 0x18000000, false, fun w _ => .ssltI (fld w 18 5) (fld w 13 5) (fld w 0 9)⟩,
   ⟨0xFF801E00, 0x18800000, false, fun w _ => .ssltuI (fld w 18 5) (fld w 13 5) (fld w 0 9)⟩,
   ⟨0xFF801E00, 0x19000000, false, fun w _ => .sseqI (fld w 18 5) (fld w 13 5) (fld w 0 9)⟩,
   ⟨0xFFFC0000, 0x20000000, false, fun w _ => .bra (fld w 0 18)⟩,
   ⟨0xFF800000, 0x20800000, false, fun w _ => .brs (fld w 18 5) (fld w 0 18)⟩,
   ⟨0xFF800000, 0x21000000, false, fun w _ => .brp (fld w 21 2) (fld w 18 3) (fld w 0 18)⟩,
   ⟨0xFFC00000, 0x21800000, false, fun w _ => .brl (fld w 21 1) (fld w 18 3) (fld w 0 18)⟩,
   ⟨0xFF800000, 0x22000000, false, fun w _ => .call (fld w 18 5) (fld w 0 18)⟩]

/-- Rows of the opcode table from RET to VMUL (R40). -/
def rows2 : List Row :=
  [⟨0xFFFC1FFF, 0x22800000, false, fun w _ => .ret (fld w 13 5)⟩,
   ⟨0xFFFC1FFF, 0x23000000, false, fun w _ => .jmpi (fld w 13 5)⟩,
   ⟨0xFFFFFFFF, 0x23800000, false, fun _ _ => .exit⟩,
   ⟨0xFFFFFFFF, 0x24000000, false, fun _ _ => .yield⟩,
   ⟨0xFF800000, 0x24800000, false, fun w _ => .nop (fld w 0 23)⟩,
   ⟨0xFFFFF000, 0x25000000, false, fun w _ => .waitf (fld w 0 12)⟩,
   ⟨0xFFE01FFF, 0x25800000, false, fun w _ => .waitc (fld w 18 3) (fld w 13 5)⟩,
   ⟨0xFFFF0000, 0x26000000, false, fun w _ => .trap (fld w 0 16)⟩,
   ⟨0xFFFF0000, 0x26800000, false, fun w _ => .brk (fld w 0 16)⟩,
   ⟨0xFFFFFFFF, 0x27000000, false, fun _ _ => .tret⟩,
   ⟨0xFF801E00, 0x27800000, false, fun w _ => .svc (fld w 18 5) (fld w 13 5) (fld w 0 9)⟩,
   ⟨0xFFFFFFFF, 0x300001FF, true, fun _ l => .setm l⟩,
   ⟨0xFFC3FFFF, 0x30800000, false, fun w _ => .setg (fld w 21 1) (fld w 18 3)⟩,
   ⟨0xFFC3FFFF, 0x31000000, false, fun w _ => .sett (fld w 18 4)⟩,
   ⟨0xFFC3FFFC, 0x31800000, false, fun w _ => .setr (fld w 18 4) (fld w 1 1) (fld w 0 1)⟩,
   ⟨0xFFE3FFFF, 0x32000000, false, fun w _ => .setw (fld w 18 3)⟩,
   ⟨0xFFE3FFFF, 0x32800000, false, fun w _ => .setd (fld w 18 3)⟩,
   ⟨0xFFFBFE00, 0x33000000, true, fun w l => .setx (fld w 18 1) (SSrc.ofCode (fld w 0 9) l)⟩,
   ⟨0xFF83F000, 0x33800000, false, fun w _ => .srd (fld w 18 5) (fld w 0 12)⟩,
   ⟨0xFF83F000, 0x34000000, false, fun w _ => .swr (fld w 18 5) (fld w 0 12)⟩,
   ⟨0xFFE01E00, 0x38000000, true, fun w l => .bid (fld w 18 3) (fld w 13 5) (SSrc.ofCode (fld w 0 9) l)⟩,
   ⟨0xFF800000, 0x40000000, true, fun w l => .vadd (fld w 18 5) (VSrc.ofCodeA (fld w 9 9)) (VSrc.ofCodeB (fld w 0 9) l)⟩,
   ⟨0xFF800000, 0x40800000, true, fun w l => .vsub (fld w 18 5) (VSrc.ofCodeA (fld w 9 9)) (VSrc.ofCodeB (fld w 0 9) l)⟩,
   ⟨0xFF800000, 0x41000000, true, fun w l => .vmul (fld w 18 5) (VSrc.ofCodeA (fld w 9 9)) (VSrc.ofCodeB (fld w 0 9) l)⟩]

/-- Rows of the opcode table from VMULH to VCGT (R40). -/
def rows3 : List Row :=
  [⟨0xFF800000, 0x41800000, true, fun w l => .vmulh (fld w 18 5) (VSrc.ofCodeA (fld w 9 9)) (VSrc.ofCodeB (fld w 0 9) l)⟩,
   ⟨0xFF800000, 0x42000000, true, fun w l => .vmad (fld w 18 5) (VSrc.ofCodeA (fld w 9 9)) (VSrc.ofCodeB (fld w 0 9) l)⟩,
   ⟨0xFF800000, 0x42800000, true, fun w l => .vmsb (fld w 18 5) (VSrc.ofCodeA (fld w 9 9)) (VSrc.ofCodeB (fld w 0 9) l)⟩,
   ⟨0xFF800000, 0x43000000, true, fun w l => .vnmad (fld w 18 5) (VSrc.ofCodeA (fld w 9 9)) (VSrc.ofCodeB (fld w 0 9) l)⟩,
   ⟨0xFF800000, 0x43800000, true, fun w l => .vmin (fld w 18 5) (VSrc.ofCodeA (fld w 9 9)) (VSrc.ofCodeB (fld w 0 9) l)⟩,
   ⟨0xFF800000, 0x44000000, true, fun w l => .vmax (fld w 18 5) (VSrc.ofCodeA (fld w 9 9)) (VSrc.ofCodeB (fld w 0 9) l)⟩,
   ⟨0xFF83FE00, 0x44800000, true, fun w l => .vabs (fld w 18 5) (VSrc.ofCodeB (fld w 0 9) l)⟩,
   ⟨0xFF83FE00, 0x45000000, true, fun w l => .vneg (fld w 18 5) (VSrc.ofCodeB (fld w 0 9) l)⟩,
   ⟨0xFF800000, 0x45800000, true, fun w l => .vand (fld w 18 5) (VSrc.ofCodeA (fld w 9 9)) (VSrc.ofCodeB (fld w 0 9) l)⟩,
   ⟨0xFF800000, 0x46000000, true, fun w l => .vor (fld w 18 5) (VSrc.ofCodeA (fld w 9 9)) (VSrc.ofCodeB (fld w 0 9) l)⟩,
   ⟨0xFF800000, 0x46800000, true, fun w l => .vxor (fld w 18 5) (VSrc.ofCodeA (fld w 9 9)) (VSrc.ofCodeB (fld w 0 9) l)⟩,
   ⟨0xFF83FE00, 0x47000000, true, fun w l => .vnot (fld w 18 5) (VSrc.ofCodeB (fld w 0 9) l)⟩,
   ⟨0xFF800000, 0x47800000, true, fun w l => .vshl (fld w 18 5) (VSrc.ofCodeA (fld w 9 9)) (VSrc.ofCodeB (fld w 0 9) l)⟩,
   ⟨0xFF800000, 0x48000000, true, fun w l => .vshr (fld w 18 5) (VSrc.ofCodeA (fld w 9 9)) (VSrc.ofCodeB (fld w 0 9) l)⟩,
   ⟨0xFF800000, 0x48800000, true, fun w l => .vrol (fld w 18 5) (VSrc.ofCodeA (fld w 9 9)) (VSrc.ofCodeB (fld w 0 9) l)⟩,
   ⟨0xFF83FE00, 0x49000000, true, fun w l => .vclz (fld w 18 5) (VSrc.ofCodeB (fld w 0 9) l)⟩,
   ⟨0xFF83FE00, 0x49800000, true, fun w l => .vpopc (fld w 18 5) (VSrc.ofCodeB (fld w 0 9) l)⟩,
   ⟨0xFF83FE00, 0x4A000000, true, fun w l => .vbrev (fld w 18 5) (VSrc.ofCodeB (fld w 0 9) l)⟩,
   ⟨0xFF800000, 0x4A800000, true, fun w l => .vsel (fld w 18 5) (VSrc.ofCodeA (fld w 9 9)) (VSrc.ofCodeB (fld w 0 9) l)⟩,
   ⟨0xFF800000, 0x50000000, true, fun w l => .vceq (fld w 21 2) (fld w 18 3) (VSrc.ofCodeA (fld w 9 9)) (VSrc.ofCodeB (fld w 0 9) l)⟩,
   ⟨0xFF800000, 0x50800000, true, fun w l => .vcne (fld w 21 2) (fld w 18 3) (VSrc.ofCodeA (fld w 9 9)) (VSrc.ofCodeB (fld w 0 9) l)⟩,
   ⟨0xFF800000, 0x51000000, true, fun w l => .vclt (fld w 21 2) (fld w 18 3) (VSrc.ofCodeA (fld w 9 9)) (VSrc.ofCodeB (fld w 0 9) l)⟩,
   ⟨0xFF800000, 0x51800000, true, fun w l => .vcle (fld w 21 2) (fld w 18 3) (VSrc.ofCodeA (fld w 9 9)) (VSrc.ofCodeB (fld w 0 9) l)⟩,
   ⟨0xFF800000, 0x52000000, true, fun w l => .vcgt (fld w 21 2) (fld w 18 3) (VSrc.ofCodeA (fld w 9 9)) (VSrc.ofCodeB (fld w 0 9) l)⟩]

/-- Rows of the opcode table from VCGE to VCLE_I (R40). -/
def rows4 : List Row :=
  [⟨0xFF800000, 0x52800000, true, fun w l => .vcge (fld w 21 2) (fld w 18 3) (VSrc.ofCodeA (fld w 9 9)) (VSrc.ofCodeB (fld w 0 9) l)⟩,
   ⟨0xFF800000, 0x53000000, true, fun w l => .vcun (fld w 21 2) (fld w 18 3) (VSrc.ofCodeA (fld w 9 9)) (VSrc.ofCodeB (fld w 0 9) l)⟩,
   ⟨0xFF800000, 0x60000000, false, fun w _ => .vaddI (fld w 18 5) (VSrc.ofCodeA (fld w 9 9)) (fld w 0 9)⟩,
   ⟨0xFF800000, 0x60800000, false, fun w _ => .vsubI (fld w 18 5) (VSrc.ofCodeA (fld w 9 9)) (fld w 0 9)⟩,
   ⟨0xFF800000, 0x61000000, false, fun w _ => .vmulI (fld w 18 5) (VSrc.ofCodeA (fld w 9 9)) (fld w 0 9)⟩,
   ⟨0xFF800000, 0x61800000, false, fun w _ => .vmulhI (fld w 18 5) (VSrc.ofCodeA (fld w 9 9)) (fld w 0 9)⟩,
   ⟨0xFF800000, 0x62000000, false, fun w _ => .vmadI (fld w 18 5) (VSrc.ofCodeA (fld w 9 9)) (fld w 0 9)⟩,
   ⟨0xFF800000, 0x62800000, false, fun w _ => .vmsbI (fld w 18 5) (VSrc.ofCodeA (fld w 9 9)) (fld w 0 9)⟩,
   ⟨0xFF800000, 0x63000000, false, fun w _ => .vnmadI (fld w 18 5) (VSrc.ofCodeA (fld w 9 9)) (fld w 0 9)⟩,
   ⟨0xFF800000, 0x63800000, false, fun w _ => .vminI (fld w 18 5) (VSrc.ofCodeA (fld w 9 9)) (fld w 0 9)⟩,
   ⟨0xFF800000, 0x64000000, false, fun w _ => .vmaxI (fld w 18 5) (VSrc.ofCodeA (fld w 9 9)) (fld w 0 9)⟩,
   ⟨0xFF83FE00, 0x64800000, false, fun w _ => .vabsI (fld w 18 5) (fld w 0 9)⟩,
   ⟨0xFF83FE00, 0x65000000, false, fun w _ => .vnegI (fld w 18 5) (fld w 0 9)⟩,
   ⟨0xFF800000, 0x65800000, false, fun w _ => .vandI (fld w 18 5) (VSrc.ofCodeA (fld w 9 9)) (fld w 0 9)⟩,
   ⟨0xFF800000, 0x66000000, false, fun w _ => .vorI (fld w 18 5) (VSrc.ofCodeA (fld w 9 9)) (fld w 0 9)⟩,
   ⟨0xFF800000, 0x66800000, false, fun w _ => .vxorI (fld w 18 5) (VSrc.ofCodeA (fld w 9 9)) (fld w 0 9)⟩,
   ⟨0xFF83FE00, 0x67000000, false, fun w _ => .vnotI (fld w 18 5) (fld w 0 9)⟩,
   ⟨0xFF800000, 0x67800000, false, fun w _ => .vshlI (fld w 18 5) (VSrc.ofCodeA (fld w 9 9)) (fld w 0 9)⟩,
   ⟨0xFF800000, 0x68000000, false, fun w _ => .vshrI (fld w 18 5) (VSrc.ofCodeA (fld w 9 9)) (fld w 0 9)⟩,
   ⟨0xFF800000, 0x68800000, false, fun w _ => .vrolI (fld w 18 5) (VSrc.ofCodeA (fld w 9 9)) (fld w 0 9)⟩,
   ⟨0xFF800000, 0x70000000, false, fun w _ => .vceqI (fld w 21 2) (fld w 18 3) (VSrc.ofCodeA (fld w 9 9)) (fld w 0 9)⟩,
   ⟨0xFF800000, 0x70800000, false, fun w _ => .vcneI (fld w 21 2) (fld w 18 3) (VSrc.ofCodeA (fld w 9 9)) (fld w 0 9)⟩,
   ⟨0xFF800000, 0x71000000, false, fun w _ => .vcltI (fld w 21 2) (fld w 18 3) (VSrc.ofCodeA (fld w 9 9)) (fld w 0 9)⟩,
   ⟨0xFF800000, 0x71800000, false, fun w _ => .vcleI (fld w 21 2) (fld w 18 3) (VSrc.ofCodeA (fld w 9 9)) (fld w 0 9)⟩]

/-- Rows of the opcode table from VCGT_I to VSHF (R40). -/
def rows5 : List Row :=
  [⟨0xFF800000, 0x72000000, false, fun w _ => .vcgtI (fld w 21 2) (fld w 18 3) (VSrc.ofCodeA (fld w 9 9)) (fld w 0 9)⟩,
   ⟨0xFF800000, 0x72800000, false, fun w _ => .vcgeI (fld w 21 2) (fld w 18 3) (VSrc.ofCodeA (fld w 9 9)) (fld w 0 9)⟩,
   ⟨0xFF800003, 0x80000000, false, fun w _ => .vcvt (fld w 18 5) (VSrc.ofCodeA (fld w 9 9)) (fld w 5 4) (fld w 2 3)⟩,
   ⟨0xFF8001FF, 0x80800000, false, fun w _ => .vrnd (fld w 18 5) (VSrc.ofCodeA (fld w 9 9))⟩,
   ⟨0xFF800000, 0x81000000, true, fun w l => .vscl (fld w 18 5) (VSrc.ofCodeA (fld w 9 9)) (VSrc.ofCodeB (fld w 0 9) l)⟩,
   ⟨0xFF83FE00, 0x84000000, true, fun w l => .vrcp (fld w 18 5) (VSrc.ofCodeB (fld w 0 9) l)⟩,
   ⟨0xFF83FE00, 0x84800000, true, fun w l => .vrsq (fld w 18 5) (VSrc.ofCodeB (fld w 0 9) l)⟩,
   ⟨0xFF83FE00, 0x85000000, true, fun w l => .vsqrt (fld w 18 5) (VSrc.ofCodeB (fld w 0 9) l)⟩,
   ⟨0xFF83FE00, 0x85800000, true, fun w l => .vexp2 (fld w 18 5) (VSrc.ofCodeB (fld w 0 9) l)⟩,
   ⟨0xFF83FE00, 0x86000000, true, fun w l => .vlog2 (fld w 18 5) (VSrc.ofCodeB (fld w 0 9) l)⟩,
   ⟨0xFF83FE00, 0x86800000, true, fun w l => .vsin (fld w 18 5) (VSrc.ofCodeB (fld w 0 9) l)⟩,
   ⟨0xFF83FE00, 0x87000000, true, fun w l => .vcos (fld w 18 5) (VSrc.ofCodeB (fld w 0 9) l)⟩,
   ⟨0xFF83FE00, 0x87800000, true, fun w l => .vtanh (fld w 18 5) (VSrc.ofCodeB (fld w 0 9) l)⟩,
   ⟨0xFF800000, 0x88000000, true, fun w l => .vdiv (fld w 18 5) (VSrc.ofCodeA (fld w 9 9)) (VSrc.ofCodeB (fld w 0 9) l)⟩,
   ⟨0xFFE3F1F8, 0x90000000, false, fun w _ => .pand (fld w 18 3) (fld w 9 3) (fld w 0 3)⟩,
   ⟨0xFFE3F1F8, 0x90800000, false, fun w _ => .por (fld w 18 3) (fld w 9 3) (fld w 0 3)⟩,
   ⟨0xFFE3F1F8, 0x91000000, false, fun w _ => .pxor (fld w 18 3) (fld w 9 3) (fld w 0 3)⟩,
   ⟨0xFFE3F1F8, 0x91800000, false, fun w _ => .pandn (fld w 18 3) (fld w 9 3) (fld w 0 3)⟩,
   ⟨0xFFE3F1FF, 0x92000000, false, fun w _ => .pnot (fld w 18 3) (fld w 9 3)⟩,
   ⟨0xFF83F1FF, 0x92800000, false, fun w _ => .pmov (fld w 18 5) (fld w 9 3)⟩,
   ⟨0xFFE3FE00, 0x93000000, true, fun w l => .pset (fld w 18 3) (SSrc.ofCode (fld w 0 9) l)⟩,
   ⟨0xFF83F1FF, 0x94000000, false, fun w _ => .vote (fld w 21 2) (fld w 18 3) (fld w 9 3)⟩,
   ⟨0xFF83F1FF, 0x94800000, false, fun w _ => .vbal (fld w 18 5) (fld w 9 3)⟩,
   ⟨0xFF800000, 0x95000000, true, fun w l => .vshf (fld w 18 5) (VSrc.ofCodeA (fld w 9 9)) (VSrc.ofCodeB (fld w 0 9) l)⟩]

/-- Rows of the opcode table from VRDC to ACCST (R40). -/
def rows6 : List Row :=
  [⟨0xFF8001F0, 0x95800000, false, fun w _ => .vrdc (fld w 18 5) (VSrc.ofCodeA (fld w 9 9)) (fld w 0 4)⟩,
   ⟨0xFF8001E0, 0x96000000, false, fun w _ => .vscn (fld w 18 5) (VSrc.ofCodeA (fld w 9 9)) (fld w 4 1) (fld w 0 4)⟩,
   ⟨0xFF800000, 0x98000000, true, fun w l => .rwalk (fld w 18 5) (VSrc.ofCodeA (fld w 9 9)) (VSrc.ofCodeB (fld w 0 9) l)⟩,
   ⟨0xFF800000, 0x98800000, true, fun w l => .rnext (fld w 21 2) (fld w 18 3) (VSrc.ofCodeA (fld w 9 9)) (VSrc.ofCodeB (fld w 0 9) l)⟩,
   ⟨0xFF800180, 0x99000000, false, fun w _ => .vsred (fld w 18 5) (VSrc.ofCodeA (fld w 9 9)) (fld w 4 3) (fld w 0 4)⟩,
   ⟨0xFF83FE00, 0xA0000000, true, fun w l => .vmov (fld w 18 5) (VSrc.ofCodeB (fld w 0 9) l)⟩,
   ⟨0xFF80000F, 0xA0800000, false, fun w _ => .vmovx (fld w 18 5) (VSrc.ofCodeA (fld w 9 9)) (fld w 4 5)⟩,
   ⟨0xFF801E00, 0xA1000000, true, fun w l => .vmovxw (fld w 18 5) (fld w 13 5) (VSrc.ofCodeB (fld w 0 9) l)⟩,
   ⟨0xFFFFFE00, 0xA1800000, true, fun w l => .vfree (SSrc.ofCode (fld w 0 9) l)⟩,
   ⟨0xFF800000, 0xA4000000, true, fun w l => .rdep (fld w 18 5) (VSrc.ofCodeA (fld w 9 9)) (SSrc.ofCode (fld w 0 9) l)⟩,
   ⟨0xFFFC1FFF, 0xA4800000, false, fun w _ => .waita (fld w 13 5)⟩,
   ⟨0xFF801000, 0xB0000000, true, fun w l => .tidset (fld w 18 5) (fld w 13 5) (fld w 9 3) (VSrc.ofCodeB (fld w 0 9) l)⟩,
   ⟨0xFF801000, 0xB0800000, true, fun w l => .tidget (fld w 18 5) (fld w 13 5) (fld w 9 3) (VSrc.ofCodeB (fld w 0 9) l)⟩,
   ⟨0xFF801E00, 0xB1000000, true, fun w l => .tidcur (fld w 18 5) (fld w 13 5) (SSrc.ofCode (fld w 0 9) l)⟩,
   ⟨0xFF83FFFF, 0xB1800000, false, fun w _ => .tidinv (fld w 18 5)⟩,
   ⟨0xFF83FFFF, 0xB2000000, false, fun w _ => .wget (fld w 18 5)⟩,
   ⟨0xFF800E0F, 0xB4000000, false, fun w _ => .mma (fld w 22 1) (fld w 21 1) (fld w 18 3) (fld w 13 5) (fld w 12 1) (fld w 4 5)⟩,
   ⟨0xFF800E0F, 0xB4800000, false, fun w _ => .mmaz (fld w 22 1) (fld w 21 1) (fld w 18 3) (fld w 13 5) (fld w 12 1) (fld w 4 5)⟩,
   ⟨0xFF800E0F, 0xB5000000, false, fun w _ => .mmaw (fld w 22 1) (fld w 21 1) (fld w 18 3) (fld w 13 5) (fld w 12 1) (fld w 4 5)⟩,
   ⟨0xFFE3FE00, 0xB8000000, true, fun w l => .accz (fld w 18 3) (SSrc.ofCode (fld w 0 9) l)⟩,
   ⟨0xFF831E00, 0xB8800000, true, fun w l => .accrd (fld w 18 5) (fld w 13 3) (SSrc.ofCode (fld w 0 9) l)⟩,
   ⟨0xFFE01E00, 0xB9000000, true, fun w l => .accwr (fld w 18 3) (fld w 13 5) (VSrc.ofCodeB (fld w 0 9) l)⟩,
   ⟨0xFFE01E00, 0xB9800000, true, fun w l => .accld (fld w 18 3) (fld w 13 5) (SSrc.ofCode (fld w 0 9) l)⟩,
   ⟨0xFFE01FFF, 0xBA000000, false, fun w _ => .accst (fld w 18 3) (fld w 13 5)⟩]

/-- Rows of the opcode table from ACCFREE to SPLD_D (R40). -/
def rows7 : List Row :=
  [⟨0xFFFFFE00, 0xBA800000, true, fun w l => .accfree (SSrc.ofCode (fld w 0 9) l)⟩,
   ⟨0xFF831FFF, 0xBB000000, false, fun w _ => .accstat (fld w 18 5) (fld w 13 3)⟩,
   ⟨0xFF801000, 0xC0000000, true, fun w l => .vldB (fld w 18 5) (fld w 13 5) (fld w 9 3) (VSrc.ofCodeB (fld w 0 9) l)⟩,
   ⟨0xFF801000, 0xC0800000, true, fun w l => .vldH (fld w 18 5) (fld w 13 5) (fld w 9 3) (VSrc.ofCodeB (fld w 0 9) l)⟩,
   ⟨0xFF801000, 0xC1000000, true, fun w l => .vldW (fld w 18 5) (fld w 13 5) (fld w 9 3) (VSrc.ofCodeB (fld w 0 9) l)⟩,
   ⟨0xFF801000, 0xC1800000, true, fun w l => .vldD (fld w 18 5) (fld w 13 5) (fld w 9 3) (VSrc.ofCodeB (fld w 0 9) l)⟩,
   ⟨0xFF801000, 0xC2000000, true, fun w l => .vldQ (fld w 18 5) (fld w 13 5) (fld w 9 3) (VSrc.ofCodeB (fld w 0 9) l)⟩,
   ⟨0xFF801000, 0xC4000000, true, fun w l => .vstB (fld w 18 5) (fld w 13 5) (fld w 9 3) (VSrc.ofCodeB (fld w 0 9) l)⟩,
   ⟨0xFF801000, 0xC4800000, true, fun w l => .vstH (fld w 18 5) (fld w 13 5) (fld w 9 3) (VSrc.ofCodeB (fld w 0 9) l)⟩,
   ⟨0xFF801000, 0xC5000000, true, fun w l => .vstW (fld w 18 5) (fld w 13 5) (fld w 9 3) (VSrc.ofCodeB (fld w 0 9) l)⟩,
   ⟨0xFF801000, 0xC5800000, true, fun w l => .vstD (fld w 18 5) (fld w 13 5) (fld w 9 3) (VSrc.ofCodeB (fld w 0 9) l)⟩,
   ⟨0xFF801000, 0xC6000000, true, fun w l => .vstQ (fld w 18 5) (fld w 13 5) (fld w 9 3) (VSrc.ofCodeB (fld w 0 9) l)⟩,
   ⟨0xFF801000, 0xC8000000, true, fun w l => .sldB (fld w 18 5) (fld w 13 5) (fld w 9 3) (VSrc.ofCodeB (fld w 0 9) l)⟩,
   ⟨0xFF801000, 0xC8800000, true, fun w l => .sldH (fld w 18 5) (fld w 13 5) (fld w 9 3) (VSrc.ofCodeB (fld w 0 9) l)⟩,
   ⟨0xFF801000, 0xC9000000, true, fun w l => .sldW (fld w 18 5) (fld w 13 5) (fld w 9 3) (VSrc.ofCodeB (fld w 0 9) l)⟩,
   ⟨0xFF801000, 0xC9800000, true, fun w l => .sldD (fld w 18 5) (fld w 13 5) (fld w 9 3) (VSrc.ofCodeB (fld w 0 9) l)⟩,
   ⟨0xFF801000, 0xCA000000, true, fun w l => .sstB (fld w 18 5) (fld w 13 5) (fld w 9 3) (VSrc.ofCodeB (fld w 0 9) l)⟩,
   ⟨0xFF801000, 0xCA800000, true, fun w l => .sstH (fld w 18 5) (fld w 13 5) (fld w 9 3) (VSrc.ofCodeB (fld w 0 9) l)⟩,
   ⟨0xFF801000, 0xCB000000, true, fun w l => .sstW (fld w 18 5) (fld w 13 5) (fld w 9 3) (VSrc.ofCodeB (fld w 0 9) l)⟩,
   ⟨0xFF801000, 0xCB800000, true, fun w l => .sstD (fld w 18 5) (fld w 13 5) (fld w 9 3) (VSrc.ofCodeB (fld w 0 9) l)⟩,
   ⟨0xFF801000, 0xCC000000, true, fun w l => .spldB (fld w 18 5) (fld w 13 5) (fld w 9 3) (VSrc.ofCodeB (fld w 0 9) l)⟩,
   ⟨0xFF801000, 0xCC800000, true, fun w l => .spldH (fld w 18 5) (fld w 13 5) (fld w 9 3) (VSrc.ofCodeB (fld w 0 9) l)⟩,
   ⟨0xFF801000, 0xCD000000, true, fun w l => .spldW (fld w 18 5) (fld w 13 5) (fld w 9 3) (VSrc.ofCodeB (fld w 0 9) l)⟩,
   ⟨0xFF801000, 0xCD800000, true, fun w l => .spldD (fld w 18 5) (fld w 13 5) (fld w 9 3) (VSrc.ofCodeB (fld w 0 9) l)⟩]

/-- Rows of the opcode table from SPST_B to ATOM (R40). -/
def rows8 : List Row :=
  [⟨0xFF801000, 0xCE000000, true, fun w l => .spstB (fld w 18 5) (fld w 13 5) (fld w 9 3) (VSrc.ofCodeB (fld w 0 9) l)⟩,
   ⟨0xFF801000, 0xCE800000, true, fun w l => .spstH (fld w 18 5) (fld w 13 5) (fld w 9 3) (VSrc.ofCodeB (fld w 0 9) l)⟩,
   ⟨0xFF801000, 0xCF000000, true, fun w l => .spstW (fld w 18 5) (fld w 13 5) (fld w 9 3) (VSrc.ofCodeB (fld w 0 9) l)⟩,
   ⟨0xFF801000, 0xCF800000, true, fun w l => .spstD (fld w 18 5) (fld w 13 5) (fld w 9 3) (VSrc.ofCodeB (fld w 0 9) l)⟩,
   ⟨0xFF801000, 0xD0000000, true, fun w l => .vldb (fld w 18 5) (fld w 13 5) (fld w 9 3) (VSrc.ofCodeB (fld w 0 9) l)⟩,
   ⟨0xFF801000, 0xD0800000, true, fun w l => .vstb (fld w 18 5) (fld w 13 5) (fld w 9 3) (VSrc.ofCodeB (fld w 0 9) l)⟩,
   ⟨0xFF801000, 0xD1000000, true, fun w l => .spldb (fld w 18 5) (fld w 13 5) (fld w 9 3) (VSrc.ofCodeB (fld w 0 9) l)⟩,
   ⟨0xFF801000, 0xD1800000, true, fun w l => .spstb (fld w 18 5) (fld w 13 5) (fld w 9 3) (VSrc.ofCodeB (fld w 0 9) l)⟩,
   ⟨0xFF801000, 0xD2000000, true, fun w l => .rsld (fld w 18 5) (fld w 13 5) (fld w 9 3) (VSrc.ofCodeB (fld w 0 9) l)⟩,
   ⟨0xFF801000, 0xD2800000, true, fun w l => .rsst (fld w 18 5) (fld w 13 5) (fld w 9 3) (VSrc.ofCodeB (fld w 0 9) l)⟩,
   ⟨0xFFFC1000, 0xD3000000, true, fun w l => .pld (fld w 13 5) (fld w 9 3) (VSrc.ofCodeB (fld w 0 9) l)⟩,
   ⟨0xFF801000, 0xD3800000, true, fun w l => .pldc (fld w 18 5) (fld w 13 5) (fld w 9 3) (VSrc.ofCodeB (fld w 0 9) l)⟩,
   ⟨0xFF801000, 0xD4000000, true, fun w l => .claim (fld w 18 5) (fld w 13 5) (fld w 9 3) (VSrc.ofCodeB (fld w 0 9) l)⟩,
   ⟨0xFFFC1000, 0xD4800000, true, fun w l => .cwb (fld w 13 5) (fld w 9 3) (VSrc.ofCodeB (fld w 0 9) l)⟩,
   ⟨0xFFFC1000, 0xD5000000, true, fun w l => .cinv (fld w 13 5) (fld w 9 3) (VSrc.ofCodeB (fld w 0 9) l)⟩,
   ⟨0xFF801000, 0xD5800000, true, fun w l => .xq (fld w 18 5) (fld w 13 5) (fld w 9 3) (VSrc.ofCodeB (fld w 0 9) l)⟩,
   ⟨0xFFF3F1FF, 0xD8000000, false, fun w _ => .fence (fld w 18 2) (fld w 9 3)⟩,
   ⟨0xFFFFFFFF, 0xD8800000, false, fun _ _ => .fencet⟩,
   ⟨0xFF801000, 0xD9000000, true, fun w l => .vldaW (fld w 18 5) (fld w 13 5) (fld w 9 3) (VSrc.ofCodeB (fld w 0 9) l)⟩,
   ⟨0xFF801000, 0xD9800000, true, fun w l => .vldaD (fld w 18 5) (fld w 13 5) (fld w 9 3) (VSrc.ofCodeB (fld w 0 9) l)⟩,
   ⟨0xFF801000, 0xDA000000, true, fun w l => .vstrW (fld w 18 5) (fld w 13 5) (fld w 9 3) (VSrc.ofCodeB (fld w 0 9) l)⟩,
   ⟨0xFF801000, 0xDA800000, true, fun w l => .vstrD (fld w 18 5) (fld w 13 5) (fld w 9 3) (VSrc.ofCodeB (fld w 0 9) l)⟩,
   ⟨0xFF801000, 0xDB000000, true, fun w l => .acqp (fld w 18 5) (fld w 13 5) (fld w 9 3) (SSrc.ofCode (fld w 0 9) l)⟩,
   ⟨0xFF801000, 0xE0000000, false, fun w _ => .atom (fld w 18 5) (fld w 13 5) (fld w 9 3) (fld w 4 5) (fld w 0 4)⟩]

/-- Rows of the opcode table from ARED to PQGIVE (R40). -/
def rows9 : List Row :=
  [⟨0xFF801000, 0xE0800000, false, fun w _ => .ared (fld w 18 5) (fld w 13 5) (fld w 9 3) (fld w 4 5) (fld w 0 4)⟩,
   ⟨0xFF801000, 0xE1000000, false, fun w _ => .acas (fld w 18 5) (fld w 13 5) (fld w 9 3) (fld w 4 5) (fld w 0 4)⟩,
   ⟨0xFF83F1F0, 0xE4000000, false, fun w _ => .bari (fld w 18 5) (fld w 9 3) (fld w 0 4)⟩,
   ⟨0xFF83F1F0, 0xE4800000, false, fun w _ => .bara (fld w 18 5) (fld w 9 3) (fld w 0 4)⟩,
   ⟨0xFF83F1F0, 0xE5000000, false, fun w _ => .barw (fld w 18 5) (fld w 9 3) (fld w 0 4)⟩,
   ⟨0xFF83F1F0, 0xE5800000, false, fun w _ => .barx (fld w 18 5) (fld w 9 3) (fld w 0 4)⟩,
   ⟨0xFFFFF1F0, 0xE6000000, false, fun w _ => .barj (fld w 9 3) (fld w 0 4)⟩,
   ⟨0xFFFFF1F0, 0xE6800000, false, fun w _ => .barl (fld w 9 3) (fld w 0 4)⟩,
   ⟨0xFFE01FFF, 0xE8000000, false, fun w _ => .pqpush (fld w 18 3) (fld w 13 5)⟩,
   ⟨0xFF83FFF8, 0xE8800000, false, fun w _ => .pqpop (fld w 18 5) (fld w 0 3)⟩,
   ⟨0xFF83FFF8, 0xE9000000, false, fun w _ => .pqtry (fld w 18 5) (fld w 0 3)⟩,
   ⟨0xFFE01E00, 0xE9800000, true, fun w l => .pqgive (fld w 18 3) (fld w 13 5) (SSrc.ofCode (fld w 0 9) l)⟩]

/-- The opcode table (R40). -/
def rows : List Row :=
  rows0 ++ rows1 ++ rows2 ++ rows3 ++ rows4 ++ rows5 ++ rows6 ++ rows7 ++ rows8 ++ rows9

/-- The OP field of a body word (R30). -/
def opOf (w : Word) : BitVec 9 := fld w 23 9

/-- The row whose OP is the word's OP. -/
def rowOf (w : Word) : Option Row := rows.find? fun r => opOf r.fixed == opOf w

/-- Whether the word takes the next word as a literal (R412); it depends on OP and B alone. -/
def literalTaking (w : Word) : Bool :=
  match rowOf w with
  | some r => r.literal && (fld w 0 9 == 0x1FF#9)
  | none => false

/-- Decode the first word of a list, with its literal word when it takes one, to an instruction and the number of
words it occupies. -/
def decode (ws : List Word) : Except DecodeError (Instr × Nat) :=
  match ws with
  | [] => .error .missingLiteral
  | w :: rest =>
    if 0x1F0#9 ≤ opOf w then .error .headerWord
    else
      match rowOf w with
      | none => .error .unassignedOpcode
      | some r =>
        if w &&& r.mask = r.fixed then
          if r.literal && (fld w 0 9 == 0x1FF#9) then
            match rest with
            | [] => .error .missingLiteral
            | l :: _ => .ok (r.build w l, 2)
          else .ok (r.build w 0, 1)
        else .error .reservedField

/-- The instruction the decoder reads from `nbits` bits numbered as the opcode table numbers them: the first word
in bits 31 to 0, a literal word of the bits above, zero where the table gives none. -/
def decodeTableWord (_nbits w : Nat) : Option Instr :=
  match decode [BitVec.ofNat 32 w, BitVec.ofNat 32 (w / 2 ^ 32)] with
  | .ok (i, _) => some i
  | .error _ => none

/-- The body word of an instruction, from the same table (R30, R40); 0 for a step of the device. -/
def encodeWord : Instr → Word
  | .sadd d a b => 0#9 ++ d ++ a ++ 0#4 ++ b.code
  | .ssub d a b => 1#9 ++ d ++ a ++ 0#4 ++ b.code
  | .smul d a b => 2#9 ++ d ++ a ++ 0#4 ++ b.code
  | .smulh d a b => 3#9 ++ d ++ a ++ 0#4 ++ b.code
  | .sdiv d a b => 4#9 ++ d ++ a ++ 0#4 ++ b.code
  | .srem d a b => 5#9 ++ d ++ a ++ 0#4 ++ b.code
  | .sand d a b => 6#9 ++ d ++ a ++ 0#4 ++ b.code
  | .sor d a b => 7#9 ++ d ++ a ++ 0#4 ++ b.code
  | .sxor d a b => 8#9 ++ d ++ a ++ 0#4 ++ b.code
  | .sshl d a b => 9#9 ++ d ++ a ++ 0#4 ++ b.code
  | .sshr d a b => 0xa#9 ++ d ++ a ++ 0#4 ++ b.code
  | .ssar d a b => 0xb#9 ++ d ++ a ++ 0#4 ++ b.code
  | .smin d a b => 0xc#9 ++ d ++ a ++ 0#4 ++ b.code
  | .smax d a b => 0xd#9 ++ d ++ a ++ 0#4 ++ b.code
  | .sminu d a b => 0xe#9 ++ d ++ a ++ 0#4 ++ b.code
  | .smaxu d a b => 0xf#9 ++ d ++ a ++ 0#4 ++ b.code
  | .sslt d a b => 0x10#9 ++ d ++ a ++ 0#4 ++ b.code
  | .ssltu d a b => 0x11#9 ++ d ++ a ++ 0#4 ++ b.code
  | .sseq d a b => 0x12#9 ++ d ++ a ++ 0#4 ++ b.code
  | .ssel d a b => 0x13#9 ++ d ++ a ++ 0#4 ++ b.code
  | .smov d b => 0x14#9 ++ d ++ 0#9 ++ b.code
  | .sli d _ => 0x15#9 ++ d ++ 0x1ff#18
  | .sclz d a => 0x16#9 ++ d ++ a ++ 0#13
  | .spopc d a => 0x17#9 ++ d ++ a ++ 0#13
  | .saddI d a i => 0x20#9 ++ d ++ a ++ 0#4 ++ i
  | .ssubI d a i => 0x21#9 ++ d ++ a ++ 0#4 ++ i
  | .smulI d a i => 0x22#9 ++ d ++ a ++ 0#4 ++ i
  | .smulhI d a i => 0x23#9 ++ d ++ a ++ 0#4 ++ i
  | .sdivI d a i => 0x24#9 ++ d ++ a ++ 0#4 ++ i
  | .sremI d a i => 0x25#9 ++ d ++ a ++ 0#4 ++ i
  | .sandI d a i => 0x26#9 ++ d ++ a ++ 0#4 ++ i
  | .sorI d a i => 0x27#9 ++ d ++ a ++ 0#4 ++ i
  | .sxorI d a i => 0x28#9 ++ d ++ a ++ 0#4 ++ i
  | .sshlI d a i => 0x29#9 ++ d ++ a ++ 0#4 ++ i
  | .sshrI d a i => 0x2a#9 ++ d ++ a ++ 0#4 ++ i
  | .ssarI d a i => 0x2b#9 ++ d ++ a ++ 0#4 ++ i
  | .sminI d a i => 0x2c#9 ++ d ++ a ++ 0#4 ++ i
  | .smaxI d a i => 0x2d#9 ++ d ++ a ++ 0#4 ++ i
  | .sminuI d a i => 0x2e#9 ++ d ++ a ++ 0#4 ++ i
  | .smaxuI d a i => 0x2f#9 ++ d ++ a ++ 0#4 ++ i
  | .ssltI d a i => 0x30#9 ++ d ++ a ++ 0#4 ++ i
  | .ssltuI d a i => 0x31#9 ++ d ++ a ++ 0#4 ++ i
  | .sseqI d a i => 0x32#9 ++ d ++ a ++ 0#4 ++ i
  | .bra o => 0x800#14 ++ o
  | .brs s o => 0x41#9 ++ s ++ o
  | .brp m p o => 0x42#9 ++ m ++ p ++ o
  | .brl m p o => 0x86#10 ++ m ++ p ++ o
  | .call l o => 0x44#9 ++ l ++ o
  | .ret a => 0x8a0#14 ++ a ++ 0#13
  | .jmpi a => 0x8c0#14 ++ a ++ 0#13
  | .exit => 0x23800000#32
  | .yield => 0x24000000#32
  | .nop x => 0x49#9 ++ x
  | .waitf m => 0x25000#20 ++ m
  | .waitc p a => 0x12c#11 ++ p ++ a ++ 0#13
  | .trap c => 0x2600#16 ++ c
  | .brk c => 0x2680#16 ++ c
  | .tret => 0x27000000#32
  | .svc d a c => 0x4f#9 ++ d ++ a ++ 0#4 ++ c
  | .setm _ => 0x300001ff#32
  | .setg n g => 0xc2#10 ++ n ++ g ++ 0#18
  | .sett t => 0xc4#10 ++ t ++ 0#18
  | .setr r f s => 0xc6#10 ++ r ++ 0#16 ++ f ++ s
  | .setw w => 0x190#11 ++ w ++ 0#18
  | .setd s => 0x194#11 ++ s ++ 0#18
  | .setx l b => 0x660#13 ++ l ++ 0#9 ++ b.code
  | .srd d i => 0x67#9 ++ d ++ 0#6 ++ i
  | .swr s i => 0x68#9 ++ s ++ 0#6 ++ i
  | .bid c a b => 0x1c0#11 ++ c ++ a ++ 0#4 ++ b.code
  | .vadd d a b => 0x80#9 ++ d ++ a.code ++ b.code
  | .vsub d a b => 0x81#9 ++ d ++ a.code ++ b.code
  | .vmul d a b => 0x82#9 ++ d ++ a.code ++ b.code
  | .vmulh d a b => 0x83#9 ++ d ++ a.code ++ b.code
  | .vmad d a b => 0x84#9 ++ d ++ a.code ++ b.code
  | .vmsb d a b => 0x85#9 ++ d ++ a.code ++ b.code
  | .vnmad d a b => 0x86#9 ++ d ++ a.code ++ b.code
  | .vmin d a b => 0x87#9 ++ d ++ a.code ++ b.code
  | .vmax d a b => 0x88#9 ++ d ++ a.code ++ b.code
  | .vabs d b => 0x89#9 ++ d ++ 0#9 ++ b.code
  | .vneg d b => 0x8a#9 ++ d ++ 0#9 ++ b.code
  | .vand d a b => 0x8b#9 ++ d ++ a.code ++ b.code
  | .vor d a b => 0x8c#9 ++ d ++ a.code ++ b.code
  | .vxor d a b => 0x8d#9 ++ d ++ a.code ++ b.code
  | .vnot d b => 0x8e#9 ++ d ++ 0#9 ++ b.code
  | .vshl d a b => 0x8f#9 ++ d ++ a.code ++ b.code
  | .vshr d a b => 0x90#9 ++ d ++ a.code ++ b.code
  | .vrol d a b => 0x91#9 ++ d ++ a.code ++ b.code
  | .vclz d b => 0x92#9 ++ d ++ 0#9 ++ b.code
  | .vpopc d b => 0x93#9 ++ d ++ 0#9 ++ b.code
  | .vbrev d b => 0x94#9 ++ d ++ 0#9 ++ b.code
  | .vsel d a b => 0x95#9 ++ d ++ a.code ++ b.code
  | .vceq m p a b => 0xa0#9 ++ m ++ p ++ a.code ++ b.code
  | .vcne m p a b => 0xa1#9 ++ m ++ p ++ a.code ++ b.code
  | .vclt m p a b => 0xa2#9 ++ m ++ p ++ a.code ++ b.code
  | .vcle m p a b => 0xa3#9 ++ m ++ p ++ a.code ++ b.code
  | .vcgt m p a b => 0xa4#9 ++ m ++ p ++ a.code ++ b.code
  | .vcge m p a b => 0xa5#9 ++ m ++ p ++ a.code ++ b.code
  | .vcun m p a b => 0xa6#9 ++ m ++ p ++ a.code ++ b.code
  | .vaddI d a i => 0xc0#9 ++ d ++ a.code ++ i
  | .vsubI d a i => 0xc1#9 ++ d ++ a.code ++ i
  | .vmulI d a i => 0xc2#9 ++ d ++ a.code ++ i
  | .vmulhI d a i => 0xc3#9 ++ d ++ a.code ++ i
  | .vmadI d a i => 0xc4#9 ++ d ++ a.code ++ i
  | .vmsbI d a i => 0xc5#9 ++ d ++ a.code ++ i
  | .vnmadI d a i => 0xc6#9 ++ d ++ a.code ++ i
  | .vminI d a i => 0xc7#9 ++ d ++ a.code ++ i
  | .vmaxI d a i => 0xc8#9 ++ d ++ a.code ++ i
  | .vabsI d i => 0xc9#9 ++ d ++ 0#9 ++ i
  | .vnegI d i => 0xca#9 ++ d ++ 0#9 ++ i
  | .vandI d a i => 0xcb#9 ++ d ++ a.code ++ i
  | .vorI d a i => 0xcc#9 ++ d ++ a.code ++ i
  | .vxorI d a i => 0xcd#9 ++ d ++ a.code ++ i
  | .vnotI d i => 0xce#9 ++ d ++ 0#9 ++ i
  | .vshlI d a i => 0xcf#9 ++ d ++ a.code ++ i
  | .vshrI d a i => 0xd0#9 ++ d ++ a.code ++ i
  | .vrolI d a i => 0xd1#9 ++ d ++ a.code ++ i
  | .vceqI m p a i => 0xe0#9 ++ m ++ p ++ a.code ++ i
  | .vcneI m p a i => 0xe1#9 ++ m ++ p ++ a.code ++ i
  | .vcltI m p a i => 0xe2#9 ++ m ++ p ++ a.code ++ i
  | .vcleI m p a i => 0xe3#9 ++ m ++ p ++ a.code ++ i
  | .vcgtI m p a i => 0xe4#9 ++ m ++ p ++ a.code ++ i
  | .vcgeI m p a i => 0xe5#9 ++ m ++ p ++ a.code ++ i
  | .vcvt d a s p => 0x100#9 ++ d ++ a.code ++ s ++ p ++ 0#2
  | .vrnd d a => 0x101#9 ++ d ++ a.code ++ 0#9
  | .vscl d a b => 0x102#9 ++ d ++ a.code ++ b.code
  | .vrcp d b => 0x108#9 ++ d ++ 0#9 ++ b.code
  | .vrsq d b => 0x109#9 ++ d ++ 0#9 ++ b.code
  | .vsqrt d b => 0x10a#9 ++ d ++ 0#9 ++ b.code
  | .vexp2 d b => 0x10b#9 ++ d ++ 0#9 ++ b.code
  | .vlog2 d b => 0x10c#9 ++ d ++ 0#9 ++ b.code
  | .vsin d b => 0x10d#9 ++ d ++ 0#9 ++ b.code
  | .vcos d b => 0x10e#9 ++ d ++ 0#9 ++ b.code
  | .vtanh d b => 0x10f#9 ++ d ++ 0#9 ++ b.code
  | .vdiv d a b => 0x110#9 ++ d ++ a.code ++ b.code
  | .pand d a b => 0x480#11 ++ d ++ 0#6 ++ a ++ 0#6 ++ b
  | .por d a b => 0x484#11 ++ d ++ 0#6 ++ a ++ 0#6 ++ b
  | .pxor d a b => 0x488#11 ++ d ++ 0#6 ++ a ++ 0#6 ++ b
  | .pandn d a b => 0x48c#11 ++ d ++ 0#6 ++ a ++ 0#6 ++ b
  | .pnot d a => 0x490#11 ++ d ++ 0#6 ++ a ++ 0#9
  | .pmov d a => 0x125#9 ++ d ++ 0#6 ++ a ++ 0#9
  | .pset d b => 0x498#11 ++ d ++ 0#9 ++ b.code
  | .vote m d a => 0x128#9 ++ m ++ d ++ 0#6 ++ a ++ 0#9
  | .vbal d a => 0x129#9 ++ d ++ 0#6 ++ a ++ 0#9
  | .vshf d a b => 0x12a#9 ++ d ++ a.code ++ b.code
  | .vrdc d a o => 0x12b#9 ++ d ++ a.code ++ 0#5 ++ o
  | .vscn d a e o => 0x12c#9 ++ d ++ a.code ++ 0#4 ++ e ++ o
  | .rwalk d a b => 0x130#9 ++ d ++ a.code ++ b.code
  | .rnext m p a b => 0x131#9 ++ m ++ p ++ a.code ++ b.code
  | .vsred d a p o => 0x132#9 ++ d ++ a.code ++ 0#2 ++ p ++ o
  | .vmov d b => 0x140#9 ++ d ++ 0#9 ++ b.code
  | .vmovx d a b => 0x141#9 ++ d ++ a.code ++ b ++ 0#4
  | .vmovxw d a b => 0x142#9 ++ d ++ a ++ 0#4 ++ b.code
  | .vfree b => 0x50c000#23 ++ b.code
  | .rdep n a b => 0x148#9 ++ n ++ a.code ++ b.code
  | .waita a => 0x2920#14 ++ a ++ 0#13
  | .tidset n a s o => 0x160#9 ++ n ++ a ++ 0#1 ++ s ++ o.code
  | .tidget n a s o => 0x161#9 ++ n ++ a ++ 0#1 ++ s ++ o.code
  | .tidcur n a b => 0x162#9 ++ n ++ a ++ 0#4 ++ b.code
  | .tidinv n => 0x163#9 ++ n ++ 0#18
  | .wget d => 0x164#9 ++ d ++ 0#18
  | .mma s v c t r b => 0x168#9 ++ s ++ v ++ c ++ t ++ r ++ 0#3 ++ b ++ 0#4
  | .mmaz s v c t r b => 0x169#9 ++ s ++ v ++ c ++ t ++ r ++ 0#3 ++ b ++ 0#4
  | .mmaw s v c t r b => 0x16a#9 ++ s ++ v ++ c ++ t ++ r ++ 0#3 ++ b ++ 0#4
  | .accz n b => 0x5c0#11 ++ n ++ 0#9 ++ b.code
  | .accrd d n b => 0x171#9 ++ d ++ 0#2 ++ n ++ 0#4 ++ b.code
  | .accwr n a b => 0x5c8#11 ++ n ++ a ++ 0#4 ++ b.code
  | .accld n t b => 0x5cc#11 ++ n ++ t ++ 0#4 ++ b.code
  | .accst n t => 0x5d0#11 ++ n ++ t ++ 0#13
  | .accfree b => 0x5d4000#23 ++ b.code
  | .accstat d n => 0x176#9 ++ d ++ 0#2 ++ n ++ 0#13
  | .vldB d a s o => 0x180#9 ++ d ++ a ++ 0#1 ++ s ++ o.code
  | .vldH d a s o => 0x181#9 ++ d ++ a ++ 0#1 ++ s ++ o.code
  | .vldW d a s o => 0x182#9 ++ d ++ a ++ 0#1 ++ s ++ o.code
  | .vldD d a s o => 0x183#9 ++ d ++ a ++ 0#1 ++ s ++ o.code
  | .vldQ d a s o => 0x184#9 ++ d ++ a ++ 0#1 ++ s ++ o.code
  | .vstB d a s o => 0x188#9 ++ d ++ a ++ 0#1 ++ s ++ o.code
  | .vstH d a s o => 0x189#9 ++ d ++ a ++ 0#1 ++ s ++ o.code
  | .vstW d a s o => 0x18a#9 ++ d ++ a ++ 0#1 ++ s ++ o.code
  | .vstD d a s o => 0x18b#9 ++ d ++ a ++ 0#1 ++ s ++ o.code
  | .vstQ d a s o => 0x18c#9 ++ d ++ a ++ 0#1 ++ s ++ o.code
  | .sldB d a s o => 0x190#9 ++ d ++ a ++ 0#1 ++ s ++ o.code
  | .sldH d a s o => 0x191#9 ++ d ++ a ++ 0#1 ++ s ++ o.code
  | .sldW d a s o => 0x192#9 ++ d ++ a ++ 0#1 ++ s ++ o.code
  | .sldD d a s o => 0x193#9 ++ d ++ a ++ 0#1 ++ s ++ o.code
  | .sstB d a s o => 0x194#9 ++ d ++ a ++ 0#1 ++ s ++ o.code
  | .sstH d a s o => 0x195#9 ++ d ++ a ++ 0#1 ++ s ++ o.code
  | .sstW d a s o => 0x196#9 ++ d ++ a ++ 0#1 ++ s ++ o.code
  | .sstD d a s o => 0x197#9 ++ d ++ a ++ 0#1 ++ s ++ o.code
  | .spldB d a s o => 0x198#9 ++ d ++ a ++ 0#1 ++ s ++ o.code
  | .spldH d a s o => 0x199#9 ++ d ++ a ++ 0#1 ++ s ++ o.code
  | .spldW d a s o => 0x19a#9 ++ d ++ a ++ 0#1 ++ s ++ o.code
  | .spldD d a s o => 0x19b#9 ++ d ++ a ++ 0#1 ++ s ++ o.code
  | .spstB d a s o => 0x19c#9 ++ d ++ a ++ 0#1 ++ s ++ o.code
  | .spstH d a s o => 0x19d#9 ++ d ++ a ++ 0#1 ++ s ++ o.code
  | .spstW d a s o => 0x19e#9 ++ d ++ a ++ 0#1 ++ s ++ o.code
  | .spstD d a s o => 0x19f#9 ++ d ++ a ++ 0#1 ++ s ++ o.code
  | .vldb d a s o => 0x1a0#9 ++ d ++ a ++ 0#1 ++ s ++ o.code
  | .vstb d a s o => 0x1a1#9 ++ d ++ a ++ 0#1 ++ s ++ o.code
  | .spldb d a s o => 0x1a2#9 ++ d ++ a ++ 0#1 ++ s ++ o.code
  | .spstb d a s o => 0x1a3#9 ++ d ++ a ++ 0#1 ++ s ++ o.code
  | .rsld d a s o => 0x1a4#9 ++ d ++ a ++ 0#1 ++ s ++ o.code
  | .rsst d a s o => 0x1a5#9 ++ d ++ a ++ 0#1 ++ s ++ o.code
  | .pld a s o => 0x34c0#14 ++ a ++ 0#1 ++ s ++ o.code
  | .pldc d a s o => 0x1a7#9 ++ d ++ a ++ 0#1 ++ s ++ o.code
  | .claim d a s o => 0x1a8#9 ++ d ++ a ++ 0#1 ++ s ++ o.code
  | .cwb a s o => 0x3520#14 ++ a ++ 0#1 ++ s ++ o.code
  | .cinv a s o => 0x3540#14 ++ a ++ 0#1 ++ s ++ o.code
  | .xq d a s o => 0x1ab#9 ++ d ++ a ++ 0#1 ++ s ++ o.code
  | .fence k s => 0xd80#12 ++ k ++ 0#6 ++ s ++ 0#9
  | .fencet => 0xd8800000#32
  | .vldaW d a s o => 0x1b2#9 ++ d ++ a ++ 0#1 ++ s ++ o.code
  | .vldaD d a s o => 0x1b3#9 ++ d ++ a ++ 0#1 ++ s ++ o.code
  | .vstrW d a s o => 0x1b4#9 ++ d ++ a ++ 0#1 ++ s ++ o.code
  | .vstrD d a s o => 0x1b5#9 ++ d ++ a ++ 0#1 ++ s ++ o.code
  | .acqp d a s b => 0x1b6#9 ++ d ++ a ++ 0#1 ++ s ++ b.code
  | .atom d a p o f => 0x1c0#9 ++ d ++ a ++ 0#1 ++ p ++ o ++ f
  | .ared d a p o f => 0x1c1#9 ++ d ++ a ++ 0#1 ++ p ++ o ++ f
  | .acas d a p o z => 0x1c2#9 ++ d ++ a ++ 0#1 ++ p ++ o ++ z
  | .bari s c n => 0x1c8#9 ++ s ++ 0#6 ++ c ++ 0#5 ++ n
  | .bara s c n => 0x1c9#9 ++ s ++ 0#6 ++ c ++ 0#5 ++ n
  | .barw s c n => 0x1ca#9 ++ s ++ 0#6 ++ c ++ 0#5 ++ n
  | .barx s c n => 0x1cb#9 ++ s ++ 0#6 ++ c ++ 0#5 ++ n
  | .barj c n => 0xe6000#20 ++ c ++ 0#5 ++ n
  | .barl c n => 0xe6800#20 ++ c ++ 0#5 ++ n
  | .pqpush q a => 0x740#11 ++ q ++ a ++ 0#13
  | .pqpop d q => 0x1d1#9 ++ d ++ 0#15 ++ q
  | .pqtry d q => 0x1d2#9 ++ d ++ 0#15 ++ q
  | .pqgive q a b => 0x74c#11 ++ q ++ a ++ 0#4 ++ b.code
  | .unassignedOpcode w => w
  | .clauseChoice _ => 0
  | .escalatedSquadResume _ _ => 0
  | .loadReturn _ _ _ => 0
  | .writePerformed _ _ => 0
  | .eviction _ _ => 0
  | .tableWalk _ => 0
  | .faultRetry _ _ => 0
  | .faultFail _ _ => 0
  | .faultDeny _ _ => 0
  | .faultTimeout _ _ => 0
  | .zpSweep _ _ => 0
  | .zpSweepEnd _ => 0
  | .claimPageMove _ _ => 0
  | .sectorJoin _ => 0
  | .windowAccessAtTarget _ _ => 0
  | .depositArrival _ _ => 0
  | .atomicExecute _ _ => 0
  | .ownershipRecall _ _ => 0
  | .hostAtomicopCompletion _ _ _ _ => 0
  | .podAccessRefused _ _ _ => 0
  | .incomingPodAccess _ _ _ _ _ => 0
  | .hostAccess _ _ _ => 0
  | .copy _ => 0
  | .stackLoad _ => 0
  | .gather _ => 0
  | .scatter _ => 0
  | .collectiveRendezvous _ => 0
  | .reduce _ => 0
  | .allgather _ => 0
  | .mmaComplete _ _ => 0
  | .firstUseEvent _ => 0
  | .ringStep _ => 0
  | .captureRelease _ _ => 0
  | .holdEnd _ _ => 0
  | .captureExpiry _ _ => 0
  | .starvation _ => 0
  | .launch _ _ _ _ => 0
  | .gangClaim _ _ => 0
  | .gangAdmission _ _ => 0
  | .coopAdmission _ => 0
  | .wakeInterrupt _ _ _ => 0
  | .svcTimeout _ _ => 0
  | .serviceReply _ _ _ _ => 0
  | .gangHalt _ _ => 0
  | .releaseLogDrain _ _ => 0
  | .imageCommit _ => 0
  | .gangRestore _ => 0
  | .promotionRequest _ _ => 0
  | .eagerPromotion _ => 0
  | .noResidentDrain _ _ => 0
  | .routerArrival _ _ => 0
  | .intervalStart => 0
  | .dsbPin _ _ _ => 0
  | .railClockLower _ _ => 0
  | .hbmRetrainEnd _ => 0
  | .bidClose => 0
  | .clearingComplete => 0
  | .leaseNotice => 0
  | .indexRecordReceive _ _ _ => 0
  | .thermalLimit _ => 0
  | .powerInputFault => 0
  | .uncorrectableError _ _ => 0
  | .linkCrcFailure _ _ => 0
  | .hbmLinkTagFailure _ _ _ _ => 0
  | .hbmLinkRekey _ => 0
  | .podLinkDown _ => 0
  | .functionLevelReset _ => 0
  | .scrubPage _ => 0
  | .sessionCreate _ _ _ _ _ => 0
  | .rekey _ _ => 0
  | .heartbeat _ _ => 0
  | .heartbeatTimeout _ _ => 0
  | .graceExpiry _ _ => 0
  | .importCmd _ _ _ _ _ _ => 0
  | .exportCmd _ _ _ _ _ _ => 0
  | .submitDropped _ _ _ => 0
  | .attestationReport _ _ _ => 0
  | .invs1 _ _ _ _ _ => 0
  | .invs1all _ _ _ => 0
  | .invs2 _ _ _ _ => 0
  | .invs2all _ _ => 0
  | .suspend _ _ _ => 0
  | .resume _ _ _ => 0
  | .endCmd _ _ => 0
  | .ckpt _ _ _ _ => 0
  | .restore _ _ _ _ => 0
  | .keyload _ _ _ => 0
  | .keydestroy _ _ => 0
  | .retire _ _ _ => 0
  | .unknownCommand _ _ => 0
  | .flashwrite => 0
  | .flashcommit => 0
  | .status => 0
  | .restart => 0
  | .packageStart _ => 0
  | .bootWatchdog => 0
  | .claimReservePush _ _ _ _ _ => 0
  | .claimReservePop _ _ _ => 0
  | .queueConsume _ _ => 0
  | .rightsWrite _ _ _ => 0
  | .placeTableWrite _ _ _ => 0
  | .fixedWrite _ _ _ => 0
  | .pmktctlWrite _ _ _ => 0
  | .connectionTableWrite _ _ _ => 0
  | .ckctlWrite _ _ _ => 0
  | .migpolWrite _ _ _ => 0
  | .vfportWrite _ _ _ => 0
  | .podcfgWrite _ _ _ => 0
  | .exportTableWrite _ _ _ => 0
  | .registerWrite _ _ _ => 0
  | .clockSwitchEnd _ _ => 0
  | .dsbUnpinComplete _ => 0
  | .podLinkUp _ => 0
  | .authEntryDropped _ _ => 0

/-- The literal of a scalar slot. -/
def SSrc.literal? : SSrc → Option Word
  | .lit w => some w
  | _ => none

/-- The literal of a vector slot. -/
def VSrc.literal? : VSrc → Option Word
  | .lit w => some w
  | _ => none

/-- The literal word that follows the instruction's body word, if it takes one (R412). -/
def literalOf : Instr → Option Word
  | .sadd _ _ b => b.literal?
  | .ssub _ _ b => b.literal?
  | .smul _ _ b => b.literal?
  | .smulh _ _ b => b.literal?
  | .sdiv _ _ b => b.literal?
  | .srem _ _ b => b.literal?
  | .sand _ _ b => b.literal?
  | .sor _ _ b => b.literal?
  | .sxor _ _ b => b.literal?
  | .sshl _ _ b => b.literal?
  | .sshr _ _ b => b.literal?
  | .ssar _ _ b => b.literal?
  | .smin _ _ b => b.literal?
  | .smax _ _ b => b.literal?
  | .sminu _ _ b => b.literal?
  | .smaxu _ _ b => b.literal?
  | .sslt _ _ b => b.literal?
  | .ssltu _ _ b => b.literal?
  | .sseq _ _ b => b.literal?
  | .ssel _ _ b => b.literal?
  | .smov _ b => b.literal?
  | .sli _ lit => some lit
  | .sclz _ _ => none
  | .spopc _ _ => none
  | .saddI _ _ _ => none
  | .ssubI _ _ _ => none
  | .smulI _ _ _ => none
  | .smulhI _ _ _ => none
  | .sdivI _ _ _ => none
  | .sremI _ _ _ => none
  | .sandI _ _ _ => none
  | .sorI _ _ _ => none
  | .sxorI _ _ _ => none
  | .sshlI _ _ _ => none
  | .sshrI _ _ _ => none
  | .ssarI _ _ _ => none
  | .sminI _ _ _ => none
  | .smaxI _ _ _ => none
  | .sminuI _ _ _ => none
  | .smaxuI _ _ _ => none
  | .ssltI _ _ _ => none
  | .ssltuI _ _ _ => none
  | .sseqI _ _ _ => none
  | .bra _ => none
  | .brs _ _ => none
  | .brp _ _ _ => none
  | .brl _ _ _ => none
  | .call _ _ => none
  | .ret _ => none
  | .jmpi _ => none
  | .exit => none
  | .yield => none
  | .nop _ => none
  | .waitf _ => none
  | .waitc _ _ => none
  | .trap _ => none
  | .brk _ => none
  | .tret => none
  | .svc _ _ _ => none
  | .setm lit => some lit
  | .setg _ _ => none
  | .sett _ => none
  | .setr _ _ _ => none
  | .setw _ => none
  | .setd _ => none
  | .setx _ b => b.literal?
  | .srd _ _ => none
  | .swr _ _ => none
  | .bid _ _ b => b.literal?
  | .vadd _ _ b => b.literal?
  | .vsub _ _ b => b.literal?
  | .vmul _ _ b => b.literal?
  | .vmulh _ _ b => b.literal?
  | .vmad _ _ b => b.literal?
  | .vmsb _ _ b => b.literal?
  | .vnmad _ _ b => b.literal?
  | .vmin _ _ b => b.literal?
  | .vmax _ _ b => b.literal?
  | .vabs _ b => b.literal?
  | .vneg _ b => b.literal?
  | .vand _ _ b => b.literal?
  | .vor _ _ b => b.literal?
  | .vxor _ _ b => b.literal?
  | .vnot _ b => b.literal?
  | .vshl _ _ b => b.literal?
  | .vshr _ _ b => b.literal?
  | .vrol _ _ b => b.literal?
  | .vclz _ b => b.literal?
  | .vpopc _ b => b.literal?
  | .vbrev _ b => b.literal?
  | .vsel _ _ b => b.literal?
  | .vceq _ _ _ b => b.literal?
  | .vcne _ _ _ b => b.literal?
  | .vclt _ _ _ b => b.literal?
  | .vcle _ _ _ b => b.literal?
  | .vcgt _ _ _ b => b.literal?
  | .vcge _ _ _ b => b.literal?
  | .vcun _ _ _ b => b.literal?
  | .vaddI _ _ _ => none
  | .vsubI _ _ _ => none
  | .vmulI _ _ _ => none
  | .vmulhI _ _ _ => none
  | .vmadI _ _ _ => none
  | .vmsbI _ _ _ => none
  | .vnmadI _ _ _ => none
  | .vminI _ _ _ => none
  | .vmaxI _ _ _ => none
  | .vabsI _ _ => none
  | .vnegI _ _ => none
  | .vandI _ _ _ => none
  | .vorI _ _ _ => none
  | .vxorI _ _ _ => none
  | .vnotI _ _ => none
  | .vshlI _ _ _ => none
  | .vshrI _ _ _ => none
  | .vrolI _ _ _ => none
  | .vceqI _ _ _ _ => none
  | .vcneI _ _ _ _ => none
  | .vcltI _ _ _ _ => none
  | .vcleI _ _ _ _ => none
  | .vcgtI _ _ _ _ => none
  | .vcgeI _ _ _ _ => none
  | .vcvt _ _ _ _ => none
  | .vrnd _ _ => none
  | .vscl _ _ b => b.literal?
  | .vrcp _ b => b.literal?
  | .vrsq _ b => b.literal?
  | .vsqrt _ b => b.literal?
  | .vexp2 _ b => b.literal?
  | .vlog2 _ b => b.literal?
  | .vsin _ b => b.literal?
  | .vcos _ b => b.literal?
  | .vtanh _ b => b.literal?
  | .vdiv _ _ b => b.literal?
  | .pand _ _ _ => none
  | .por _ _ _ => none
  | .pxor _ _ _ => none
  | .pandn _ _ _ => none
  | .pnot _ _ => none
  | .pmov _ _ => none
  | .pset _ b => b.literal?
  | .vote _ _ _ => none
  | .vbal _ _ => none
  | .vshf _ _ b => b.literal?
  | .vrdc _ _ _ => none
  | .vscn _ _ _ _ => none
  | .rwalk _ _ b => b.literal?
  | .rnext _ _ _ b => b.literal?
  | .vsred _ _ _ _ => none
  | .vmov _ b => b.literal?
  | .vmovx _ _ _ => none
  | .vmovxw _ _ b => b.literal?
  | .vfree b => b.literal?
  | .rdep _ _ b => b.literal?
  | .waita _ => none
  | .tidset _ _ _ o => o.literal?
  | .tidget _ _ _ o => o.literal?
  | .tidcur _ _ b => b.literal?
  | .tidinv _ => none
  | .wget _ => none
  | .mma _ _ _ _ _ _ => none
  | .mmaz _ _ _ _ _ _ => none
  | .mmaw _ _ _ _ _ _ => none
  | .accz _ b => b.literal?
  | .accrd _ _ b => b.literal?
  | .accwr _ _ b => b.literal?
  | .accld _ _ b => b.literal?
  | .accst _ _ => none
  | .accfree b => b.literal?
  | .accstat _ _ => none
  | .vldB _ _ _ o => o.literal?
  | .vldH _ _ _ o => o.literal?
  | .vldW _ _ _ o => o.literal?
  | .vldD _ _ _ o => o.literal?
  | .vldQ _ _ _ o => o.literal?
  | .vstB _ _ _ o => o.literal?
  | .vstH _ _ _ o => o.literal?
  | .vstW _ _ _ o => o.literal?
  | .vstD _ _ _ o => o.literal?
  | .vstQ _ _ _ o => o.literal?
  | .sldB _ _ _ o => o.literal?
  | .sldH _ _ _ o => o.literal?
  | .sldW _ _ _ o => o.literal?
  | .sldD _ _ _ o => o.literal?
  | .sstB _ _ _ o => o.literal?
  | .sstH _ _ _ o => o.literal?
  | .sstW _ _ _ o => o.literal?
  | .sstD _ _ _ o => o.literal?
  | .spldB _ _ _ o => o.literal?
  | .spldH _ _ _ o => o.literal?
  | .spldW _ _ _ o => o.literal?
  | .spldD _ _ _ o => o.literal?
  | .spstB _ _ _ o => o.literal?
  | .spstH _ _ _ o => o.literal?
  | .spstW _ _ _ o => o.literal?
  | .spstD _ _ _ o => o.literal?
  | .vldb _ _ _ o => o.literal?
  | .vstb _ _ _ o => o.literal?
  | .spldb _ _ _ o => o.literal?
  | .spstb _ _ _ o => o.literal?
  | .rsld _ _ _ o => o.literal?
  | .rsst _ _ _ o => o.literal?
  | .pld _ _ o => o.literal?
  | .pldc _ _ _ o => o.literal?
  | .claim _ _ _ o => o.literal?
  | .cwb _ _ o => o.literal?
  | .cinv _ _ o => o.literal?
  | .xq _ _ _ o => o.literal?
  | .fence _ _ => none
  | .fencet => none
  | .vldaW _ _ _ o => o.literal?
  | .vldaD _ _ _ o => o.literal?
  | .vstrW _ _ _ o => o.literal?
  | .vstrD _ _ _ o => o.literal?
  | .acqp _ _ _ b => b.literal?
  | .atom _ _ _ _ _ => none
  | .ared _ _ _ _ _ => none
  | .acas _ _ _ _ _ => none
  | .bari _ _ _ => none
  | .bara _ _ _ => none
  | .barw _ _ _ => none
  | .barx _ _ _ => none
  | .barj _ _ => none
  | .barl _ _ => none
  | .pqpush _ _ => none
  | .pqpop _ _ => none
  | .pqtry _ _ => none
  | .pqgive _ _ b => b.literal?
  | .unassignedOpcode _ => none
  | .clauseChoice _ => none
  | .escalatedSquadResume _ _ => none
  | .loadReturn _ _ _ => none
  | .writePerformed _ _ => none
  | .eviction _ _ => none
  | .tableWalk _ => none
  | .faultRetry _ _ => none
  | .faultFail _ _ => none
  | .faultDeny _ _ => none
  | .faultTimeout _ _ => none
  | .zpSweep _ _ => none
  | .zpSweepEnd _ => none
  | .claimPageMove _ _ => none
  | .sectorJoin _ => none
  | .windowAccessAtTarget _ _ => none
  | .depositArrival _ _ => none
  | .atomicExecute _ _ => none
  | .ownershipRecall _ _ => none
  | .hostAtomicopCompletion _ _ _ _ => none
  | .podAccessRefused _ _ _ => none
  | .incomingPodAccess _ _ _ _ _ => none
  | .hostAccess _ _ _ => none
  | .copy _ => none
  | .stackLoad _ => none
  | .gather _ => none
  | .scatter _ => none
  | .collectiveRendezvous _ => none
  | .reduce _ => none
  | .allgather _ => none
  | .mmaComplete _ _ => none
  | .firstUseEvent _ => none
  | .ringStep _ => none
  | .captureRelease _ _ => none
  | .holdEnd _ _ => none
  | .captureExpiry _ _ => none
  | .starvation _ => none
  | .launch _ _ _ _ => none
  | .gangClaim _ _ => none
  | .gangAdmission _ _ => none
  | .coopAdmission _ => none
  | .wakeInterrupt _ _ _ => none
  | .svcTimeout _ _ => none
  | .serviceReply _ _ _ _ => none
  | .gangHalt _ _ => none
  | .releaseLogDrain _ _ => none
  | .imageCommit _ => none
  | .gangRestore _ => none
  | .promotionRequest _ _ => none
  | .eagerPromotion _ => none
  | .noResidentDrain _ _ => none
  | .routerArrival _ _ => none
  | .intervalStart => none
  | .dsbPin _ _ _ => none
  | .railClockLower _ _ => none
  | .hbmRetrainEnd _ => none
  | .bidClose => none
  | .clearingComplete => none
  | .leaseNotice => none
  | .indexRecordReceive _ _ _ => none
  | .thermalLimit _ => none
  | .powerInputFault => none
  | .uncorrectableError _ _ => none
  | .linkCrcFailure _ _ => none
  | .hbmLinkTagFailure _ _ _ _ => none
  | .hbmLinkRekey _ => none
  | .podLinkDown _ => none
  | .functionLevelReset _ => none
  | .scrubPage _ => none
  | .sessionCreate _ _ _ _ _ => none
  | .rekey _ _ => none
  | .heartbeat _ _ => none
  | .heartbeatTimeout _ _ => none
  | .graceExpiry _ _ => none
  | .importCmd _ _ _ _ _ _ => none
  | .exportCmd _ _ _ _ _ _ => none
  | .submitDropped _ _ _ => none
  | .attestationReport _ _ _ => none
  | .invs1 _ _ _ _ _ => none
  | .invs1all _ _ _ => none
  | .invs2 _ _ _ _ => none
  | .invs2all _ _ => none
  | .suspend _ _ _ => none
  | .resume _ _ _ => none
  | .endCmd _ _ => none
  | .ckpt _ _ _ _ => none
  | .restore _ _ _ _ => none
  | .keyload _ _ _ => none
  | .keydestroy _ _ => none
  | .retire _ _ _ => none
  | .unknownCommand _ _ => none
  | .flashwrite => none
  | .flashcommit => none
  | .status => none
  | .restart => none
  | .packageStart _ => none
  | .bootWatchdog => none
  | .claimReservePush _ _ _ _ _ => none
  | .claimReservePop _ _ _ => none
  | .queueConsume _ _ => none
  | .rightsWrite _ _ _ => none
  | .placeTableWrite _ _ _ => none
  | .fixedWrite _ _ _ => none
  | .pmktctlWrite _ _ _ => none
  | .connectionTableWrite _ _ _ => none
  | .ckctlWrite _ _ _ => none
  | .migpolWrite _ _ _ => none
  | .vfportWrite _ _ _ => none
  | .podcfgWrite _ _ _ => none
  | .exportTableWrite _ _ _ => none
  | .registerWrite _ _ _ => none
  | .clockSwitchEnd _ _ => none
  | .dsbUnpinComplete _ => none
  | .podLinkUp _ => none
  | .authEntryDropped _ _ => none

/-- The words of an instruction: its body word and its literal word, if it has one. -/
def encode (i : Instr) : List Word :=
  match literalOf i with
  | some l => [encodeWord i, l]
  | none => [encodeWord i]

/-- The number of words of an instruction. -/
def wordsOf (i : Instr) : Nat := (encode i).length

/-- Whether a constructor is a body word of the opcode table, and not a step of the device. -/
def isWord : Instr → Bool
  | .sadd _ _ _ => true
  | .ssub _ _ _ => true
  | .smul _ _ _ => true
  | .smulh _ _ _ => true
  | .sdiv _ _ _ => true
  | .srem _ _ _ => true
  | .sand _ _ _ => true
  | .sor _ _ _ => true
  | .sxor _ _ _ => true
  | .sshl _ _ _ => true
  | .sshr _ _ _ => true
  | .ssar _ _ _ => true
  | .smin _ _ _ => true
  | .smax _ _ _ => true
  | .sminu _ _ _ => true
  | .smaxu _ _ _ => true
  | .sslt _ _ _ => true
  | .ssltu _ _ _ => true
  | .sseq _ _ _ => true
  | .ssel _ _ _ => true
  | .smov _ _ => true
  | .sli _ _ => true
  | .sclz _ _ => true
  | .spopc _ _ => true
  | .saddI _ _ _ => true
  | .ssubI _ _ _ => true
  | .smulI _ _ _ => true
  | .smulhI _ _ _ => true
  | .sdivI _ _ _ => true
  | .sremI _ _ _ => true
  | .sandI _ _ _ => true
  | .sorI _ _ _ => true
  | .sxorI _ _ _ => true
  | .sshlI _ _ _ => true
  | .sshrI _ _ _ => true
  | .ssarI _ _ _ => true
  | .sminI _ _ _ => true
  | .smaxI _ _ _ => true
  | .sminuI _ _ _ => true
  | .smaxuI _ _ _ => true
  | .ssltI _ _ _ => true
  | .ssltuI _ _ _ => true
  | .sseqI _ _ _ => true
  | .bra _ => true
  | .brs _ _ => true
  | .brp _ _ _ => true
  | .brl _ _ _ => true
  | .call _ _ => true
  | .ret _ => true
  | .jmpi _ => true
  | .exit => true
  | .yield => true
  | .nop _ => true
  | .waitf _ => true
  | .waitc _ _ => true
  | .trap _ => true
  | .brk _ => true
  | .tret => true
  | .svc _ _ _ => true
  | .setm _ => true
  | .setg _ _ => true
  | .sett _ => true
  | .setr _ _ _ => true
  | .setw _ => true
  | .setd _ => true
  | .setx _ _ => true
  | .srd _ _ => true
  | .swr _ _ => true
  | .bid _ _ _ => true
  | .vadd _ _ _ => true
  | .vsub _ _ _ => true
  | .vmul _ _ _ => true
  | .vmulh _ _ _ => true
  | .vmad _ _ _ => true
  | .vmsb _ _ _ => true
  | .vnmad _ _ _ => true
  | .vmin _ _ _ => true
  | .vmax _ _ _ => true
  | .vabs _ _ => true
  | .vneg _ _ => true
  | .vand _ _ _ => true
  | .vor _ _ _ => true
  | .vxor _ _ _ => true
  | .vnot _ _ => true
  | .vshl _ _ _ => true
  | .vshr _ _ _ => true
  | .vrol _ _ _ => true
  | .vclz _ _ => true
  | .vpopc _ _ => true
  | .vbrev _ _ => true
  | .vsel _ _ _ => true
  | .vceq _ _ _ _ => true
  | .vcne _ _ _ _ => true
  | .vclt _ _ _ _ => true
  | .vcle _ _ _ _ => true
  | .vcgt _ _ _ _ => true
  | .vcge _ _ _ _ => true
  | .vcun _ _ _ _ => true
  | .vaddI _ _ _ => true
  | .vsubI _ _ _ => true
  | .vmulI _ _ _ => true
  | .vmulhI _ _ _ => true
  | .vmadI _ _ _ => true
  | .vmsbI _ _ _ => true
  | .vnmadI _ _ _ => true
  | .vminI _ _ _ => true
  | .vmaxI _ _ _ => true
  | .vabsI _ _ => true
  | .vnegI _ _ => true
  | .vandI _ _ _ => true
  | .vorI _ _ _ => true
  | .vxorI _ _ _ => true
  | .vnotI _ _ => true
  | .vshlI _ _ _ => true
  | .vshrI _ _ _ => true
  | .vrolI _ _ _ => true
  | .vceqI _ _ _ _ => true
  | .vcneI _ _ _ _ => true
  | .vcltI _ _ _ _ => true
  | .vcleI _ _ _ _ => true
  | .vcgtI _ _ _ _ => true
  | .vcgeI _ _ _ _ => true
  | .vcvt _ _ _ _ => true
  | .vrnd _ _ => true
  | .vscl _ _ _ => true
  | .vrcp _ _ => true
  | .vrsq _ _ => true
  | .vsqrt _ _ => true
  | .vexp2 _ _ => true
  | .vlog2 _ _ => true
  | .vsin _ _ => true
  | .vcos _ _ => true
  | .vtanh _ _ => true
  | .vdiv _ _ _ => true
  | .pand _ _ _ => true
  | .por _ _ _ => true
  | .pxor _ _ _ => true
  | .pandn _ _ _ => true
  | .pnot _ _ => true
  | .pmov _ _ => true
  | .pset _ _ => true
  | .vote _ _ _ => true
  | .vbal _ _ => true
  | .vshf _ _ _ => true
  | .vrdc _ _ _ => true
  | .vscn _ _ _ _ => true
  | .rwalk _ _ _ => true
  | .rnext _ _ _ _ => true
  | .vsred _ _ _ _ => true
  | .vmov _ _ => true
  | .vmovx _ _ _ => true
  | .vmovxw _ _ _ => true
  | .vfree _ => true
  | .rdep _ _ _ => true
  | .waita _ => true
  | .tidset _ _ _ _ => true
  | .tidget _ _ _ _ => true
  | .tidcur _ _ _ => true
  | .tidinv _ => true
  | .wget _ => true
  | .mma _ _ _ _ _ _ => true
  | .mmaz _ _ _ _ _ _ => true
  | .mmaw _ _ _ _ _ _ => true
  | .accz _ _ => true
  | .accrd _ _ _ => true
  | .accwr _ _ _ => true
  | .accld _ _ _ => true
  | .accst _ _ => true
  | .accfree _ => true
  | .accstat _ _ => true
  | .vldB _ _ _ _ => true
  | .vldH _ _ _ _ => true
  | .vldW _ _ _ _ => true
  | .vldD _ _ _ _ => true
  | .vldQ _ _ _ _ => true
  | .vstB _ _ _ _ => true
  | .vstH _ _ _ _ => true
  | .vstW _ _ _ _ => true
  | .vstD _ _ _ _ => true
  | .vstQ _ _ _ _ => true
  | .sldB _ _ _ _ => true
  | .sldH _ _ _ _ => true
  | .sldW _ _ _ _ => true
  | .sldD _ _ _ _ => true
  | .sstB _ _ _ _ => true
  | .sstH _ _ _ _ => true
  | .sstW _ _ _ _ => true
  | .sstD _ _ _ _ => true
  | .spldB _ _ _ _ => true
  | .spldH _ _ _ _ => true
  | .spldW _ _ _ _ => true
  | .spldD _ _ _ _ => true
  | .spstB _ _ _ _ => true
  | .spstH _ _ _ _ => true
  | .spstW _ _ _ _ => true
  | .spstD _ _ _ _ => true
  | .vldb _ _ _ _ => true
  | .vstb _ _ _ _ => true
  | .spldb _ _ _ _ => true
  | .spstb _ _ _ _ => true
  | .rsld _ _ _ _ => true
  | .rsst _ _ _ _ => true
  | .pld _ _ _ => true
  | .pldc _ _ _ _ => true
  | .claim _ _ _ _ => true
  | .cwb _ _ _ => true
  | .cinv _ _ _ => true
  | .xq _ _ _ _ => true
  | .fence _ _ => true
  | .fencet => true
  | .vldaW _ _ _ _ => true
  | .vldaD _ _ _ _ => true
  | .vstrW _ _ _ _ => true
  | .vstrD _ _ _ _ => true
  | .acqp _ _ _ _ => true
  | .atom _ _ _ _ _ => true
  | .ared _ _ _ _ _ => true
  | .acas _ _ _ _ _ => true
  | .bari _ _ _ => true
  | .bara _ _ _ => true
  | .barw _ _ _ => true
  | .barx _ _ _ => true
  | .barj _ _ => true
  | .barl _ _ => true
  | .pqpush _ _ => true
  | .pqpop _ _ => true
  | .pqtry _ _ => true
  | .pqgive _ _ _ => true
  | .unassignedOpcode _ => false
  | .clauseChoice _ => false
  | .escalatedSquadResume _ _ => false
  | .loadReturn _ _ _ => false
  | .writePerformed _ _ => false
  | .eviction _ _ => false
  | .tableWalk _ => false
  | .faultRetry _ _ => false
  | .faultFail _ _ => false
  | .faultDeny _ _ => false
  | .faultTimeout _ _ => false
  | .zpSweep _ _ => false
  | .zpSweepEnd _ => false
  | .claimPageMove _ _ => false
  | .sectorJoin _ => false
  | .windowAccessAtTarget _ _ => false
  | .depositArrival _ _ => false
  | .atomicExecute _ _ => false
  | .ownershipRecall _ _ => false
  | .hostAtomicopCompletion _ _ _ _ => false
  | .podAccessRefused _ _ _ => false
  | .incomingPodAccess _ _ _ _ _ => false
  | .hostAccess _ _ _ => false
  | .copy _ => false
  | .stackLoad _ => false
  | .gather _ => false
  | .scatter _ => false
  | .collectiveRendezvous _ => false
  | .reduce _ => false
  | .allgather _ => false
  | .mmaComplete _ _ => false
  | .firstUseEvent _ => false
  | .ringStep _ => false
  | .captureRelease _ _ => false
  | .holdEnd _ _ => false
  | .captureExpiry _ _ => false
  | .starvation _ => false
  | .launch _ _ _ _ => false
  | .gangClaim _ _ => false
  | .gangAdmission _ _ => false
  | .coopAdmission _ => false
  | .wakeInterrupt _ _ _ => false
  | .svcTimeout _ _ => false
  | .serviceReply _ _ _ _ => false
  | .gangHalt _ _ => false
  | .releaseLogDrain _ _ => false
  | .imageCommit _ => false
  | .gangRestore _ => false
  | .promotionRequest _ _ => false
  | .eagerPromotion _ => false
  | .noResidentDrain _ _ => false
  | .routerArrival _ _ => false
  | .intervalStart => false
  | .dsbPin _ _ _ => false
  | .railClockLower _ _ => false
  | .hbmRetrainEnd _ => false
  | .bidClose => false
  | .clearingComplete => false
  | .leaseNotice => false
  | .indexRecordReceive _ _ _ => false
  | .thermalLimit _ => false
  | .powerInputFault => false
  | .uncorrectableError _ _ => false
  | .linkCrcFailure _ _ => false
  | .hbmLinkTagFailure _ _ _ _ => false
  | .hbmLinkRekey _ => false
  | .podLinkDown _ => false
  | .functionLevelReset _ => false
  | .scrubPage _ => false
  | .sessionCreate _ _ _ _ _ => false
  | .rekey _ _ => false
  | .heartbeat _ _ => false
  | .heartbeatTimeout _ _ => false
  | .graceExpiry _ _ => false
  | .importCmd _ _ _ _ _ _ => false
  | .exportCmd _ _ _ _ _ _ => false
  | .submitDropped _ _ _ => false
  | .attestationReport _ _ _ => false
  | .invs1 _ _ _ _ _ => false
  | .invs1all _ _ _ => false
  | .invs2 _ _ _ _ => false
  | .invs2all _ _ => false
  | .suspend _ _ _ => false
  | .resume _ _ _ => false
  | .endCmd _ _ => false
  | .ckpt _ _ _ _ => false
  | .restore _ _ _ _ => false
  | .keyload _ _ _ => false
  | .keydestroy _ _ => false
  | .retire _ _ _ => false
  | .unknownCommand _ _ => false
  | .flashwrite => false
  | .flashcommit => false
  | .status => false
  | .restart => false
  | .packageStart _ => false
  | .bootWatchdog => false
  | .claimReservePush _ _ _ _ _ => false
  | .claimReservePop _ _ _ => false
  | .queueConsume _ _ => false
  | .rightsWrite _ _ _ => false
  | .placeTableWrite _ _ _ => false
  | .fixedWrite _ _ _ => false
  | .pmktctlWrite _ _ _ => false
  | .connectionTableWrite _ _ _ => false
  | .ckctlWrite _ _ _ => false
  | .migpolWrite _ _ _ => false
  | .vfportWrite _ _ _ => false
  | .podcfgWrite _ _ _ => false
  | .exportTableWrite _ _ _ => false
  | .registerWrite _ _ _ => false
  | .clockSwitchEnd _ _ => false
  | .dsbUnpinComplete _ => false
  | .podLinkUp _ => false
  | .authEntryDropped _ _ => false

end Sys2Proof
end

