-- ==== Sys2Proof/Machine/Ops.lean ====
section
/-! DEFINITION. The named operations of an issuing word: the issuing squad and split, moving to the next word,
stalling, taking a trap and returning from one, tokens, flags and counters, renaming. -/

namespace Sys2Proof.Machine

/-! ## Units by key -/

/-- Replace a squad. -/
def State.setSquad (s : State) (k : Nat) (q : Squad) : State := { s with squads := s.squads.set k q }

/-- Change a squad, if it exists. -/
def State.onSquad (s : State) (k : Nat) (f : Squad → Squad) : State :=
  match s.squads.get? k with
  | some q => s.setSquad k (f q)
  | none => s

/-- A core; an unlisted one is at reset. -/
def State.core (s : State) (c : Nat) : Core := s.cores.getD c {}

/-- Replace a core. -/
def State.setCore (s : State) (c : Nat) (x : Core) : State := { s with cores := s.cores.set c x }

/-- A cluster; an unlisted one is at reset. -/
def State.cluster (s : State) (c : Nat) : Cluster := s.clusters.getD c {}

/-- Replace a cluster. -/
def State.setCluster (s : State) (c : Nat) (x : Cluster) : State := { s with clusters := s.clusters.set c x }

/-- A die; an unlisted one is at reset. -/
def State.die (s : State) (d : Nat) : Die := s.dies.getD d {}

/-- Replace a die. -/
def State.setDie (s : State) (d : Nat) (x : Die) : State := { s with dies := s.dies.set d x }

/-- A context; an unlisted one is as at creation. -/
def State.context (s : State) (c : Nat) : Context := s.contexts.getD c {}

/-- Replace a context. -/
def State.setContext (s : State) (c : Nat) (x : Context) : State := { s with contexts := s.contexts.set c x }

/-- Replace a team. -/
def State.setTeam (s : State) (t : Nat) (x : Team) : State := { s with teams := s.teams.set t x }

/-- Replace a gang. -/
def State.setGang (s : State) (g : Nat) (x : Gang) : State := { s with gangs := s.gangs.set g x }

/-- Replace a launch. -/
def State.setLaunch (s : State) (l : Nat) (x : Launch) : State := { s with launches := s.launches.set l x }

/-- The team of a squad. -/
def State.teamOf (s : State) (q : Squad) : Option Team := s.teams.get? q.team

/-- The gang of a squad. -/
def State.gangOf (s : State) (q : Squad) : Option Gang := (s.teamOf q).bind fun t => s.gangs.get? t.gang

/-- The launch of a squad. -/
def State.launchOf (s : State) (q : Squad) : Option Launch := (s.gangOf q).bind fun g => s.launches.get? g.launch

/-- The context of a squad. -/
def State.contextOf (s : State) (q : Squad) : Nat := ((s.launchOf q).map (·.context)).getD 0

/-- A squad's declared register count P (R196). -/
def State.regCount (s : State) (q : Squad) : Nat := ((s.launchOf q).map (·.regs)).getD 32

/-- A squad's declared tile count A (R196). -/
def State.accCount (s : State) (q : Squad) : Nat := ((s.launchOf q).map (·.accums)).getD 0

/-- `.scratch` of a squad's launch (R146). -/
def State.scratchSize (s : State) (q : Squad) : Nat := ((s.launchOf q).map (·.scratch)).getD 0

/-- A core's cluster. -/
def clusterOf (core : Nat) : Nat := core / 8

/-- A core's die. -/
def dieOf (core : Nat) : Nat := core / 160

/-! ## Splits -/

/-- The split with an id. -/
def Squad.split? (q : Squad) (id : Nat) : Option Split := q.splits.find? fun p => p.id == id

/-- Replace the split with its id. -/
def Squad.setSplit (q : Squad) (p : Split) : Squad :=
  { q with splits := q.splits.map fun x => if x.id == p.id then p else x }

/-- The header address of a clause position (R28). -/
def headerOf (pos : DWord) : Nat := (pos.toNat / 4 % 2 ^ 46) * 4

/-- The index of the body word of a clause position (R28). -/
def indexOf (pos : DWord) : Nat := bits pos 50 48

/-- The clause position of a header and an index (R28). -/
def position (header idx : Nat) : DWord :=
  BitVec.ofNat 64 (header % 2 ^ 48 / 4 * 4 + idx % 8 * 2 ^ 48)

/-- The number of body words of a split's clause; 8 while none has been fetched (R22). -/
def Split.length (p : Split) : Nat := (p.clause.map (·.words.length)).getD 8

/-- The position `n` words on, or the next clause's header when that passes the clause's last word (R28). -/
def Split.after (p : Split) (n : Nat) : DWord :=
  if indexOf p.pos + n < p.length then position (headerOf p.pos) (indexOf p.pos + n)
  else position (headerOf p.pos + 4 * (p.length + 1)) 0

/-- The next clause's header (R22). -/
def Split.nextClause (p : Split) : DWord := position (headerOf p.pos + 4 * (p.length + 1)) 0

/-- The clause's LFLAG or XFLAG as a flag number, 0xF naming none (R23). -/
def Split.flagOf (p : Split) (load : Bool) : Option Nat :=
  match p.clause with
  | none => none
  | some c =>
    let f := if load then (fld c.header 8 4).toNat else (fld c.header 4 4).toNat
    if f ≤ 11 then some f else none

/-- A split standing at a clause boundary at a position, with nothing of the clause begun. -/
def Split.atHeader (p : Split) (pos : DWord) : Split :=
  { p with pos, clause := none, begun := false, tokens := [], captured := false, wait := none, arrived := none,
           released := false, held := false, passed := false, walked := none, owed := none, supplied := false,
           awaiting := false }

/-! ## MODE and XP (R37, R39) -/

def Squad.gp (q : Squad) : Nat := (fld q.mode 0 3).toNat
def Squad.gn (q : Squad) : Bool := has q.mode 3
def Squad.et (q : Squad) : Nat := (fld q.mode 4 4).toNat
def Squad.rm (q : Squad) : Nat := (fld q.mode 8 4).toNat
def Squad.sat (q : Squad) : Bool := has q.mode 12
def Squad.ftz (q : Squad) : Bool := has q.mode 13
def Squad.segw (q : Squad) : Nat := (fld q.mode 14 3).toNat
def Squad.dscope (q : Squad) : Nat := (fld q.mode 17 3).toNat
def Squad.fpx (q : Squad) : Bool := has q.mode 20

/-- The segment width W (R37, R48). -/
def Squad.segWidth (q : Squad) : Nat := 32 / 2 ^ q.segw

/-- A legal MODE value (R38). -/
def modeLegal (m : BitVec 32) : Bool :=
  decide ((fld m 4 4).toNat ≠ 15) && decide ((fld m 8 4).toNat ≤ 5) && decide ((fld m 14 3).toNat ≤ 4) &&
  decide ((fld m 17 3).toNat ≠ 7) && decide ((fld m 21 11).toNat = 0)

/-- The scope an A.PAT field names; 7 takes MODE.DSCOPE (R35). -/
def Squad.scope (q : Squad) (s : BitVec 3) : Nat := if s = 7#3 then q.dscope else s.toNat

/-- XP with its reserved bits ignored (R39). -/
def xpWrite (v : Word) : Word := v &&& 0x7FFF7FFF#32

/-! ## Registers -/

/-- Read a scalar register; s0 reads 0 (R32). -/
def Squad.sreg (q : Squad) (n : Nat) : DWord := if n = 0 then 0 else at' q.sregs n 0

/-- Write a scalar register; a write to s0 is discarded (R32). -/
def Squad.setSreg (q : Squad) (n : Nat) (v : DWord) : Squad :=
  if n = 0 then q else { q with sregs := put q.sregs n v }

/-- Read a vector name; an unbound name reads 0 in every lane (R198). -/
def Squad.vreg (q : Squad) (n : Nat) : Lanes := ((at' q.vregs n none).map (·.lanes)).getD zeroLanes

/-- Read a predicate; p7 is true in every lane (R136). -/
def Squad.pred (q : Squad) (n : Nat) : Mask := if n < 7 then at' q.preds n 0 else 0xFFFFFFFF#32

/-- Write a predicate in some lanes (R121); p7 is not written. -/
def Squad.setPred (q : Squad) (n : Nat) (lanes : Mask) (v : Mask) : Squad :=
  { q with preds := put q.preds n ((v &&& lanes) ||| (q.pred n &&& ~~~lanes)) }

/-- The guard (R121). -/
def Squad.guard (q : Squad) : Mask := if q.gn then ~~~(q.pred q.gp) else q.pred q.gp

/-! ## Outstanding operations, flags and counters (R24, R60) -/

/-- The completion flags that are busy (R24). -/
def Squad.busy (q : Squad) : BitVec 12 :=
  q.ops.foldl (fun m o => match o.flag with
    | some f => if o.finished then m else m ||| BitVec.ofNat 12 (2 ^ f)
    | none => m) 0

/-- A path counter: 0 GL, 1 GS, 2 SP, 3 RM, 4 EQ (R60). -/
def Squad.path (q : Squad) (p : Nat) : Nat :=
  if p = 4 then (q.commands.toList.map List.length).sum + q.popped.length
  else (q.ops.filter fun o => o.path == some p).length

/-- The vector names that outstanding operations write (R26, R199). -/
def Squad.awaited (q : Squad) : Mask := q.ops.foldl (fun m o => if o.finished then m else m ||| o.writes) 0

/-- Whether an outstanding operation still reads a physical register (R199). -/
def Squad.isRead (q : Squad) (tok : Nat) : Bool := q.ops.any fun o => !o.finished && o.reads.contains tok

/-- Operations without those that are complete and not held back by an older one of their path (R60). -/
def settled : List Op → List Nat → List Op
  | [], _ => []
  | o :: os, blocked =>
    match o.path with
    | none => if o.finished then settled os blocked else o :: settled os blocked
    | some p =>
      if o.finished && !blocked.contains p then settled os blocked
      else o :: settled os (p :: blocked)

/-- Complete an operation: its flag clears, its counter falls once every older operation of its path is complete,
and registers that nothing reads any more return (R24, R60, R199). -/
def Squad.complete (q : Squad) (id : Nat) : Squad :=
  let ops := settled (q.ops.map fun o => if o.id == id then { o with finished := true } else o) []
  let q' := { q with ops }
  { q' with retired := q.retired.filter q'.isRead }

/-! ## Renaming (R198 to R202) -/

/-- The footprint: bound names and retired registers (R201). -/
def Squad.footprint (q : Squad) : Nat := (q.vregs.toList.filter Option.isSome).length + q.retired.length

/-- Whether writing a name takes a new physical register (R199). -/
def Squad.needsNew (q : Squad) (n : Nat) : Bool :=
  match at' q.vregs n none with
  | none => true
  | some b => q.isRead b.token

/-- The new physical registers that writing names takes (R199). -/
def Squad.newFor (q : Squad) (names : List Nat) : Nat := (names.filter q.needsNew).length

/-- Write a name in some lanes, binding or renaming it (R199). -/
def Squad.bindName (q : Squad) (tok n : Nat) (lanes : Mask) (f : Nat → Word) : Squad :=
  match at' q.vregs n none with
  | none => { q with vregs := put q.vregs n (some ⟨tok, lanesOf fun i => if has lanes i then f i else 0⟩) }
  | some b =>
    let v := lanesOf fun i => if has lanes i then f i else lane b.lanes i
    if q.isRead b.token then
      { q with vregs := put q.vregs n (some ⟨tok, v⟩), retired := q.retired ++ [b.token] }
    else { q with vregs := put q.vregs n (some ⟨b.token, v⟩) }

/-- Unbind a name; a register that an operation still reads is retired (R200). -/
def Squad.release (q : Squad) (n : Nat) : Squad :=
  match at' q.vregs n none with
  | none => q
  | some b =>
    if q.isRead b.token then { q with vregs := put q.vregs n none, retired := q.retired ++ [b.token] }
    else { q with vregs := put q.vregs n none }

/-- A squad's charge against its core's register file (R201). -/
def State.charge (s : State) (q : Squad) : Nat := max q.footprint (((s.launchOf q).map (·.floor)).getD 0)

/-- The squads on a core, with their keys: halted ones hold their registers until their image is written. -/
def State.squadsOn (s : State) (core : Nat) : List (Nat × Squad) := s.squads.filter fun e => e.2.core == core

/-- The registers of a core's pool (R201). -/
def State.pool (s : State) (core : Nat) : Nat := 2048 - ((s.squadsOn core).map fun e => s.charge e.2).sum

/-- Squad age: admission age, then SQID (R65). -/
def State.age (s : State) (q : Squad) : Nat := (((s.gangOf q).map (·.age)).getD 0) * 32 + q.sq

/-- The pool registers that `need` new ones would take above the floor (R202). -/
def State.excess (s : State) (q : Squad) (need : Nat) : Nat :=
  q.footprint + need - max q.footprint (((s.launchOf q).map (·.floor)).getD 0)

/-- What a split waits for, or has been told it may take (R202, R205). -/
def Split.wants (p : Split) : Option Wait := p.wait.or p.owed

/-- The pool registers that a squad's waiting words need together (R202). -/
def State.poolClaim (s : State) (q : Squad) : Nat :=
  s.excess q ((q.splits.map fun p => match p.wants with
    | some (.pool names) => q.newFor names
    | _ => 0).sum)

/-- Whether a squad can take `need` new registers now (R202): the pool supplies the excess after what the waiting words of the
core's older squads need. -/
def State.canTake (s : State) (q : Squad) (need : Nat) : Bool :=
  let x := s.excess q need
  let older := (s.squadsOn q.core).filter fun e => decide (s.age e.2 < s.age q) && !e.2.halted
  decide (x = 0) || decide (x + (older.map fun e => s.poolClaim e.2).sum ≤ s.pool q.core)

/-! ## Tokens (R256 to R265) -/

/-- The rail state in effect of a cluster's rail (R270, R271). -/
def State.railState (s : State) (cl : Nat) : Nat :=
  (at' (s.die (cl / 20)).rails ((s.die (cl / 20)).railOf.getD (cl % 20) 0) {}).effect

/-- The ring capacity of a rail state (R271). -/
def capacity : Nat → Nat
  | 0 => 4095 | 1 => 3200 | 2 => 2400 | _ => 1600

/-- The ring capacity in effect on a cluster. -/
def State.cap (s : State) (cl : Nat) : Nat := capacity (s.railState cl)

/-- The price of a class, the same in every rail state (R257). -/
def classPrice : Nat → Nat
  | 1 => 24 | 2 => 27 | 3 => 30 | 4 => 4 | 5 => 2 | 6 => 4 | 7 => 6 | 8 => 8 | _ => 0

/-- HOLD of a class in cycles (R257). -/
def classHold : Nat → Nat
  | 4 => 4 | 5 => 4 | 6 => 16 | _ => 0

/-- Tokens returned by a stop enter the ring just past the position five on (R256); while the capacity falls they
are withdrawn instead (R272). -/
def Cluster.giveBack (x : Cluster) (stop n : Nat) : Cluster :=
  let w := min x.withdraw n
  { x with withdraw := x.withdraw - w, free := put x.free ((stop + 5) % 10) (at' x.free ((stop + 5) % 10) 0 + (n - w)) }

/-- Return tokens at a core's stop. -/
def State.giveTokens (s : State) (core n : Nat) : State :=
  if n = 0 then s
  else s.setCluster (clusterOf core) ((s.cluster (clusterOf core)).giveBack (core % 8) n)

/-- Tokens captured for a clause and not yet used. -/
def Split.tokenSum (p : Split) : Nat := (p.tokens.map (·.2)).sum

/-- The requests of a split leave the queue of its stop, and what they captured returns (R265, R269). -/
def State.dropRequests (s : State) (core k sp : Nat) : State :=
  let x := s.cluster (clusterOf core)
  let mine := (at' x.queues (core % 8) []).filter fun r => r.split == some (k, sp)
  match mine with
  | [] => s
  | _ =>
    let rest := (at' x.queues (core % 8) []).filter fun r => r.split != some (k, sp)
    let x := { x with queues := put x.queues (core % 8) rest
                      serving := if x.serving == some (core % 8) &&
                                    (((at' x.queues (core % 8) []).head?.bind (·.split)) == some (k, sp))
                                 then none else x.serving }
    (s.setCluster (clusterOf core) x).giveTokens core ((mine.map (·.captured)).sum)

/-- The requests of a squad's resumed matrix records leave the queue of its stop, and what they captured returns (R269). -/
def State.dropRecords (s : State) (core k : Nat) : State :=
  let x := s.cluster (clusterOf core)
  let l := at' x.queues (core % 8) []
  let of := fun (r : Request) => (r.record.map (·.1)) == some k
  match l.filter of with
  | [] => s
  | mine =>
    let x := { x with
      queues := put x.queues (core % 8) (l.filter fun r => !of r)
      serving := if x.serving == some (core % 8) && (l.head?.map of).getD false then none else x.serving }
    (s.setCluster (clusterOf core) x).giveTokens core ((mine.map (·.captured)).sum)

/-- The price class of an F64 or special-function word (R257, R119). -/
def vectorClass (i : Instr) (et : Nat) : Nat :=
  match i with
  | .vadd .. | .vsub .. | .vmul .. | .vmad .. | .vmsb .. | .vnmad ..
  | .vaddI .. | .vsubI .. | .vmulI .. | .vmadI .. | .vmsbI .. | .vnmadI .. => if et = 11 then 4 else 0
  | .vrcp .. | .vrsq .. | .vsqrt .. | .vdiv .. =>
    if et = 8 ∨ et = 9 ∨ et = 10 then 5 else if et = 11 then 6 else 0
  | .vexp2 .. | .vlog2 .. | .vsin .. | .vcos .. | .vtanh .. => if et = 8 ∨ et = 9 ∨ et = 10 then 5 else 0
  | _ => 0

/-- The format code of a descriptor (R216). -/
def Descriptor.fmtCode (d : Descriptor) : Nat := (d.extractLsb' 44 5).toNat

/-- The price class of a format pair, by its B and A codes; 0 where R231 admits no such pair. -/
def pairClass (a b : Nat) : Nat :=
  if (a = 2 ∧ b = 2) ∨ (a = 1 ∧ b = 1) then 1
  else if (a = 3 ∨ a = 4) ∧ (b = 3 ∨ b = 4) then 2
  else if (a = 5 ∨ a = 6) ∧ (b = 5 ∨ b = 6) then 2
  else if (a = 9 ∨ a = 10) ∧ (b = 9 ∨ b = 10) then 2
  else if (a = 7 ∧ b = 7) ∨ (a = 8 ∧ b = 8) ∨ (a = 11 ∧ b = 11) then 3
  else 0

/-- The format code of a squad's tensor entry. -/
def State.entryFmt (s : State) (q : Squad) (t : Nat) : Nat :=
  ((s.teamOf q).map fun x => Descriptor.fmtCode (at' x.tensors t 0)).getD 31

/-- The price class of a matrix word's pair; in the register form A takes B's format (R237). -/
def State.matrixClass (s : State) (q : Squad) (a : Nat) (inRegs : Bool) (b : Nat) : Nat :=
  let fb := s.entryFmt q b
  if inRegs then (if fb = 5 ∨ fb = 6 ∨ fb = 7 ∨ fb = 8 then 0 else pairClass fb fb)
  else pairClass (s.entryFmt q a) fb

/-- Tokens that a word costs with MODE and the tensor entries as they stand (R257, R260). -/
def State.price (s : State) (q : Squad) (i : Instr) : Nat :=
  match i with
  | .mma _ _ _ t r b => classPrice (s.matrixClass q t.toNat (r == 1#1) b.toNat)
  | .mmaz _ _ _ t r b => classPrice (s.matrixClass q t.toNat (r == 1#1) b.toNat)
  | .mmaw _ _ _ t r b => 2 * classPrice (s.matrixClass q t.toNat (r == 1#1) b.toNat)
  | _ => classPrice (vectorClass i q.et)

/-! ## The turn of a quarter (R65) -/

/-- End the turn of a quarter: charge the words issued to the class, and move on (R65). -/
def Quarter.endTurn (x : Quarter) (cls : Nat) : Quarter :=
  let d := at' x.dc cls 0 - Int.ofNat x.words
  { x with dc := put x.dc cls d, ptr := if d ≤ 0 then (cls + 1) % 4 else x.ptr, chosen := none, words := 0 }

/-- Change one quarter of a core. -/
def State.onQuarter (s : State) (core quarter : Nat) (f : Quarter → Quarter) : State :=
  let c := s.core core
  s.setCore core { c with quarters := put c.quarters quarter (f (at' c.quarters quarter {})) }

/-- The quarters that hold a squad, ascending and possibly repeated. -/
def State.activeQuarters (s : State) : List Nat := s.squads.map fun e => 4 * e.2.core + e.2.quarter

/-- The next quarter in turn: the lowest active one above `turn`, or the lowest. -/
def State.nextTurn (s : State) : Nat :=
  let above := s.activeQuarters.filter fun x => decide (s.turn < x)
  let low := fun l : List Nat => l.foldl (fun acc x => match acc with
    | none => some x
    | some y => some (min x y)) (none : Option Nat)
  match low above with
  | some x => x
  | none => (low s.activeQuarters).getD 0

/-- End the turn of the quarter that issues a squad. -/
def State.endTurn (s : State) (q : Squad) : State :=
  let cls := ((s.launchOf q).map (·.cls)).getD 0
  let s := s.onQuarter q.core q.quarter fun x => x.endTurn cls
  { s with turn := s.nextTurn }

/-! ## What a word does -/

/-- Why a word does not take effect. -/
inductive Stop where
  /-- It stalls at its word (R63). -/
  | wait (w : Wait)
  /-- It traps (R43). -/
  | trap (c : Cause) (v : DWord)
  deriving DecidableEq, Repr

/-- Whether a word stops with a trap. -/
def Stop.isTrap : Stop → Bool
  | .wait _ => false
  | .trap _ _ => true

/-- Where the split goes after a word that takes effect. -/
inductive Move where
  /-- To the next word. -/
  | next
  /-- To the next word, and the turn ends (R87). -/
  | yields
  /-- The word has placed the split. -/
  | placed
  /-- The word has ended its turn and then placed the split, or ended it. -/
  | ended
  /-- To the next word, where a trap is taken: TRAP (R92). -/
  | traps (c : Cause) (v : DWord)
  deriving DecidableEq, Repr

/-- What a word does when it issues: it stops, or it takes effect and the split moves. A stop may carry a state that
differs from the one before: a walk asked for, a queue joined, a trap's sticky flags. -/
inductive Result where
  | stops (w : Stop) (s : State)
  | takes (m : Move) (s : State)

/-- The squad and the split that issue. -/
structure Issuer where
  key : Nat
  squad : Squad
  split : Split

/-- The issuing squad and split, if they exist. -/
def State.issuer (s : State) : Option Issuer :=
  match s.squads.get? s.cur.squad with
  | none => none
  | some q =>
    match q.split? s.cur.split with
    | none => none
    | some p => some ⟨s.cur.squad, q, p⟩

/-- Change one split of one squad. -/
def State.onSplit (s : State) (k sp : Nat) (f : Split → Split) : State :=
  s.onSquad k fun q => { q with splits := q.splits.map fun x => if x.id == sp then f x else x }

/-- A clause with YLD makes its squad the youngest of its class for the choice that follows the clause (R65). -/
def State.yieldAfter (s : State) (u : Issuer) : State :=
  if (u.split.clause.map fun c => has c.header 3).getD false then
    s.onQuarter u.squad.core u.squad.quarter fun x => { x with youngest := some u.key }
  else s

/-- A clause ends: the split stands at a position, unused tokens return, and YLD acts (R65, R264). -/
def State.endClause (s : State) (u : Issuer) (pos : DWord) : State :=
  ((s.onSplit u.key u.split.id fun x => x.atHeader pos).giveTokens u.squad.core u.split.tokenSum).yieldAfter u

/-- Count the words a split has issued in its quarter's turn (R65). -/
def State.countWords (s : State) (u : Issuer) (n : Nat) : State :=
  s.onQuarter u.squad.core u.squad.quarter fun x => { x with words := x.words + n }

/-- The split moves on by the words of the instruction; at its clause's end the turn ends (R26, R28, R65). -/
def State.moveOn (s : State) (u : Issuer) (n : Nat) : State :=
  let s := s.countWords u n
  if indexOf u.split.pos + n < u.split.length then
    s.onSplit u.key u.split.id fun x =>
      { x with pos := u.split.after n, wait := none, arrived := none, released := false, begun := true, walked := none,
               owed := none }
  else (s.endClause u (u.split.after n)).endTurn u.squad

/-! ## Traps (R95 to R98) -/

/-- The cause codes (R43). -/
def Cause.code : Cause → Nat
  | .illop => 0x01 | .illhdr => 0x02 | .converge => 0x03 | .regname => 0x04 | .regidx => 0x05 | .accname => 0x06
  | .tidbad => 0x07 | .align => 0x08 | .xlate => 0x09 | .access => 0x0A | .gangtkt => 0x0B | .unaff => 0x0C
  | .diverge => 0x0D | .qfault => 0x0E | .engine => 0x0F | .soft => 0x10 | .brk => 0x11 | .fpe => 0x12
  | .mchk => 0x13 | .pqfault => 0x14 | .barfault => 0x15 | .place => 0x16

/-- TCAUSE as it reads (R94). -/
def Squad.tcauseWord (q : Squad) : DWord :=
  BitVec.ofNat 64 (q.tcause.toNat + if q.active then 2 ^ 63 else 0)

/-- The identity registers SQID, TEAMID, GANGID, LAUNCHID, NSQ (R49). -/
def State.identity (s : State) (q : Squad) : List DWord :=
  [BitVec.ofNat 64 q.sq,
   BitVec.ofNat 64 (((s.teamOf q).map (·.index)).getD 0),
   BitVec.ofNat 64 (((s.gangOf q).map (·.index)).getD 0),
   BitVec.ofNat 64 (((s.launchOf q).map (·.id)).getD 0),
   BitVec.ofNat 64 (((s.launchOf q).map (·.squads)).getD 1)]

/-- Escalate a trap: the squad stops, keeps everything, and a record goes to level 2 with the interface's vector (R98, R376; the
record leaves the package as one message, log 105). -/
def State.escalate (s : State) (k sp : Nat) (c : Cause) (v pos : DWord) : State :=
  match s.squads.get? k with
  | none => s
  | some q =>
    let ctx := s.contextOf q
    let msg := Message.trap ctx c v pos (s.identity q) [q.tvec, q.tpc, q.tcauseWord, q.tval, q.tmask]
    { s.setSquad k { q with escalation := some ⟨sp, c, v, pos⟩ } with
      out := s.out ++ [msg, .interrupt (2 + contextVf ctx) (1 + contextIface ctx)] }

/-- Trap entry (R95): with a handler and outside one, the trap registers are set and the split goes to TVEC with its
mask and place; otherwise the trap escalates. The clause's unused tokens return (R265). -/
def State.takeTrap (s : State) (k sp : Nat) (c : Cause) (v pos : DWord) : State :=
  match s.squads.get? k with
  | none => s
  | some q =>
    match q.split? sp with
    | none => s
    | some p =>
      let s := (s.dropRequests q.core k sp).giveTokens q.core p.tokenSum
      if q.active ∨ headerOf q.tvec = 0 then
        (s.onSplit k sp fun x => x.atHeader pos).escalate k sp c v pos
      else
        s.setSquad k { q.setSplit (p.atHeader (position (headerOf q.tvec) 0)) with
          active := true
          tcause := BitVec.ofNat 6 c.code
          tval := v
          tpc := pos
          tmask := p.mask ++ p.mask
          handler := some sp }

/-- Remove a split. When it was the one served last, the order goes on from its follower, so that a bench entry that fills its
slot comes after every other split (R57, R67). -/
def Squad.dropSplit (q : Squad) (sp : Nat) : Squad :=
  if q.lastServed == some sp then
    { q with
      splits := ((q.splits.dropWhile fun x => x.id != sp).drop 1) ++ q.splits.takeWhile fun x => x.id != sp
      lastServed := none }
  else { q with splits := q.splits.filter fun x => x.id != sp }

/-- The lowest free split slot. -/
def Squad.freeSlot (q : Squad) : Nat :=
  ((List.range 4).find? fun n => q.splits.all fun x => x.id != n).getD 4

/-- Bench entries become splits in order while split slots are free (R57). Each stands last in the round of R67: the model's
choice (log 116). -/
def Squad.fillSlots (q : Squad) : Squad :=
  let n := min (4 - q.splits.length) q.bench.length
  (q.bench.take n).foldl (fun q b =>
    { q with splits := q.splits ++ [{ id := q.freeSlot, pos := b.pos, mask := b.mask }], bench := q.bench.drop 1 }) q

/-- Whether a squad has ended (R55). -/
def Squad.ended (q : Squad) : Bool := q.splits.isEmpty && q.bench.isEmpty

/-! ## Issue -/

/-- The tokens that a word of the split still lacks at its issue (R265). -/
def Split.heldFor (p : Split) (idx : Nat) : Nat := ((p.tokens.filter fun t => t.1 == idx).map (·.2)).sum

/-- A top-up request of a split at its core's stop (R265), unless one waits already. -/
def State.topUp (s : State) (u : Issuer) (idx n : Nat) : State :=
  let cl := clusterOf u.squad.core
  let x := s.cluster cl
  let stop := u.squad.core % 8
  if (at' x.queues stop []).any fun r => r.split == some (u.key, u.split.id) then s
  else
    let r : Request := { split := some (u.key, u.split.id), prices := [(idx, n)] }
    s.setCluster cl { x with queues := put x.queues stop (at' x.queues stop [] ++ [r]) }

/-- A priced word that has taken effect holds its price until its window ends; what was captured above it returns
(R264, R265). -/
def State.holdTokens (s : State) (u : Issuer) (idx price : Nat) (op : Option Nat) : State :=
  if price = 0 ∧ u.split.heldFor idx = 0 then s
  else
    let have_ := u.split.heldFor idx
    let cl := clusterOf u.squad.core
    let x := s.cluster cl
    let s := if price = 0 then s else
      { s.setCluster cl { x with holds := x.holds.set s.nextId ⟨u.squad.core % 8, price, u.key, op⟩ } with
        nextId := s.nextId + 1 }
    (s.giveTokens u.squad.core (have_ - price)).onSplit u.key u.split.id fun p =>
      { p with tokens := p.tokens.filter fun t => t.1 != idx }

/-- The performance counters of a core, by kind: waits for operands (R26, R199), stalls at a full path counter (R61), scratchpad
cycles beyond the first (R156), load-store cycles beyond the first (R191), deposits discarded (R211), stalls for a stage
(R232), waits for a capture or a top-up (R265), stalls for order (R283), and stalls for an occupied pipe (R120), which take no step
where words take no time (log 86). -/
def perfOperand : Nat := 0
def perfCounter : Nat := 1
def perfScratch : Nat := 2
def perfLines : Nat := 3
def perfDeposit : Nat := 4
def perfStage : Nat := 5
def perfTokens : Nat := 6
def perfOrder : Nat := 7
def perfPipe : Nat := 8

/-- Add to a performance counter of a core. -/
def State.tally (s : State) (core kind n : Nat) : State :=
  if n = 0 then s
  else
    let c := s.core core
    s.setCore core { c with perf := c.perf.set kind (c.perf.getD kind 0 + n) }

/-- The performance counter that a wait at a word goes to, where the spec counts it. -/
def Wait.perf : Wait → Option Nat
  | .names _ => some perfOperand
  | .full _ => some perfCounter
  | .stage _ => some perfStage
  | .topUp => some perfTokens
  | .releaseLog => some perfOrder
  | .memory => some perfOrder
  | .flags _ | .counter .. | .pool _ | .tile _ | .tileWords _ | .firstUse | .walk _ | .faultBuffer | .record ..
  | .command _ | .tensor _ | .arrival _ | .allowance _ | .handle _ | .barrier .. | .svc | .parked => none

/-- Count a wait at a word. -/
def State.tallyWait (s : State) (core : Nat) (w : Wait) : State :=
  match w.perf with
  | some kind => s.tally core kind 1
  | none => s

/-- A split stalls at its word: it is not ready until the wait ends, and its turn ends (R63, R65). -/
def State.stall (s : State) (u : Issuer) (w : Wait) : State :=
  ((s.onSplit u.key u.split.id fun p => { p with wait := some w, owed := none }).tallyWait u.squad.core w).endTurn u.squad

/-- A word traps at its own position; the turn ends (R28, R95). -/
def State.trapAt (s : State) (u : Issuer) (c : Cause) (v : DWord) : State :=
  (s.takeTrap u.key u.split.id c v u.split.pos).endTurn u.squad

/-- The state after a word, from what the word does. -/
def State.conclude (u : Issuer) (n : Nat) : Result → State
  | .stops (.wait w) s => s.stall u w
  | .stops (.trap c v) s => s.trapAt u c v
  | .takes .next s => s.moveOn u n
  | .takes .yields s =>
    let s := s.moveOn u n
    let s := if indexOf u.split.pos + n < u.split.length then s.endTurn u.squad else s
    s.onQuarter u.squad.core u.squad.quarter fun x => { x with youngest := some u.key }
  | .takes .placed s =>
    (s.countWords u n).endTurn u.squad
  | .takes .ended s => s.yieldAfter u
  | .takes (.traps c v) s =>
    let s := s.countWords u n
    let s := (s.takeTrap u.key u.split.id c v (u.split.after n)).endTurn u.squad
    if indexOf u.split.pos + n < u.split.length then s else s.yieldAfter u

/-- Whether a word stops with a trap that its operands decide: any but FPE, which it raises as it executes (R124, R413). -/
def Result.refuses : Result → Bool
  | .stops (.trap c _) _ => c != .fpe
  | _ => false

/-- Issue a priced word: the traps of the word itself first (R413), then UNAFF above the ring capacity, a top-up while tokens are
lacking, else the word (R265). -/
def State.issuePriced (s : State) (u : Issuer) (i : Instr) (f : Issuer → Result) : State :=
  let idx := indexOf u.split.pos
  let price := s.price u.squad i
  if (f u).refuses then State.conclude u (wordsOf i) (f u)
  else if s.cap (clusterOf u.squad.core) < price then s.trapAt u .unaff (BitVec.ofNat 64 price)
  else if u.split.heldFor idx < price then
    (s.topUp u idx (price - u.split.heldFor idx)).stall u .topUp
  else
    match f u with
    | .takes m t => State.conclude { u with split := { u.split with tokens := u.split.tokens.filter fun x => x.1 != idx } }
        (wordsOf i) (.takes m (t.holdTokens u idx price (some s.nextId)))
    | r => State.conclude u (wordsOf i) r

/-- Issue a word: an illegal encoding raises ILLOP with the word itself (R41, R42); a legal one acts, and its split
moves, stalls or traps. Without an issuing split nothing happens. -/
def issue (i : Instr) (s : State) (f : Issuer → Result) : Host.Outcome State Fault Refusal :=
  match s.issuer with
  | none => .next s
  | some u =>
    if i.wf then
      if s.price u.squad i = 0 ∧ u.split.heldFor (indexOf u.split.pos) = 0 then
        .next (State.conclude u (wordsOf i) (f u))
      else .next (s.issuePriced u i f)
    else .next (s.trapAt u .illop ((encodeWord i).setWidth 64))

/-- The ILLOP that a word raises with its own bits as TVAL (R43). -/
def illop (i : Instr) (s : State) : Result := .stops (.trap .illop ((encodeWord i).setWidth 64)) s

end Sys2Proof.Machine
end

