-- ==== Sys2Proof/Machine/Operands.lean ====
section
/-! DEFINITION. Every operand form: scalar slots with queue ports, literals and immediates, vector source slots with
their crossbar patterns, element packing, and the gate and commit that every word writing vector names shares. -/

namespace Sys2Proof.Machine

/-! ## Scalar slots and queue ports (R32, R80, R219, R222) -/

/-- A record read by the `k`-th pop of a port in one word (R80, R222): the value, or why the word does not go on. -/
def Squad.record (q : Squad) (port k : Nat) : Except Stop DWord :=
  match (at' q.commands port []).drop k with
  | [] => .error (.trap .qfault (BitVec.ofNat 64 (port + 4 * 256)))
  | c :: _ => match c.record with
    | some r => .ok r
    | none => .error (.wait (.record port (k + 1)))

/-- Read a scalar slot by number, after the ports already popped by the word; 28 to 30 pop a port (R32). -/
def Squad.readSlot (q : Squad) (n : Nat) (pops : List Nat) : Except Stop (DWord × List Nat) :=
  if n < 28 then .ok (q.sreg n, pops)
  else do
    let r ← q.record (n - 28) (pops.count (n - 28))
    pure (r, pops ++ [n - 28])

/-- Read slot B of a scalar word: register, port or literal (R32, R33). -/
def Squad.readB (q : Squad) (b : SSrc) (pops : List Nat) : Except Stop (DWord × List Nat) :=
  match b with
  | .reg r => q.readSlot r.toNat pops
  | .lit w => .ok (w.signExtend 64, pops)
  | .bad _ => .ok (0, pops)

/-- Pop the head of a port; it counts on EQ until every older command has been popped (R60, R80). -/
def Squad.pop (q : Squad) (port : Nat) : Squad :=
  match at' q.commands port [] with
  | [] => q
  | c :: rest =>
    let commands := put q.commands port rest
    let left := commands.toList.flatten.map (·.seq)
    { q with commands, popped := (q.popped ++ [c.seq]).filter fun n => left.any fun m => decide (m < n) }

/-- Pop the heads of ports: the word takes effect (R80). -/
def Squad.popAll (q : Squad) (ports : List Nat) : Squad := ports.foldl Squad.pop q

/-- The last place in the push order that a squad's commands hold. -/
def Squad.lastSeq (q : Squad) : Nat := (q.commands.toList.flatten.map (·.seq) ++ q.popped).foldl max 0

/-- The place of a squad's next command in its team's push order (R60, R220). -/
def State.nextSeq (s : State) (q : Squad) : Nat :=
  ((s.squads.filter fun e => e.2.team == q.team).map fun e => e.2.lastSeq).foldl max q.lastSeq + 1

/-- The position, the body word and the literal word, or 0, of the issuing split. -/
def State.issuing (s : State) : DWord × Word × Word :=
  match s.issuer with
  | some u =>
    let at_ := fun (n : Nat) => (u.split.clause.map fun c => c.words.getD (indexOf u.split.pos + n) 0).getD 0
    (u.split.pos, at_ 0, if literalTaking (at_ 0) then at_ 1 else 0)
  | none => (0, 0, 0)

/-- The command word's count: every command is two words (R220). -/
def commandCount (port code : Nat) : Option Nat :=
  if (port = 0 ∧ (code = 0x01 ∨ code = 0x02)) ∨ (port = 1 ∧ (code = 0x10 ∨ code = 0x11)) ∨
     (port = 2 ∧ (code = 0x20 ∨ code = 0x21)) then some 2 else none

/-- The bits of a first word that a command leaves reserved (R219, R220). -/
def commandReserved (code : Nat) : DWord :=
  let common : DWord := 0x0000E0E000FE0000#64
  if code = 0x01 ∨ code = 0x02 then common ||| 0xFFFF000000000000#64
  else if code = 0x10 ∨ code = 0x11 then common ||| 0xFFE0000000000000#64
  else if code = 0x20 then common ||| 0x00F0000000000000#64
  else common ||| 0x00FC000000000000#64

/-- The QFAULT reason of a first word, if any (R221). -/
def pushReason (port : Nat) (coop : Bool) (v : DWord) : Option Nat :=
  let code := bits v 7 0
  match commandCount port code with
  | none => some 1
  | some n =>
    if bits v 11 8 ≠ n then some 2
    else if v &&& commandReserved code ≠ 0 then some 3
    else if code = 0x20 ∧ bits v 51 50 = 3 then some 5
    else if (code = 0x20 ∨ code = 0x21) ∧ bits v 49 48 ≠ 0 ∧ !coop then some 5
    else none

/-- The tensor names of a command (R220). -/
def commandNames (v : DWord) : List Nat :=
  [bits v 36 32, bits v 44 40] ++
    (if bits v 7 0 = 0x10 ∨ bits v 7 0 = 0x11 then [bits v 52 48] else [])

/-- The tensor names with an outstanding TIDSET of the squad (R218). -/
def Squad.tensorBusy (q : Squad) (t : Nat) : Bool :=
  q.ops.any fun o => !o.finished && match o.kind with
    | .tidset n => n.toNat == t
    | _ => false

/-- A squad's tensor entry (R215). -/
def State.tensor (s : State) (q : Squad) (t : Nat) : Descriptor :=
  ((s.teamOf q).map fun x => at' x.tensors t 0).getD 0

/-- Write a word to a queue port (R219): the squad with the word in the port's buffer or with the command pushed; the word that would
raise EQ above 63 stalls (R61). -/
def State.pushPort (s : State) (q : Squad) (port : Nat) (v : DWord) : Except Stop Squad :=
  match at' q.assembly port [] with
  | [] =>
    match pushReason port (((s.launchOf q).map (·.coop)).getD false) v with
    | some r => .error (.trap .qfault (BitVec.ofNat 64 (port + r * 256)))
    | none =>
      if 16 ≤ (at' q.commands port []).length then .error (.wait (.command port))
      else
        let scope := if bits v 16 14 = 7 then q.dscope else bits v 16 14
        .ok { q with assembly := put q.assembly port [withBits v 16 14 scope] }
  | w :: ws =>
    if ws.length + 2 < bits w 11 8 then .ok { q with assembly := put q.assembly port (w :: ws ++ [v]) }
    else
      match (commandNames w).find? q.tensorBusy with
      | some t => .error (.wait (.tensor t))
      | none =>
        if 63 ≤ q.path 4 then .error (.wait (.full 4)) else
        let c : Command := {
          words := w :: ws ++ [v]
          dst := s.tensor q (bits w 36 32)
          src := s.tensor q (bits w 44 40)
          idx := s.tensor q (bits w 52 48)
          scope := bits w 16 14
          seq := s.nextSeq q
          pos := s.issuing.1
          word := s.issuing.2.1
          lit := s.issuing.2.2
          gen := q.gen }
        .ok { q with assembly := put q.assembly port [], commands := put q.commands port (at' q.commands port [] ++ [c]) }

/-- Write a scalar destination: a register, or a port (R32). -/
def State.writeSlot (s : State) (q : Squad) (d : Nat) (v : DWord) : Except Stop Squad :=
  if d < 28 then .ok (q.setSreg d v) else s.pushPort q (d - 28) v

/-- A word that reads slots A and B and writes a scalar destination (R77, R80). -/
def scalarWord (u : Issuer) (s : State) (d a : BitVec 5) (b : SSrc) (f : DWord → DWord → DWord) : Result :=
  let r : Except Stop Squad := do
    let (x, pops) ← u.squad.readSlot a.toNat []
    let (y, pops) ← u.squad.readB b pops
    s.writeSlot (u.squad.popAll pops) d.toNat (f x y)
  match r with
  | .ok q => .takes .next (s.setSquad u.key q)
  | .error e => .stops e s

/-- The immediate form (R33, R77). -/
def scalarImm (u : Issuer) (s : State) (d a : BitVec 5) (i : BitVec 9) (f : DWord → DWord → DWord) : Result :=
  scalarWord u s d a (.lit (i.signExtend 32)) f

/-! ## Vector source slots (R31, R33, R34) -/

/-- The source lane that lane `i` reads under a pattern (R34). -/
def Squad.patLane (q : Squad) (slotB : Bool) (p : Pat) (i : Nat) : Nat :=
  let o := if slotB then 16 else 0
  let rot := (fld q.xp o 5).toNat
  let ln := (fld q.xp (o + 5) 5).toNat
  let xm := (fld q.xp (o + 10) 5).toNat
  let w := q.segWidth
  let base := i - i % w
  match p with
  | .ident => i
  | .rot => (i + rot) % 32
  | .rots => base + (i - base + rot) % w
  | .bc => ln
  | .bcs => base + ln % w
  | .bf => (BitVec.ofNat 5 i ^^^ (BitVec.ofNat 5 xm &&& BitVec.ofNat 5 (w - 1))).toNat
  | .mir => base + (w - 1 - (i - base))

/-- What a slot delivers to each lane: the lane's word, and the odd register's word of a pair. -/
structure Src where
  lo : Nat → Word
  hi : Nat → Word

/-- The 64-bit value of a literal of a wide element type (R33). -/
def wideLiteral (et : Nat) (w : Word) : DWord :=
  if et = 6 then w.signExtend 64 else if et = 7 then w.setWidth 64 else BitVec.ofNat 64 (widenLiteral w)

/-- The value of a 64-bit source in every lane: its low word, and its high word for the odd register (R31). -/
def Src.splat (v : DWord) : Src := ⟨fun _ => v.setWidth 32, fun _ => (v >>> 32).setWidth 32⟩

/-- A vector source slot read by a word of element type `et` (R31, R33, R34). -/
def Squad.src (q : Squad) (et : Nat) (slotB : Bool) (v : VSrc) : Src :=
  match v with
  | .vec r _ p =>
    let x := q.vreg r.toNat
    let y := q.vreg (r.toNat + 1)
    ⟨fun i => lane x (q.patLane slotB p i), fun i => lane y (q.patLane slotB p i)⟩
  | .sca r => Src.splat (q.sreg r.toNat)
  | .lit w => if isWide et then Src.splat (wideLiteral et w) else ⟨fun _ => w, fun _ => 0⟩
  | .bad _ => ⟨fun _ => 0, fun _ => 0⟩

end Sys2Proof.Machine

namespace Sys2Proof

/-- The vector names a slot reads; a pair for a wide type (R197). -/
def VSrc.names (v : VSrc) (wide : Bool) : List Nat :=
  match v with
  | .vec r _ _ => if wide then [r.toNat, r.toNat + 1] else [r.toNat]
  | _ => []

/-- The vector names a slot releases (R200). -/
def VSrc.released (v : VSrc) (wide : Bool) : List Nat :=
  match v with
  | .vec _ true _ => v.names wide
  | _ => []

/-- An odd register name where a pair is required (R42, R122). -/
def VSrc.odd (v : VSrc) (wide : Bool) : Bool :=
  match v with
  | .vec r _ _ => wide && decide (r.toNat % 2 = 1)
  | _ => false

end Sys2Proof

namespace Sys2Proof.Machine

/-! ## Elements of a lane (R100) -/

/-- Elements per lane of a type. -/
def perLane (et : Nat) : Nat := if isWide et then 1 else 32 / elemWidth et

/-- Element `j` of a lane. -/
def elemAt (et : Nat) (lo hi : Word) (j : Nat) : Nat :=
  if isWide et then lo.toNat + hi.toNat * 2 ^ 32 else lo.toNat / 2 ^ (elemWidth et * j) % 2 ^ elemWidth et

/-- The lane of elements: the word, and the odd register's word of a pair. -/
def packLane (et : Nat) (f : Nat → Nat) : Word × Word :=
  if isWide et then (BitVec.ofNat 32 (f 0), BitVec.ofNat 32 (f 0 / 2 ^ 32))
  else (BitVec.ofNat 32 (((List.range (perLane et)).map fun j => f j % 2 ^ elemWidth et * 2 ^ (elemWidth et * j)).sum), 0)

/-- IMM9 as an element pattern (R33). -/
def immPat (et : Nat) (i : BitVec 9) : Nat :=
  match floatFmt et with
  | none => intPat (elemWidth et) i.toInt
  | some f => f.ofInt i.toInt

/-- IMM9 as a source of a vector word (R33). -/
def immSrc (et : Nat) (i : BitVec 9) : Src :=
  let z := packLane et fun _ => immPat et i
  ⟨fun _ => z.1, fun _ => z.2⟩

/-! ## Words that name vector registers -/

/-- The mask of names. -/
def nameMask (l : List Nat) : Mask := maskOf fun i => l.contains i

/-- The least of some names that are at or above the declared count (R197). -/
def badName (p : Nat) (l : List Nat) : Option Nat :=
  (l.filter fun n => decide (p ≤ n)).foldl (fun acc n => match acc with
    | none => some n
    | some m => some (min m n)) none

/-- REGNAME for the lowest name at or above P (R197, R413), then the wait for outstanding values (R26, R199). -/
def State.nameGate (s : State) (q : Squad) (names : List Nat) : Option Stop :=
  match badName (s.regCount q) names with
  | some n => some (.trap .regname (BitVec.ofNat 64 n))
  | none =>
    let m := q.awaited &&& nameMask names
    if m ≠ 0 then some (.wait (.names m)) else none

/-- The wait for new physical registers of the names a word writes (R202), judged before the word's own releases: the model's choice
(log 119). -/
def State.poolGate (s : State) (q : Squad) (dests : List Nat) : Option Stop :=
  let need := q.newFor dests
  if need = 0 ∨ s.canTake q need then none else some (.wait (.pool dests))

/-- The gate of a word that reads and writes vector names: names, values outstanding, registers. -/
def State.vectorGate (s : State) (q : Squad) (names dests : List Nat) : Option Stop :=
  match s.nameGate q (names ++ dests) with
  | some e => some e
  | none => s.poolGate q dests

/-- Release the last-read names that the word does not write, then bind and write its destinations (R199, R200). -/
def Squad.commit (q : Squad) (tok : Nat) (rels : List Nat) (dests : List (Nat × (Nat → Word))) (lanes : Mask) : Squad :=
  let q := (rels.filter fun n => dests.all fun d => d.1 != n).foldl Squad.release q
  (dests.zipIdx).foldl (fun q d => q.bindName (tok + d.2) d.1.1 lanes d.1.2) q

/-- What a vector word computes in one lane, with the exceptions it signals. -/
structure LaneOut where
  lo : Word
  hi : Word := 0
  flags : Flags := 0

/-- The exceptions signalled in some lanes (R121, R123). -/
def laneFlags (lanes : Mask) (f : Nat → LaneOut) : Flags :=
  (lanesIn lanes).foldl (fun acc i => acc ||| (f i).flags) 0

/-- What a lane word leaves: FPE, which writes FSTAT alone (R124), or the destination's lanes, the sticky flags and
the stochastic state (R110, R121, R123). `advance` says whether the word rounds. -/
def State.laneWord (s : State) (u : Issuer) (names rels : List Nat) (d : Nat) (wide advance : Bool) (lanes : Mask)
    (f : Nat → LaneOut) : Result :=
  let q := u.squad
  let dests := if wide then [d, d + 1] else [d]
  match s.vectorGate q names dests with
  | some e => .stops e s
  | none =>
    let fl := laneFlags lanes f
    let q1 := { q with fstat := q.fstat ||| fl }
    if q.fpx ∧ has fl 0 then .stops (.trap .fpe (q1.fstat.setWidth 64)) (s.setSquad u.key q1)
    else
      let q2 := if advance ∧ q.rm = 5 then { q1 with rng := rngNext q1.rng } else q1
      let w := if wide then [(d, fun i => (f i).lo), (d + 1, fun i => (f i).hi)] else [(d, fun i => (f i).lo)]
      .takes .next { s.setSquad u.key (q2.commit s.nextId rels w lanes) with nextId := s.nextId + 2 }

/-- The active lanes whose guard passes (R121). -/
def Issuer.lanes (u : Issuer) : Mask := u.split.mask &&& u.squad.guard

end Sys2Proof.Machine
end

