-- ==== Sys2Proof/Machine/Home.lean ====
section
/-! DEFINITION. What stands at the homes of lines: HBM under its keys, banks and host memory (R169, R380), and the stage-2 tables that
lie there (R171, R172, R349). -/

namespace Sys2Proof.Machine

/-! ## Home memory (R169, R380) -/

/-- HBM addresses (R169). -/
def isHbm (pa : Nat) : Bool := decide (pa < 0x00C000000000)

/-- Host-memory addresses, behind either port (R169). -/
def isHost (pa : Nat) : Bool := decide (0x100000000000 ≤ pa) && decide (pa < 0x300000000000)

/-- The die of an HBM address (R169). -/
def dieOfPa (pa : Nat) : Nat := pa / 0x1800000000

/-- The stack of an HBM address: 48 GiB each (R169). -/
def stackOfPa (pa : Nat) : Nat := pa / 0xC00000000

/-- What stands for the keys of a slot (R381); 0 while it holds none. -/
def State.slotKey (s : State) (slot : Nat) : Nat := s.keys.getD slot 0

/-- The keys a burst was last written under, by a write or by a sweep, or `k` for a burst never written (R183, R380). -/
def State.writtenUnder (s : State) (pa k : Nat) : Nat :=
  match s.burstKey.get? (pa / 64) with
  | some w => w
  | none => match s.fabric.swept.find? fun r => decide (r.1 ≤ pa / 64 * 64) && decide (pa / 64 * 64 < r.1 + r.2.1) with
    | some r => r.2.2
    | none => k

/-- One byte of HBM or of host memory read under a key slot (R380). -/
def State.hbmByte (s : State) (slot pa : Nat) : Byte :=
  if isHbm pa then
    let k := s.slotKey slot
    let w := s.writtenUnder pa k
    if w = k then readByte s.mem pa
    else Config.xtsOther w k (pa / 64) (readBytes s.mem (pa / 64 * 64) 64) (pa % 64)
  else readByte s.mem pa

/-- One byte of home memory read under a key slot: a dirty byte of a bank, which no key covers, or what memory holds (R320,
R380). -/
def State.homeByte (s : State) (slot pa : Nat) : Byte :=
  match s.fabric.bankData.get? pa with
  | some b => b
  | none => s.hbmByte slot pa

/-- `n` bytes of home memory. -/
def State.homeBytes (s : State) (slot pa n : Nat) : List Byte := (List.range n).map fun i => s.homeByte slot (pa + i)

/-- A 64-bit word of home memory. -/
def State.homeWord (s : State) (slot pa : Nat) : Nat := leNat (s.homeBytes slot pa 8)

/-- The key slot that the stage-2 leaf at an address names now (R171, R380); the tables lie under slot 0 (log 22). -/
def State.leafSlot (s : State) (leaf : Nat) : Nat := s.homeWord 0 leaf / 2 ^ 46 % 64

/-! ## Table entries (R171 to R173) -/

/-- Page size of a leaf of a level and SPAN; none where reserved (R172). -/
def leafSize (level span : Nat) : Option Nat :=
  if level = 3 ∧ span ≤ 4 then some (2 ^ 12 * 4 ^ span)
  else if level = 2 ∧ span ≤ 3 then some (2 ^ 21 * 4 ^ span)
  else if level = 1 ∧ span ≤ 2 then some (2 ^ 30 * 4 ^ span)
  else none

/-- The size code of a page size (R172). -/
def sizeCode (size : Nat) : Nat :=
  if size < 2 ^ 21 then (Nat.log2 size - 12) / 2
  else if size < 2 ^ 30 then 5 + (Nat.log2 size - 21) / 2
  else 9 + (Nat.log2 size - 30) / 2

/-- The FRAME field of an entry as an address. -/
def frameOf (e : Nat) : Nat := e / 2 ^ 12 % 2 ^ 34 * 2 ^ 12

/-- The table index of a level (R171). -/
def tableIndex (level inp : Nat) : Nat := inp / 2 ^ (39 - 9 * level) % 512

/-- What an entry at a level is: a pointer, a leaf of a size, or a cause (R173); 1 NOTVALID, 3 MALFORMED. -/
inductive Entry where
  | pointer (table : Nat)
  | leaf (size : Nat)
  | bad (cause : Nat)
  deriving DecidableEq, Repr

/-- Whether a page lies in a reserved device-physical range (R169). -/
def reservedPa (pa size : Nat) : Bool :=
  (decide (0x00C000000000 < pa + size) && decide (pa < 0x100000000000)) || decide (0x300000000000 < pa + size)

/-- Classify an entry (R171 to R173). -/
def entryOf (stage2 : Bool) (level e : Nat) : Entry :=
  if e.testBit 0 = false then .bad 1
  else if e.testBit 1 = false ∧ e.testBit 2 = false ∧ e.testBit 3 = false then
    if level = 3 ∨ e.testBit 11 ∨ e / 16 % 8 ≠ 0 ∨ e.testBit 63 then .bad 3 else .pointer (frameOf e)
  else
    match leafSize level (e / 16 % 8) with
    | none => .bad 3
    | some size =>
      if (e.testBit 2 && !e.testBit 1) || e.testBit 63 || e.testBit 11 || decide (frameOf e % size ≠ 0) ||
         (!stage2 && decide (e / 2 ^ 46 % 64 ≠ 0)) || (stage2 && (e.testBit 10 || reservedPa (frameOf e) size))
      then .bad 3 else .leaf size

/-- The key slot of a stage-2 leaf (R171). -/
def keySlot (e : Nat) : Nat := e / 2 ^ 46 % 64

/-! ## The leaves of a partition (R349) -/

/-- The stage-2 leaves below a table: address of the entry, size and partition-physical address. -/
def State.leavesFrom (s : State) : Nat → Nat → Nat → Nat → List (Nat × Nat × Nat)
  | 0, _, _, _ => []
  | fuel + 1, level, table, base =>
    ((List.range 512).map fun i =>
      let a := table + 8 * i
      let e := s.homeWord 0 a
      let ppa := base + i * 2 ^ (39 - 9 * level)
      match entryOf true level e with
      | .bad _ => []
      | .pointer t => s.leavesFrom fuel (level + 1) t ppa
      | .leaf size => [(a, size, ppa)]).flatten

/-- The stage-2 leaves of a partition. -/
def State.leaves2 (s : State) (vf : Nat) : List (Nat × Nat × Nat) :=
  let root := s.reg (partBase vf + 0x508)
  if has root 0 then s.leavesFrom 4 0 (bits root 45 12 * 2 ^ 12) 0 else []

/-- The pages of HBM that a partition's stage 2 maps, lowest first, each by its leaf or the first entry of its group (R172, R349). -/
def State.hbmLeaves (s : State) (vf : Nat) : List (Nat × Nat × Nat) :=
  (s.leaves2 vf).filter fun x => isHbm (frameOf (s.homeWord 0 x.1)) && decide (x.2.2 % x.2.1 = 0)

/-- The stage-2 leaf of a partition that maps a device-physical address, and where it lies (R379, R380). -/
def State.leafIn (s : State) (vf addr : Nat) : Option Nat :=
  ((s.leaves2 vf).find? fun x =>
    let f := frameOf (s.homeWord 0 x.1)
    decide (f ≤ addr) && decide (addr < f + x.2.1)).map (·.1)

/-- The first partition's leaf that maps a device-physical address. -/
def State.leafOver (s : State) (addr : Nat) : Option Nat := (List.range 32).findSome? fun v => s.leafIn v addr

end Sys2Proof.Machine
end

