-- ==== Sys2Proof/Machine/Memory.lean ====
section
/-! DEFINITION. Memory behind the translations: HBM under its keys and host memory, the banks and the home slices of a die
with what they charge (R315 to R330), the L1 of each core, visibility by scope (R274 to R292), zero on first touch (R183),
and the release log (R286 to R290). Every access is performed at one moment, against one memory; a narrow write stands
dirty in one L1 until it is written home. -/

namespace Sys2Proof.Machine

/-- The 64 KiB granules of a partition's physical space that a range of device-physical bytes lies in, through its stage 2 (R347). -/
def State.granulesOver (s : State) (vf pa n : Nat) : List Nat :=
  (s.hbmLeaves vf).flatMap fun x =>
    let f := frameOf (s.homeWord 0 x.1)
    let first := max f pa
    let last := min (f + x.2.1) (pa + n)
    if first < last then
      let g := (x.2.2 + (first - f)) / 65536
      (List.range ((x.2.2 + (last - 1 - f)) / 65536 - g + 1)).map (g + ·)
    else []

/-- The granules that a write touches, in the dirty map of each partition that tracks (R347). -/
def State.markDirty (s : State) (pa n : Nat) : State :=
  if s.parts.all fun p => !has (s.reg (partBase p.1 + 0x500)) 0 then s
  else
    { s with parts := s.parts.map fun p =>
        if has (s.reg (partBase p.1 + 0x500)) 0 then
          (p.1, { p.2 with dirty := p.2.dirty ++ (distinct (s.granulesOver p.1 pa n)).filter fun x => !p.2.dirty.contains x })
        else p }

/-- Write one byte into HBM or host memory under a key slot; the rest of a burst that stands under other keys takes the new
ones (R380). -/
def State.hbmPut (s : State) (slot pa : Nat) (b : Byte) : State :=
  if isHbm pa then
    let k := s.slotKey slot
    let w := s.writtenUnder pa k
    let base := pa / 64 * 64
    let mem := if w = k then s.mem else writeBytes s.mem base ((List.range 64).map fun i => s.hbmByte slot (base + i))
    { s with mem := writeByte mem pa b, burstKey := s.burstKey.set (pa / 64) k }
  else { s with mem := writeByte s.mem pa b }

/-- The slot of the banks that holds a line (R320). -/
def State.bankOf (s : State) (line : Nat) : Option (Nat × BankLine) := s.fabric.banks.find? fun e => e.2.line == line

/-- Whether a byte's home is a bank's line (R320). -/
def State.banked (s : State) (pa : Nat) : Bool := (s.bankOf (pa / 128)).isSome || (s.fabric.bankData.get? pa).isSome

/-- Write one byte home under a key slot: into the bank that holds its line, or into memory (R320). -/
def State.homePut (s : State) (slot pa : Nat) (b : Byte) : State :=
  if s.banked pa then { s with fabric := { s.fabric with bankData := s.fabric.bankData.set pa b } }
  else s.hbmPut slot pa b

/-- Bytes written home from an address up. -/
def State.homePuts : State → Nat → Nat → List Byte → State
  | s, _, _, [] => s
  | s, slot, pa, b :: bs => State.homePuts (s.homePut slot pa b) slot (pa + 1) bs

/-- The lines that a range of addresses touches. -/
def linesOf (pa n : Nat) : List Nat := (List.range ((pa + n - 1) / 128 - pa / 128 + 1)).map (pa / 128 + ·)

/-- Valid L2 lines of a range become dirty (R315). -/
def State.dirtyLines (s : State) (pa n : Nat) : State :=
  if s.fabric.l2.isEmpty then s
  else
    let hit := fun (line : Nat) => decide (pa / 128 ≤ line) && decide (line ≤ (pa + n - 1) / 128)
    let mark := fun (e : Nat × L2Line) => if hit e.1 then (e.1, { e.2 with dirty := true }) else e
    { s with fabric := { s.fabric with l2 := s.fabric.l2.map mark } }

/-- Bytes written home, with the L2's copies and the dirty map (R315, R347). -/
def State.homeWrite (s : State) (slot pa : Nat) (bs : List Byte) : State :=
  ((s.homePuts slot pa bs).dirtyLines pa bs.length).markDirty pa bs.length

/-! ## What a request costs its context (R323 to R330) -/

/-- The key of a usage counter (R330, R352, R369): the context, the die and the counter's offset / 8. -/
def usageKey (ctx die n : Nat) : Nat := (8 * ctx + die) * 32 + n

/-- A usage counter. -/
def State.usage (s : State) (ctx die n : Nat) : DWord := s.fabric.usage.getD (usageKey ctx die n) 0

/-- Add to a usage counter; what no context does is counted nowhere (R330). -/
def State.use (s : State) (ctx : Option Nat) (die n x : Nat) : State :=
  match ctx with
  | none => s
  | some c =>
    if x = 0 then s
    else { s with fabric := { s.fabric with
      usage := s.fabric.usage.set (usageKey c die n) (s.usage c die n + BitVec.ofNat 64 x) } }

/-- HBMCTL of a stack (R273, R399): stacks 2d and 2d + 1 belong to die d. -/
def hbmCtl (stack : Nat) : Nat := dieBase (stack / 2) + 0x10 + 8 * (stack % 2)

/-- Ten times the rate of a frequency state in Gb/s per pin (R273). -/
def hbmRate (state : Nat) : Nat := [120, 96, 72, 48].getD state 48

/-- The ticks that one HBS unit gives on a die (R323), at the slower state of the die's two stacks (log 88). -/
def State.unitBudget (s : State) (die : Nat) : Nat :=
  let state := fun (stack : Nat) => bits (s.reg (hbmCtl stack)) 3 2
  s.market.length * 1000 * hbmRate (max (state (2 * die)) (state (2 * die + 1))) / 80

/-- A context's budget on a die: its units pooled (R323). -/
def State.budget (s : State) (ctx die : Nat) : Nat := s.unitsHeld ctx 3 die * s.unitBudget die

/-- Ticks that a context has been charged on a die in the interval (R324). -/
def State.charges (s : State) (ctx die : Nat) : Nat := s.fabric.charged.getD (8 * ctx + die) 0

/-- Whether a context's requests on a die are in budget (R325). -/
def State.inBudget (s : State) (ctx die : Nat) : Bool := decide (s.charges ctx die < s.budget ctx die)

/-- The channel of a row of 2 KiB (R14); rows follow each other over a stack's channels (log 88). -/
def channelOf (row : Nat) : Nat := stackOfPa (row * 2048) * 32 + row % 32

/-- A write of an uncorrectable HBM line mends it; a context's read of one raises a machine check (R411). -/
def State.checkLines (s : State) (ctx : Option Nat) (pa n : Nat) (write : Bool) : State :=
  let hit := fun (l : Nat) => decide (pa / 128 ≤ l) && decide (l ≤ (pa + n - 1) / 128)
  if s.fabric.bad.isEmpty then s
  else if write then { s with fabric := { s.fabric with bad := s.fabric.bad.filter fun l => !hit l } }
  else
    match ctx, s.fabric.bad.find? hit with
    | some c, some l => { s with fabric := { s.fabric with checks := s.fabric.checks ++ [(c, 128 * l)] } }
    | _, _ => s

/-- Ticks of a request for `n` bytes (R324): its bursts, the rows it must open, and the turnarounds. -/
def State.requestTicks (s : State) (pa n : Nat) (write : Bool) : Nat :=
  let first := pa / 2048
  let count := (pa + n - 1) / 2048 - first + 1
  let row := fun (r : Nat) => s.fabric.rows.get? (channelOf r)
  let open_ := ((List.range (min count 32)).filter fun i => (row (first + i)).map (·.1) == some (first + i)).length
  let turns := ((List.range (min count 32)).filter fun i => (row (first + i)).map (·.2) == some !write).length
  ((pa + n - 1) / 64 - pa / 64 + 1) + 6 * (count - open_) + 4 * turns

/-- The rows that a request leaves open on their channels (R324). -/
def State.openRows (s : State) (pa n : Nat) (write : Bool) : State :=
  let last := (pa + n - 1) / 2048
  let rows := (List.range (min (last - pa / 2048 + 1) 32)).foldl (fun t i => t.set (channelOf (last - i)) (last - i, write)) s.fabric.rows
  { s with fabric := { s.fabric with rows } }

/-- Ticks on a die are charged to a context, in budget or over it, and nothing to no context (R324, R325). -/
def State.chargeTicks (s : State) (ctx : Option Nat) (die ticks : Nat) : State :=
  match ctx with
  | none => s
  | some c =>
    let s := s.use ctx die (if s.inBudget c die then 6 else 7) ticks
    { s with fabric := { s.fabric with charged := s.fabric.charged.set (8 * c + die) (s.charges c die + ticks) } }

/-- The flits of a request cross the link of their stack, each under the next nonce (R382). -/
def State.passLink (s : State) (pa n : Nat) : State :=
  let k := stackOfPa pa
  { s with fabric := { s.fabric with nonces := s.fabric.nonces.set k (s.fabric.nonces.getD k 0 + ((pa + n - 1) / 64 - pa / 64 + 1)) } }

/-- A request of the memory controllers for `n` bytes (R324, R382, R411). -/
def State.chargeHbm (s : State) (ctx : Option Nat) (pa n : Nat) (write : Bool) : State :=
  (((s.openRows pa n write).checkLines ctx pa n write).passLink pa n).chargeTicks ctx (dieOfPa pa) (s.requestTicks pa n write)

/-- An entry of the connection table that carries a context's flits from one die to another: both lanes are still leased by
the context (R327 to R329). -/
def State.carries (s : State) (ctx a b : Nat) (e : DWord) : Bool :=
  let joins := fun (x lx y ly : Nat) => x == a && y == b && s.leaseOf 4 (x * 128 + lx) == some ctx && s.leaseOf 4 (y * 128 + ly) == some ctx
  has e 63 && !has e 62 && bits e 35 31 == contextVf ctx && bits e 55 36 == contextIface ctx &&
    (joins (bits e 2 0) (bits e 13 7) (bits e 16 14) (bits e 23 17) || joins (bits e 16 14) (bits e 23 17) (bits e 2 0) (bits e 13 7))

/-- Whether a context has a circuit between two dies (R328). -/
def State.circuitOpen (s : State) (ctx a b : Nat) : Bool :=
  s.regs.any fun e => decide (packageBase + 0x2000 ≤ e.1) && decide (e.1 < packageBase + 0x4000) && s.carries ctx a b e.2

/-- Payload bytes go from one die to another (R328): over the context's circuits, or over the base lanes. What the device itself
reads and writes goes from no die (log 40). -/
def State.carry (s : State) (ctx : Option Nat) (a b n : Nat) : State :=
  match ctx with
  | none => s
  | some c => if a = b ∨ 8 ≤ a ∨ 8 ≤ b then s else s.use ctx a (if s.circuitOpen c a b then 9 else 10) n

/-- Whether a context has a circuit from a die to an off-package lane (R327). -/
def State.circuitOut (s : State) (ctx die : Nat) : Bool :=
  s.regs.any fun e => decide (packageBase + 0x2000 ≤ e.1) && decide (e.1 < packageBase + 0x4000) && has e.2 63 && has e.2 62 &&
    bits e.2 35 31 == contextVf ctx && bits e.2 55 36 == contextIface ctx && bits e.2 2 0 == die &&
    s.leaseOf 4 (die * 128 + bits e.2 13 7) == some ctx

/-- Payload bytes leave the package from a die: over the context's circuit to an off-package lane, which LNKLEASE counts, or over the
off-package lanes that no one leases (R327, R330). -/
def State.carryOut (s : State) (ctx die n : Nat) : State := if s.circuitOut ctx die then s.use (some ctx) die 9 n else s

/-- Cross-die writes that a die has applied from another (R282). -/
def State.applied (s : State) (die source : Nat) : Nat := s.fabric.applied.getD (8 * die + source) 0

/-- A write from one die is applied at another, which counts it (R282). Every write that precedes it has been applied at its home
when it is performed, so that it never waits (log 89). -/
def State.applyWrite (s : State) (source die : Nat) : State :=
  if source = die ∨ 8 ≤ source then s
  else { s with fabric := { s.fabric with applied := s.fabric.applied.set (8 * die + source) (s.applied die source + 1) } }

/-! ## Home slices (R315 to R317) -/

/-- The home slice of a line: PA[11:7] XOR PA[16:12] (R315). -/
def sliceOf (line : Nat) : Nat := (line % 32) ^^^ (line / 32 % 32)

/-- The set of a line within its home slice, of 1,536 (log 87). -/
def l2Set (line : Nat) : Nat := line / 32 % 1536

/-- Whether two lines stand in one set of one home slice (R315). -/
def sameSet (a b : Nat) : Bool :=
  dieOfPa (128 * a) == dieOfPa (128 * b) && sliceOf a == sliceOf b && l2Set a == l2Set b

/-- The context that leases an L2 way of a die (R316). -/
def State.wayHolder (s : State) (die way : Nat) : Option Nat := s.leaseOf 2 (die * 16 + way)

/-- The ways in which a context may allocate on a die: those in service that it leases, and the open ones (R21, R316). -/
def State.candidateWays (s : State) (ctx die : Nat) : List Nat :=
  (List.range 16).filter fun w => !s.retired.contains (unitKey 2 (die * 16 + w)) && match s.wayHolder die w with
    | none => true
    | some c => c == ctx

/-- The lines of a context in a way that it leases, whenever they were allocated, fall with that lease (R317). -/
def State.leaseLines (s : State) : State :=
  { s with fabric := { s.fabric with l2 := s.fabric.l2.map fun (e : Nat × L2Line) =>
      (e.1, if s.wayHolder (dieOfPa (128 * e.1)) e.2.way == some e.2.context then { e.2 with leased := true } else e.2) } }

/-- A line that stands in a way whose lease by the line's context has ended, or in a way out of service (R21, R317). -/
def State.staleLine (s : State) (line : Nat) (l : L2Line) : Bool :=
  let die := dieOfPa (128 * line)
  (l.leased && s.wayHolder die l.way != some l.context) || s.retired.contains (unitKey 2 (die * 16 + l.way))

/-- The way that a context's new line takes: a free candidate; else the way of a line whose lease of it has ended, and else the
lowest candidate (R316, R317; log 87). -/
def State.victimWay (s : State) (ctx line : Nat) : Option Nat :=
  let die := dieOfPa (128 * line)
  let here := s.fabric.l2.filter fun e => sameSet e.1 line
  let ways := s.candidateWays ctx die
  match ways.find? fun w => here.all fun e => e.2.way != w with
  | some w => some w
  | none =>
    match here.find? fun e => ways.contains e.2.way && s.staleLine e.1 e.2 with
    | some e => some e.2.way
    | none => ways.head?

/-- A dirty L2 line is written back, charged to the context that allocated it (R316, R324). -/
def State.backL2 (s : State) (line : Nat) (l : L2Line) : State :=
  if l.dirty then s.chargeHbm (some l.context) (128 * line) 128 true else s

/-- An L2 line is written back if it is dirty, and stays. -/
def State.cleanL2 (s : State) (line : Nat) : State :=
  match s.fabric.l2.get? line with
  | none => s
  | some l =>
    let s := s.backL2 line l
    { s with fabric := { s.fabric with l2 := s.fabric.l2.set line { l with dirty := false } } }

/-- An L2 line is written back if it is dirty, and dropped. -/
def State.dropL2 (s : State) (line : Nat) : State :=
  match s.fabric.l2.get? line with
  | none => s
  | some l =>
    let s := s.backL2 line l
    { s with fabric := { s.fabric with l2 := s.fabric.l2.erase line } }

/-- The sweep of the ways whose lease has ended: the old holder's lines are written back and invalidated (R317). -/
def State.sweepWays (s : State) : State :=
  ((s.fabric.l2.filter fun e => s.staleLine e.1 e.2).map (·.1)).foldl State.dropL2 s

/-- A line that is not written whole is read from HBM for its context (R324). -/
def State.readL2 (s : State) (ctx line : Nat) (whole : Bool) : State :=
  if whole then s else s.chargeHbm (some ctx) (128 * line) 128 false

/-- A line is allocated in an L2 for a context (R316, R330), read from HBM unless the whole line is written. -/
def State.allocL2 (s : State) (ctx line way : Nat) (dirty whole : Bool) : State :=
  let die := dieOfPa (128 * line)
  let old := (s.fabric.l2.filter fun e => sameSet e.1 line && e.2.way == way).map (·.1)
  let s := ((old.foldl State.dropL2 s).readL2 ctx line whole).use (some ctx) die 4 1
  let x : L2Line := { context := ctx, way, leased := s.wayHolder die way == some ctx, dirty }
  { s with fabric := { s.fabric with l2 := s.fabric.l2.set line x } }

/-- A request at a line's home slice (R315, R316): a valid line is hit; a context's miss allocates, or passes through to HBM
where it finds no way. -/
def State.atSlice (s : State) (ctx : Option Nat) (line pa n : Nat) (write : Bool) : State :=
  match s.fabric.l2.get? line with
  | some l => if write then { s with fabric := { s.fabric with l2 := s.fabric.l2.set line { l with dirty := true } } } else s
  | none =>
    match ctx.bind fun c => (s.victimWay c line).map fun w => (c, w) with
    | some (c, w) => s.allocL2 c line w write (write && n == 128)
    | none => s.chargeHbm ctx pa n write

/-! ## Banks (R318 to R322) -/

/-- The pin of the region that an access lies in, whose bank is the home of its lines; a host-memory page has none (R320,
R321). -/
def State.pinOf (s : State) (x : Xlate) : Option Pin :=
  if isHbm x.pa then
    s.fabric.pins.find? fun p => some p.context == x.context && p.region == x.va / 2 ^ 21 * 2 ^ 21 && p.home && !p.leaving
  else none

/-- The slot of a bank for a virtual address. -/
def Pin.slot (p : Pin) (va : Nat) : Nat := p.bank * 16384 + va % 2 ^ 21 / 128

/-- Where an access of a pinned region is performed: at the line that the bank recorded, whatever its translation gives now
(R320, R321; log 90). -/
def State.homed (s : State) (x : Xlate) : Xlate :=
  match s.pinOf x with
  | none => x
  | some p =>
    match s.fabric.banks.get? (p.slot x.va) with
    | none => x
    | some b => { x with pa := b.line * 128 + x.pa % 128 }

/-- The die of a line's home: that of the bank which holds it, else that of its memory (R315, R320). -/
def State.lineDie (s : State) (line : Nat) : Nat :=
  match s.bankOf line with
  | some b => b.1 / 16384 / 64
  | none => dieOfPa (128 * line)

/-- The bytes of a request go over the lanes to a home, or back from it (R282, R328). -/
def State.travel (s : State) (ctx : Option Nat) (source home n : Nat) (write : Bool) : State :=
  if write then (s.carry ctx source home n).applyWrite source home else s.carry ctx home source n

/-- A request for some bytes of a line reaches the line's home from a die: over the lanes, and into a home slice unless a bank
holds the line (R315, R320). -/
def State.visit (s : State) (ctx : Option Nat) (source pa n : Nat) (write : Bool) : State :=
  let line := pa / 128
  if isHbm pa = false then s
  else if (s.bankOf line).isSome then s.travel ctx source (s.lineDie line) n write
  else (s.travel ctx source (s.lineDie line) n write).atSlice ctx line pa n write

/-- A miss in a bank fills the line from the address that the translation gives, and the bank records it (R320). -/
def State.fillBank (s : State) (p : Pin) (va line leaf : Nat) : State :=
  let slot := p.slot va
  if (s.fabric.banks.get? slot).isSome || (s.bankOf line).isSome then s
  else
    let s := ((s.dropL2 line).chargeHbm (some p.context) (128 * line) 128 false).use (some p.context) (p.bank / 64) 1 128
    let s := s.carry (some p.context) (dieOfPa (128 * line)) (p.bank / 64) 128
    { s with fabric := { s.fabric with banks := s.fabric.banks.set slot { line, context := p.context, leaf } } }

/-- An access to a line of a pinned region finds it in its bank (R320). -/
def State.fillPinned (s : State) (x : Xlate) (va line : Nat) : State :=
  match s.pinOf x with
  | some p => s.fillBank p va line x.leaf
  | none => s

/-- An access of `n` bytes reaches the homes of its lines from a die (R315, R320). -/
def State.reach (s : State) (source : Nat) (x : Xlate) (n : Nat) (write : Bool) : State :=
  (linesOf x.pa n).foldl (fun s line =>
    let lo := max x.pa (128 * line)
    let hi := min (x.pa + n) (128 * line + 128)
    (s.fillPinned x (x.va + (lo - x.pa)) line).visit x.context source lo (hi - lo) write) s

/-- A bank writes the dirty bytes of one of its lines to the address that it recorded (R320, R330). -/
def State.bankBack (s : State) (slot : Nat) : State :=
  match s.fabric.banks.get? slot with
  | none => s
  | some b =>
    match s.fabric.bankData.filter fun e => e.1 / 128 == b.line with
    | [] => s
    | out =>
      let s := { s with fabric := { s.fabric with bankData := s.fabric.bankData.filter fun e => e.1 / 128 != b.line } }
      let keyed := s.leafSlot b.leaf
      let s := out.foldl (fun s e => s.hbmPut keyed e.1 e.2) s
      let s := (s.chargeHbm (some b.context) (128 * b.line) 128 true).use (some b.context) (slot / 16384 / 64) 2 128
      s.carry (some b.context) (slot / 16384 / 64) (dieOfPa (128 * b.line)) 128

/-- A bank writes back its dirty lines (R320, R322). -/
def State.cleanBank (s : State) (bank : Nat) : State :=
  ((s.fabric.banks.map (·.1)).filter fun n => n / 16384 == bank).foldl State.bankBack s

/-- A bank holds no line any more. -/
def State.emptyBank (s : State) (bank : Nat) : State :=
  let mine := (s.fabric.banks.filter fun e => e.1 / 16384 == bank).map (·.2.line)
  { s with fabric := { s.fabric with
      banks := s.fabric.banks.filter fun e => e.1 / 16384 != bank
      bankData := s.fabric.bankData.filter fun e => !mine.contains (e.1 / 128) } }

/-! ## The L1s (R150 to R152, R277) -/

/-- The core whose L1 holds an address for an access of `core`: the slice of a fused cluster, else its own (R152). -/
def State.l1Core (s : State) (core pa : Nat) : Nat :=
  if (s.cluster (clusterOf core)).fused then
    clusterOf core * 8 + ((pa / 128 % 8) ^^^ (pa / 1024 % 8))
  else core

/-- A core writes the dirty bytes that satisfy a test home, under the KEY of their pages' current leaves, and holds them dirty no
longer (R277, R380; log 122). Each line's write-back goes to the context that allocated it (R324). -/
def State.writeBack (s : State) (core : Nat) (p : Nat → Bool) : State :=
  let c := s.core core
  match c.dirty.filter fun e => p e.1 with
  | [] => s
  | out =>
    let s := s.setCore core { c with dirty := c.dirty.filter fun e => !p e.1 }
    let lines := (out.map fun e => e.1 / 128).eraseDups
    let s := lines.foldl (fun s line =>
      let n := (out.filter fun e => e.1 / 128 == line).length
      s.visit ((c.lines.get? line).bind (·.context)) (dieOf core) (128 * line) n true) s
    let slot := s.leafSlot
    out.foldl (fun s e => (s.homePut (slot e.2.2) e.1 e.2.1).markDirty e.1 1) s

/-- The range of addresses of an access. -/
def inRange (a n x : Nat) : Bool := decide (a ≤ x) && decide (x < a + n)

/-- Every core that holds a dirty byte of the range, but one, writes it home: a byte is dirty in one L1 only, so all
writes of a location stand in one order (R275, R295). -/
def State.recall (s : State) (except : Option Nat) (pa n : Nat) : State :=
  (s.cores.map (·.1)).foldl (fun s c => if some c = except then s else s.writeBack c (inRange pa n)) s

/-- Every L1 but the one that serves a core's accesses of a line writes home what it holds dirty of a range (R152, R275, R295). -/
def State.recallFor (s : State) (core pa n : Nat) : State :=
  (linesOf pa n).foldl (fun s line => s.recall (some (s.l1Core core (128 * line))) (max pa (128 * line))
    (min (pa + n) (128 * line + 128) - max pa (128 * line))) s

/-- What the issuing core's L1 holds dirty of the lines of a range goes home (R414). -/
def State.ownHome (s : State) (core pa n : Nat) : State :=
  (linesOf pa n).foldl (fun s line => s.writeBack (s.l1Core core (128 * line)) (inRange (128 * line) 128)) s

/-- The cores of a cluster. -/
def clusterCores (cl : Nat) : List Nat := (List.range 8).map (8 * cl + ·)

/-- The L1s that hold the writes of a core's squads: its own, or every slice of a fused cluster (R152). -/
def State.l1s (s : State) (core : Nat) : List Nat :=
  if (s.cluster (clusterOf core)).fused then clusterCores (clusterOf core) else [core]

/-- The dirty byte of an address in an L1. -/
def State.dirtyByte (s : State) (core pa : Nat) : Option Byte := ((s.core core).dirty.get? pa).map (·.1)

/-- An L1 holds a line no longer; what is dirty of it has gone home. -/
def State.dropLine (s : State) (core line : Nat) : State :=
  let s := s.writeBack core (inRange (128 * line) 128)
  s.setCore core { s.core core with lines := (s.core core).lines.erase line }

/-- The ways of an L1 that allocate: not of the scratchpad region, and not draining (R145, R148). -/
def Core.ways (c : Core) : Nat := 16 - c.sectors - c.draining

/-- The lines of an L1 that stand in the set of a line, PA[15:7] (R150). -/
def Core.setLines (c : Core) (line : Nat) : Tbl L1Line := c.lines.filter fun e => e.1 % 512 == line % 512

/-- The way of an L1 that a new line takes: a free one of its set, else the lowest (R150; log 91). -/
def Core.freeWay (c : Core) (line : Nat) : Option Nat :=
  (List.range c.ways).find? fun w => (c.setLines line).all fun e => e.2.way != w

/-- A way of a set is free for a new line. -/
def State.makeRoom (s : State) (core line : Nat) : State :=
  match (s.core core).freeWay line, ((s.core core).setLines line).find? fun e => e.2.way == 0 with
  | none, some v => s.dropLine core v.1
  | _, _ => s

/-- A line is allocated in an L1 that does not hold it (R150), read from its home. -/
def State.fillL1 (s : State) (core : Nat) (x : Xlate) (line : Nat) : State :=
  if ((s.core core).lines.get? line).isSome then s
  else
    let way := ((s.core core).freeWay line).getD 0
    let lo := max x.pa (128 * line)
    let s := (s.makeRoom core line).reach (dieOf core) { x with pa := 128 * line, va := x.va + (lo - x.pa) - lo % 128 } 128 false
    s.setCore core { s.core core with lines := (s.core core).lines.set line { way, context := x.context } }

/-- The lines of an access of a core are in its L1, or each in its slice of a fused cluster (R150, R152). -/
def State.fillLines (s : State) (core : Nat) (x : Xlate) (n : Nat) : State :=
  (linesOf x.pa n).foldl (fun s line => s.fillL1 (s.l1Core core (128 * line)) x line) s

/-- A write performed at cluster scope or wider removes every other copy of its line from the L1s of the writer's cluster
(R414); lines with dirty bytes of other locations go home with it. -/
def State.dropCopies (s : State) (core pa n : Nat) : State :=
  (clusterCores (clusterOf core)).foldl (fun s c =>
    ((linesOf pa n).filter fun line => c != s.l1Core core (128 * line) && ((s.core c).lines.get? line).isSome).foldl
      (fun s line => s.dropLine c line) s) s

/-- Every dirty byte that a core's squads left in an L1 goes home (R277). -/
def State.flushL1 (s : State) (core : Nat) : State :=
  (s.l1s core).foldl (fun s c => s.writeBack c fun _ => true) s

/-- Every write that happens before a release at a scope goes home, wherever it stands dirty: at team and squad scope all but
what the core's own L1 holds, which its squads see there (R279, R280, R283; log 9). -/
def State.publish (s : State) (core scope : Nat) : State :=
  (s.cores.map (·.1)).foldl (fun s c => if scope ≤ 1 ∧ (s.l1s core).contains c then s else s.writeBack c fun _ => true) s

/-! ## Zero on first touch (R183) -/

/-- Whether the stage-2 leaf of a translation has ZP set now (R171, R183). The stage-2 tables are read under key slot
0 (log 22). -/
def State.zpSet (s : State) (x : Xlate) : Bool := (s.homeWord 0 x.leaf).testBit 9

/-- Drop TLB entries by a test, in every core and quarter (R176). -/
def State.dropTlb (s : State) (p : TlbEntry → Bool) : State :=
  let keep := fun (l : List TlbEntry) => l.filter fun e => !p e
  { s with cores := s.cores.map fun (c : Nat × Core) =>
      (c.1, { c.2 with tlb := keep c.2.tlb, quarters := c.2.quarters.map fun q => { q with tlb := keep q.tlb } }) }

/-- Whether a line lies in a page. -/
def inPage (base size line : Nat) : Bool := inRange base size (128 * line)

/-- Every cached line of a page is dropped, unwritten (R183). -/
def State.dropPage (s : State) (base size : Nat) : State :=
  let f := s.fabric
  { s with
    cores := s.cores.map fun (c : Nat × Core) => (c.1, { c.2 with
      dirty := c.2.dirty.filter fun e => !inRange base size e.1
      lines := c.2.lines.filter fun e => !inPage base size e.1 })
    fabric := { f with
      l2 := f.l2.filter fun e => !inPage base size e.1
      banks := f.banks.filter fun e => !inPage base size e.2.line
      bankData := f.bankData.filter fun e => !inRange base size e.1 } }

/-- Zero is written over a page under a key slot (R183, R380): what stood there before, under whatever keys, is gone. -/
def State.zeroPage (s : State) (slot base size : Nat) : State :=
  let bursts := s.burstKey.filter fun e => !inRange (base / 64) (size / 64) e.1
  let older := s.fabric.swept.filter fun r => !(inRange base size r.1 && decide (r.1 + r.2.1 ≤ base + size))
  { s with
    mem := clearBytes s.mem base size
    burstKey := bursts
    fabric := { s.fabric with swept := if isHbm base then (base, size, s.slotKey slot) :: older else older } }

/-- The writes of a sweep to HBM are charged to its writer's context (R324). -/
def State.chargeSweep (s : State) (x : Xlate) : State :=
  if isHbm x.pa then s.chargeHbm x.context (x.pa - x.pa % x.size) x.size true else s

/-- Begin a sweep: every cached line of the page is dropped and the page is written zero under its key (R183). -/
def State.sweepBegin (s : State) (x : Xlate) : State :=
  let base := x.pa - x.pa % x.size
  (((s.dropPage base x.size).chargeSweep x).zeroPage x.key base x.size).markDirty base x.size

/-- The entries of the group that a leaf stands in: 4ⁿ for SPAN n (R172). -/
def spanGroup (leaf entry : Nat) : List Nat :=
  let n := 4 ^ (entry / 16 % 8)
  (List.range n).map fun i => leaf - leaf % (8 * n) + 8 * i

/-- Clear ZP in one stage-2 entry, at its home, where no write of it is missed (R171, R295). -/
def State.clearZp (s : State) (leaf : Nat) : State :=
  let s := s.recall none leaf 8
  let e := s.homeWord 0 leaf
  s.homeWrite 0 leaf (leBytes (if e.testBit 9 then e - 2 ^ 9 else e) 8)

/-- End a sweep: ZP is cleared in every entry of the stage-2 leaf's group, and the page's translations are invalidated (R172,
R183; log 92). -/
def State.sweepEnd (s : State) (leaf : Nat) : State :=
  let group := spanGroup leaf (s.homeWord 0 leaf)
  ((group.foldl State.clearZp s).clearZp leaf).dropTlb fun t => t.leaf2 == leaf || group.contains t.leaf2

/-- The page is swept if its ZP is set, before the first write to it is performed (R183). -/
def State.touch (s : State) (x : Xlate) : State := if s.zpSet x then (s.sweepBegin x).sweepEnd x.leaf else s

/-! ## Accesses by scope (R276, R277, R414) -/

/-- Whether a packet's partition is not the one whose stage 2 gives it the frame: the leaf that it was translated by no longer maps the
frame, no other of its leaves does, and one of another partition does (R379). -/
def State.foreign (s : State) (x : Xlate) : Bool :=
  match x.context with
  | none => false
  | some c =>
    let e := s.homeWord 0 x.leaf
    if e.testBit 0 && decide (frameOf e ≤ x.pa) && decide (x.pa < frameOf e + x.size) then false
    else (s.leafIn (contextVf c) x.pa).isNone && (List.range 32).any fun v => v != contextVf c && (s.leafIn v x.pa).isSome

/-- Bytes read by a core at a scope (R414): squad, team and cluster scope are served by the L1, which is filled on a miss unless
the page forbids it; wider scopes by the home, where the core's own dirty copies of the lines go first. A page with ZP set reads
zero and allocates nothing (R183). Of another partition's frame nothing is read: what returns is free (R379; log 129). -/
def State.loadAt (s : State) (core scope : Nat) (x : Xlate) (n : Nat) : State × List Byte :=
  if s.foreign x then (s, (List.range n).map fun i => Config.foreignByte (x.pa + i))
  else if s.zpSet x then (s, List.replicate n 0)
  else
    let x := s.homed x
    if scope ≤ 2 ∧ x.nc = false then
      let s := s.fillLines core x n
      (s, (List.range n).map fun i =>
        (s.dirtyByte (s.l1Core core (x.pa + i)) (x.pa + i)).getD (s.homeByte x.key (x.pa + i)))
    else
      let s := (s.ownHome core x.pa n).reach (dieOf core) x n false
      (s, s.homeBytes x.key x.pa n)

/-- A byte becomes dirty in an L1, written through a stage-2 leaf. -/
def State.dirtyPut (s : State) (core leaf pa : Nat) (b : Byte) : State :=
  let c := s.core core
  s.setCore core { c with dirty := c.dirty.set pa (b, leaf) }

/-- Bytes written by a core at a scope (R277): squad and team scope stay dirty in the L1, where the line is allocated, unless the
page forbids it; wider scopes are performed at the home, with every other copy removed (R414). In another partition's frame nothing is
written (R379). -/
def State.storeAt (s : State) (core scope : Nat) (x : Xlate) (bs : List Byte) : State :=
  if s.foreign x then s else
  let s := s.touch x
  let x := s.homed x
  if scope ≤ 1 ∧ x.nc = false then
    let s := (s.recallFor core x.pa bs.length).fillLines core x bs.length
    (bs.zipIdx).foldl (fun s e => s.dirtyPut (s.l1Core core (x.pa + e.2)) x.leaf (x.pa + e.2) e.1) s
  else
    let s := (s.recall none x.pa bs.length).dropCopies core x.pa bs.length
    (s.reach (dieOf core) x bs.length true).homeWrite x.key x.pa bs

/-- Bytes read at host scope or by the device, at the home (R292). -/
def State.homeLoad (s : State) (x : Xlate) (n : Nat) : List Byte :=
  if s.zpSet x then List.replicate n 0 else s.homeBytes (s.homed x).key (s.homed x).pa n

/-! ## Scratchpad (R146, R154) -/

/-- Read a team's scratchpad. -/
def State.scratchLoad (s : State) (team a n : Nat) : List Byte :=
  match s.teams.get? team with
  | some t => readBytes t.scratch a n
  | none => List.replicate n 0

/-- Write a team's scratchpad. -/
def State.scratchStore (s : State) (team a : Nat) (bs : List Byte) : State :=
  match s.teams.get? team with
  | some t => s.setTeam team { t with scratch := writeBytes t.scratch a bs }
  | none => s

/-! ## The release log (R286 to R290) -/

/-- The context of a release-log entry: the partition and the interface (R286). -/
def logContext (ctx : Nat) : Nat := ctx / 4

/-- The bytes of a cut that still stand dirty go home, wherever they stand (R287). -/
def State.performCut (s : State) (cut : List Nat) : State :=
  (s.cores.map (·.1)).foldl (fun s c => s.writeBack c fun a => cut.contains a) s

/-- Promote the oldest entry of a core at package scope and remove it: the writes of its cut go home (R286, R287). -/
def State.promoteOldest (s : State) (core : Nat) : State :=
  match (s.core core).log with
  | [] => s
  | e :: rest =>
    let s := s.performCut e.cut
    s.setCore core { s.core core with log := rest }

/-- Promote and remove every entry of a context on a core (R288, R290). -/
def State.promoteContext (s : State) (core ctx : Nat) : State :=
  match (s.core core).log.filter fun e => e.context == ctx with
  | [] => s
  | l =>
    let s := s.performCut (l.flatMap (·.cut))
    s.setCore core { s.core core with log := (s.core core).log.filter fun e => e.context != ctx }

/-- Whether a release at a scope is logged (R286). -/
def logged (scope : Nat) : Bool := decide (1 ≤ scope) && decide (scope ≤ 3)

/-- Whether a release must wait for room in the log (R286). -/
def State.logFull (s : State) (core scope : Nat) : Bool := logged scope && decide (64 ≤ (s.core core).log.length)

/-- What a core's squads have left dirty: the cut of a release there, once every other write is home (R286). -/
def State.cutOf (s : State) (core : Nat) : List Nat := (s.l1s core).flatMap fun c => (s.core c).dirty.map (·.1)

/-- The own store of the release logged last on a core joins its cut, so that a promotion performs it too (R287). -/
def State.ownStore (s : State) (core scope : Nat) : State :=
  if logged scope then
    let c := s.core core
    let log := c.log.dropLast ++ c.log.getLast?.toList.map fun e => { e with cut := s.cutOf core }
    s.setCore core { c with log }
  else s

/-- A release takes effect on a core: every earlier write is published at its scope, and at team, cluster and die scope it is
logged with its cut (R280, R286). -/
def State.release (s : State) (core ctx scope : Nat) : State :=
  let s := s.publish core scope
  if logged scope then
    let s := if s.logFull core scope then s.promoteOldest core else s
    s.setCore core { s.core core with log := (s.core core).log ++ [⟨logContext ctx, scope, s.cutOf core⟩] }
  else s

end Sys2Proof.Machine
end

