-- ==== Sys2Proof/Machine/Translate.lean ====
section
/-! DEFINITION. Address translation (R168 to R182, R186): the two stages, the walk with its A and D marks, the TLB,
the handle table, and what a word does while an address is not translated. -/

namespace Sys2Proof.Machine

/-! ## One stage (R170 to R173) -/

/-- A leaf as a walk returns it: the address reached, the page size, the entry, where it lies and its level. -/
structure Leaf where
  out : Nat
  size : Nat
  entry : Nat
  addr : Nat
  level : Nat
  deriving DecidableEq, Repr

/-- The stage-2 walk from a level down (R173): the leaf, or a cause and level. -/
def State.walk2From (s : State) (inp : Nat) : Nat → Nat → Nat → Except (Nat × Nat) Leaf
  | 0, level, _ => .error (3, level)
  | fuel + 1, level, table =>
    let a := table + 8 * tableIndex level inp
    let e := s.homeWord 0 a
    -- an uncorrectable error in a table read is MALFORMED (R411)
    if s.fabric.bad.contains (a / 128) then .error (3, level)
    else match entryOf true level e with
    | .bad c => .error (c, level)
    | .pointer t => s.walk2From inp fuel (level + 1) t
    | .leaf size => .ok ⟨frameOf e + inp % size, size, e, a, level⟩

/-- Whether an agent of an interface may use a key slot (R381). -/
def State.slotAllows (s : State) (vf iface slot : Nat) : Bool :=
  let k := s.reg (packageBase + 0x1000 + 8 * slot)
  !has k 0 || (decide (bits k 56 52 = vf) && decide (bits k 51 32 = iface))

/-- Stage 2 for a partition-physical address (R170, R173). -/
def State.stage2 (s : State) (vf inp : Nat) : Except (Nat × Nat) Leaf :=
  let root := s.reg (partBase vf + 0x508)
  if has root 0 then s.walk2From (inp % 2 ^ 48) 4 0 (bits root 45 12 * 2 ^ 12) else .error (1, 0)

/-- Stage 2 with a needed permission: bit 1 R, 2 W, 3 X; 2 is PERM. -/
def State.stage2For (s : State) (vf iface inp : Nat) (perms : List Nat) : Except (Nat × Nat) Leaf :=
  match s.stage2 vf inp with
  | .error e => .error e
  | .ok l =>
    if perms.all (fun b => l.entry.testBit b) ∧ s.slotAllows vf iface (keySlot l.entry) then .ok l
    else .error (2, l.level)

/-! ## Both stages (R173, R174) -/

/-- A bit to set in a table entry: its device-physical address, the key slot it lies under, the bits. -/
structure Mark where
  addr : Nat
  slot : Nat
  bit : Nat
  deriving DecidableEq, Repr

/-- A stage-1 leaf with the stage-2 leaf of its table page. -/
structure Leaf1 where
  leaf : Leaf
  page : Leaf
  deriving DecidableEq, Repr

/-- A walk fault of a stage-1 table (R173, R177): VA 0, and the table's partition-physical address. -/
def walkFault (e : Nat × Nat) (ppa : Nat) : WalkFault := ⟨2, e.1, e.2, true, 0, ppa⟩

/-- The stage-1 walk from a level down, with the A marks of the stage-2 leaves it used (R173, R174). -/
def State.walk1From (s : State) (vf iface va : Nat) :
    Nat → Nat → Nat → List Mark → List Mark × Except WalkFault Leaf1
  | 0, level, _, ms => (ms, .error ⟨1, 3, level, false, va, 0⟩)
  | fuel + 1, level, table, ms =>
    let a := table + 8 * tableIndex level va
    match s.stage2For vf iface a [1] with
    | .error e => (ms, .error (walkFault e a))
    | .ok p =>
      let ms := ms ++ [⟨p.addr, 0, 7⟩]
      -- a table on a page with ZP set reads zero (R183)
      let e := if p.entry.testBit 9 then 0 else s.homeWord (keySlot p.entry) p.out
      if s.fabric.bad.contains (p.out / 128) then (ms, .error ⟨1, 3, level, false, va, 0⟩)
      else match entryOf false level e with
      | .bad c => (ms, .error ⟨1, c, level, false, va, 0⟩)
      | .pointer t => s.walk1From vf iface va fuel (level + 1) t ms
      | .leaf size => (ms, .ok ⟨⟨frameOf e + va % size, size, e, a, level⟩, p⟩)

/-- Set one bit of a table entry, by an atomic OR at its home (R171). -/
def State.mark (s : State) (m : Mark) : State :=
  let s := s.recall none m.addr 8
  let e := s.homeWord m.slot m.addr
  if e.testBit m.bit then s else s.homeWrite m.slot m.addr (leBytes (e + 2 ^ m.bit) 8)

/-- Set marks. -/
def State.marks (s : State) (ms : List Mark) : State := ms.foldl State.mark s

/-- The permission bits an access needs (R173). -/
def AccessKind.needs : AccessKind → List Nat
  | .read => [1]
  | .write => [2]
  | .atomic => [1, 2]
  | .fetch => [3]

/-- Whether an access sets D (R174). -/
def AccessKind.writes : AccessKind → Bool
  | .read => false
  | .write => true
  | .atomic => true
  | .fetch => false

/-- The KIND code of a record (R179). -/
def AccessKind.code : AccessKind → Nat
  | .read => 0 | .write => 1 | .atomic => 2 | .fetch => 3

/-- Whether a virtual address lies in the pod window (R168). -/
def inPodWindow (va : Nat) : Bool := decide (0xF00000000000 ≤ va) && decide (va < 0x1000000000000)

/-- Both stages for an access (R173): the marks of the walk, and the TLB entry or why it stops. -/
def State.walkBoth (s : State) (vf iface va : Nat) (kind : AccessKind) (quiet : Bool) :
    List Mark × Except WalkFault TlbEntry :=
  let root := s.reg (ifaceBase vf iface)
  if has root 0 = false then ([], .error ⟨1, 1, 0, false, va, 0⟩)
  else
    match s.walk1From vf iface va 4 0 (bits root 45 12 * 2 ^ 12) [] with
    | (ms, .error f) => (ms, .error f)
    | (ms, .ok l1) =>
      match s.stage2 vf l1.leaf.out with
      | .error e => (ms, .error ⟨2, e.1, e.2, false, va, l1.leaf.out⟩)
      | .ok l2 =>
        let e1 := l1.leaf.entry
        let e2 := l2.entry
        if kind.needs.any fun b => !e1.testBit b then (ms, .error ⟨1, 2, l1.leaf.level, false, va, 0⟩)
        else if (kind.needs.any fun b => !e2.testBit b) || !s.slotAllows vf iface (keySlot e2) then
          (ms, .error ⟨2, 2, l2.level, false, va, l1.leaf.out⟩)
        else
          let d := kind.writes
          let touch1 := !quiet && (!e1.testBit 7 || (d && !e1.testBit 8))
          if touch1 && !l1.page.entry.testBit 2 then (ms, .error (walkFault (2, l1.page.level) l1.leaf.addr))
          else
            let dm := fun (a slot : Nat) => if d then [⟨a, slot, 7⟩, ⟨a, slot, 8⟩] else [(⟨a, slot, 7⟩ : Mark)]
            let ms := ms ++ dm l1.page.out (keySlot l1.page.entry) ++
              (if touch1 then [⟨l1.page.addr, 0, 8⟩] else []) ++ dm l2.addr 0
            let size := min l1.leaf.size l2.size
            let off := va % size
            (ms, .ok {
              vf, iface
              va := va - off
              size
              pa := l2.out - off
              r := e1.testBit 1 && e2.testBit 1
              w := e1.testBit 2 && e2.testBit 2
              x := e1.testBit 3 && e2.testBit 3
              nc := e1.testBit 10
              claimable := e1.testBit 9
              zp := e2.testBit 9
              key := keySlot e2
              dirty := d || (e1.testBit 8 && e2.testBit 8)
              leaf2 := l2.addr
              size2 := l2.size
              leaf1 := l1.leaf.addr
              ppa := l1.leaf.out - off })

/-- Whether a fault is only that a key slot refuses the agent (R381): the leaf grants what the access needs. -/
def State.slotRefuses (s : State) (vf iface : Nat) (f : WalkFault) (kind : AccessKind) : Bool :=
  f.stage == 2 && f.cause == 2 && match s.stage2 vf f.ppa with
    | .ok l => ((if f.walk then [1] else kind.needs).all fun b => l.entry.testBit b) && !s.slotAllows vf iface (keySlot l.entry)
    | .error _ => false

/-- A walk for an access, with its marks set (R174): the state after, and the TLB entry or why it stops. A quiet walk
marks nothing: prefetch, query and cache control. -/
def State.walk (s : State) (vf iface va : Nat) (kind : AccessKind) (quiet : Bool) :
    State × Except WalkFault TlbEntry :=
  match s.walkBoth vf iface va kind quiet with
  | (ms, r) => (if quiet then s else s.marks ms, r)

/-- The table entries that a stage-2 walk reads. -/
def State.reads2From (s : State) (inp : Nat) : Nat → Nat → Nat → List Nat
  | 0, _, _ => []
  | fuel + 1, level, table =>
    let a := table + 8 * tableIndex level inp
    a :: (match entryOf true level (s.homeWord 0 a) with
      | .pointer t => s.reads2From inp fuel (level + 1) t
      | _ => [])

/-- The table entries that stage 2 reads for a partition-physical address. -/
def State.reads2 (s : State) (vf inp : Nat) : List Nat :=
  let root := s.reg (partBase vf + 0x508)
  if has root 0 then s.reads2From (inp % 2 ^ 48) 4 0 (bits root 45 12 * 2 ^ 12) else []

/-- The table entries that a walk of both stages reads, at their device-physical addresses (R173). -/
def State.reads1From (s : State) (vf iface va : Nat) : Nat → Nat → Nat → List Nat
  | 0, _, _ => []
  | fuel + 1, level, table =>
    let a := table + 8 * tableIndex level va
    s.reads2 vf a ++ (match s.stage2For vf iface a [1] with
      | .error _ => []
      | .ok p =>
        p.out :: (match entryOf false level (if p.entry.testBit 9 then 0 else s.homeWord (keySlot p.entry) p.out) with
          | .pointer t => s.reads1From vf iface va fuel (level + 1) t
          | .leaf size =>
            s.reads2 vf (frameOf (if p.entry.testBit 9 then 0 else s.homeWord (keySlot p.entry) p.out) + va % size)
          | .bad _ => []))

/-- The reads of a walk go through the home slices, charged to the walking context (R173, R324). -/
def State.payWalk (s : State) (ctx die vf iface va : Nat) : State :=
  let root := s.reg (ifaceBase vf iface)
  if has root 0 then
    (s.reads1From vf iface va 4 0 (bits root 45 12 * 2 ^ 12)).foldl (fun s a => s.visit (some ctx) die a 8 false) s
  else s

/-! ## The handle table (R186) -/

/-- Whether a trained link joins the package to a peer of its own pod group (R404): PODCFG holds UP and GROUP. -/
def State.reachesPeer (s : State) (pkg : Nat) : Bool :=
  let cfg := s.reg (packageBase + 0x18)
  (List.range 8).any fun k => has cfg (32 + k) && s.peers.get? k == some (pkg, bits cfg 31 16)

/-- Where an address of the pod window leads: package, handle and offset; or why not (R186). The last is ACCESS with no
record, of an offset at or above LEN. Whether a link reaches the package shows when the access is performed (R404). -/
def State.podRoute (s : State) (vf iface va : Nat) (kind : AccessKind) :
    Except (Option WalkFault) (Nat × Word × Nat) :=
  let off := ifaceBase vf iface + 0x1000 + 16 * (va / 2 ^ 36 % 256)
  let lo := s.reg off
  let o := va % 2 ^ 36
  if has lo 0 = false then .error (some ⟨0, 1, 0, false, va, 0⟩)
  else if kind = .fetch ∨ ((kind = .read ∨ kind = .atomic) ∧ has lo 1 = false) ∨
      (kind.writes ∧ has lo 2 = false) then .error (some ⟨0, 2, 0, false, va, 0⟩)
  else if (s.reg (off + 8)).toNat ≤ o then .error none
  else .ok (bits lo 31 16, (lo >>> 32).setWidth 32, o)

/-! ## The TLB (R175) -/

/-- Whether a TLB entry serves an access: the tag, the page, the permissions, and D for a write. -/
def TlbEntry.serves (e : TlbEntry) (vf iface va : Nat) (kind : AccessKind) : Bool :=
  e.vf == vf && e.iface == iface && inRange e.va e.size va &&
  (match kind with
   | .read => e.r
   | .write => e.w && e.dirty
   | .atomic => e.r && e.w && e.dirty
   | .fetch => e.x)

/-- The translation an entry gives for an address. -/
def TlbEntry.xlate (e : TlbEntry) (va : Nat) : Xlate :=
  { pa := e.pa + (va - e.va), key := e.key, nc := e.nc, leaf := e.leaf2, size := e.size2, va }

/-- The translation an entry gives an access of a context. -/
def TlbEntry.xlateFor (e : TlbEntry) (ctx va : Nat) : Xlate := { e.xlate va with context := some ctx }

/-- The TLB of a core's quarter. -/
def Core.quarterTlb (c : Core) (quarter : Nat) : List TlbEntry := (at' c.quarters quarter {}).tlb

/-- Every entry that a core's TLBs hold. -/
def Core.translations (c : Core) : List TlbEntry := c.tlb ++ c.quarters.toList.flatMap (·.tlb)

/-- The entry that serves an access of a core's quarter: in the quarter's TLB, or in the core's (R175). -/
def State.tlbHit (s : State) (core quarter vf iface va : Nat) (kind : AccessKind) : Option TlbEntry :=
  let c := s.core core
  ((c.quarterTlb quarter).find? fun e => e.serves vf iface va kind).or (c.tlb.find? fun e => e.serves vf iface va kind)

/-- A TLB of a size with an entry put in front, in place of others of its page; the oldest leaves (R175; log 93). -/
def tlbWith (size : Nat) (e : TlbEntry) (l : List TlbEntry) : List TlbEntry :=
  (e :: l.filter fun x => !(x.vf == e.vf && x.iface == e.iface && x.va == e.va)).take size

/-- Put an entry into the TLBs of a core and of its quarter: 1,024 and 64 entries (R175). -/
def State.tlbPut (s : State) (core quarter : Nat) (e : TlbEntry) : State :=
  let c := s.core core
  let q := at' c.quarters quarter {}
  s.setCore core { c with tlb := tlbWith 1024 e c.tlb, quarters := put c.quarters quarter { q with tlb := tlbWith 64 e q.tlb } }

/-! ## Translating the lanes of a word -/

/-- What translating an address at issue gives (R175, R177, R187). -/
inductive Trans where
  | place (p : Place)
  | walk
  | fault (f : WalkFault)
  /-- ACCESS with no record: a pod-window offset at or above LEN (R186). -/
  | access
  deriving DecidableEq, Repr

/-- Translate a global address for a word of a split: through the TLB, or by what a finished walk of it found. -/
def State.translate (s : State) (u : Issuer) (va : Nat) (kind : AccessKind) : Trans :=
  let ctx := s.contextOf u.squad
  let vf := contextVf ctx
  let iface := contextIface ctx
  if inPodWindow va then
    match s.podRoute vf iface va kind with
    | .ok _ => .place (.pod va)
    | .error (some f) => .fault f
    | .error none => .access
  else
    match s.tlbHit u.squad.core u.squad.quarter vf iface va kind with
    | some e => .place (.memory (e.xlateFor ctx va))
    | none =>
      match u.split.walked with
      | some (a, f) => if a = va then .fault f else .walk
      | none => .walk

/-- The access kind of an operation (R173, R218, R298). -/
def OpKind.access : OpKind → AccessKind
  | .store => .write
  | .atomic .. => .atomic
  | .compareSwap _ => .atomic
  | .tidget _ => .write
  | .accStore _ => .write
  | _ => .read

/-- The outcome of translating the lanes of an operation in lane order. -/
inductive Lanes2 where
  | placed (l : List LaneAccess)
  | walk (va : Nat)
  | fault (lane : Nat) (f : WalkFault)
  | access (va : DWord)

/-- Translate the lanes of a word in order; the first lane that does not translate decides (R177, R187). -/
def State.translateLanes (s : State) (u : Issuer) (kind : AccessKind) : List LaneAccess → Lanes2
  | [] => .placed []
  | l :: ls =>
    match s.translate u l.va.toNat kind with
    | .walk => .walk l.va.toNat
    | .fault f => .fault l.lane f
    | .access => .access l.va
    | .place p =>
      match s.translateLanes u kind ls with
      | .placed r => .placed ({ l with place := p } :: r)
      | r => r

/-- Ask for a walk of an address on the core's die, if the split has none waiting (R175). -/
def State.askWalk (s : State) (u : Issuer) (va : Nat) (kind : AccessKind) : State :=
  let d := dieOf u.squad.core
  let x := s.die d
  if x.walks.any fun w => w.squad == u.key && w.split == u.split.id then s
  else s.setDie d { x with walks := x.walks ++ [⟨u.key, u.split.id, va, kind⟩] }

/-! ## The fault buffer (R177 to R182) -/

/-- The lowest free entry of a core's fault buffer, of 64. -/
def Core.freeFault (c : Core) : Option Nat := (List.range 64).find? fun n => (c.faults.get? n).isNone

/-- The interface of a record; the model's PASID is the interface slot (log 12). -/
def pasid (iface : Nat) : Nat := iface

/-- Who holds stage 2 of a partition: level 0, or PF 1 under FAULT2 for a partition of port 1 (R373, R376). -/
def State.stage2Owner (s : State) (vf : Nat) : Agent :=
  if has (s.reg (packageBase + 0x10)) 1 ∧ has (s.reg (packageBase + 0x20)) vf then .pf1 else .level0

/-- Whether a delegable right of an interface is with level 2 (R374): 0 XLATE, 2 IMPORT, 7 MIGR. -/
def State.delegated (s : State) (vf iface bit : Nat) : Bool :=
  has (s.reg (partBase vf)) bit && has (s.reg (partBase vf + 0x200 + 8 * iface)) bit

/-- The owner of a fault record (R177, R376): stage 2 to level 0; stage 1 and the handle table to the holder of XLATE
or IMPORT, who is level 0 until RIGHTS1 hands the right on. -/
def State.faultOwner (s : State) (vf iface : Nat) (f : WalkFault) : Agent :=
  if f.stage = 2 then s.stage2Owner vf
  else
    let bit := if f.stage = 0 then 2 else 0
    if s.delegated vf iface bit then .level2 vf iface else if has (s.reg (partBase vf)) bit then .level1 vf else .level0

/-- The level-0 fault queue (R399). -/
def faultQueue0 : Nat := packageBase + 0x200

/-- The fault queue of an owner (R399). -/
def faultQueueOf : Agent → Nat
  | .level0 => faultQueue0
  | .pf1 => faultQueue0
  | .level1 v => partBase v + 0x700
  | .level2 v i => ifaceBase v i + 0x260

/-- The 32 bytes of a fault record (R179). `core` is the logical core in stage-1 records and the physical core in
stage-2 records. -/
def faultRecord (f : WalkFault) (kind : AccessKind) (vf iface entry gen core : Nat) : List Byte :=
  leBytes (f.va % 2 ^ 48) 8 ++
  leBytes (if f.stage = 2 then f.ppa % 2 ^ 46 else 0) 8 ++
  leBytes (f.cause + (if f.walk then 4 else kind.code) * 2 ^ 4 + (if f.stage = 2 then 2 ^ 7 else 0) + f.level % 4 * 2 ^ 8 +
    pasid iface % 2 ^ 20 * 2 ^ 16 + vf % 32 * 2 ^ 36) 8 ++
  leBytes (entry % 64 + gen % 1024 * 2 ^ 6 + core % 2048 * 2 ^ 16) 8

end Sys2Proof.Machine
end

