-- ==== Sys2Proof/Machine/Pins.lean ====
section
/-! DEFINITION. Ranges of virtual addresses and the lines they reach: pins and unpins of die-scratch regions (R318 to R322),
cache control and prefetch (R192, R193), and what holds an access back (R273, R320). -/

namespace Sys2Proof.Machine

/-! ## The pages of a range -/

/-- The end of the addresses that CLAIM and cache control reach (R185, R193). -/
def rangeLimit : Nat := 0xF00000000000

/-- The pages of a virtual range that translate, lowest first: the first address of the range in the page, the bytes of the range
there, and the translation. What a level of the tables does not map is passed over. -/
def State.pagesFrom (s : State) (vf iface last : Nat) : Nat → Nat → List (Nat × Nat × TlbEntry)
  | 0, _ => []
  | fuel + 1, va =>
    if last ≤ va then []
    else
      match (s.walkBoth vf iface va .read true).2 with
      | .ok e =>
        let stop := min last (e.va + e.size)
        (va, stop - va, e) :: s.pagesFrom vf iface last fuel stop
      | .error f =>
        let step := if f.stage = 1 ∧ f.walk = false then 2 ^ (39 - 9 * min f.level 3) else 4096
        s.pagesFrom vf iface last fuel (va - va % step + step)

/-- The pages of a context's range. -/
def State.pages (s : State) (ctx first last : Nat) : List (Nat × Nat × TlbEntry) :=
  let last := min last rangeLimit
  s.pagesFrom (contextVf ctx) (contextIface ctx) last ((last - first) / 4096 + 2) first

/-- Do something with the device-physical ranges that a context's virtual range reaches. -/
def State.onRange (s : State) (ctx first last : Nat) (f : State → Nat → Nat → State) : State :=
  (s.pages ctx first last).foldl (fun s p => f s (p.2.2.pa + (p.1 - p.2.2.va)) p.2.1) s

/-- The valid L2 lines of a range. -/
def State.l2Within (s : State) (pa n : Nat) : List Nat := (s.fabric.l2.filter fun e => inRange pa n (128 * e.1 + 127)).map (·.1)

/-! ## Pins (R320) -/

/-- No L1 holds a line of a range any more (R320). -/
def State.dropL1s (s : State) (pa n : Nat) : State :=
  (s.cores.map (·.1)).foldl (fun s c =>
    (((s.core c).lines.filter fun e => inRange pa n (128 * e.1 + 127)).map (·.1)).foldl (fun s l => s.dropLine c l) s) s

/-- The home slices write back and invalidate their lines of a region, and recall every owned copy (R320). -/
def State.leaveSlices (s : State) (ctx region : Nat) : State :=
  s.onRange ctx region (region + 2 ^ 21) fun s pa n =>
    let s := (s.recall none pa n).dropL1s pa n
    (s.l2Within pa n).foldl State.dropL2 s

/-- DSB_PIN: home of a region's lines passes to its bank, once an unpin of the bank or of the region has ended; every bank
line starts empty (R320). -/
def State.pinRegion (s : State) (ctx d entry : Nat) : State :=
  match s.fabric.pins.find? fun p => p.context == ctx && p.bank / 64 == d && p.entry == entry && !p.leaving && !p.home with
  | none => s
  | some p =>
    if s.fabric.pins.any fun y => y.leaving && (y.bank == p.bank || (y.context == p.context && y.region == p.region)) then s
    else
      let s := (s.leaveSlices ctx p.region).emptyBank p.bank
      { s with fabric := { s.fabric with pins := s.fabric.pins.map fun y => if y = p then { y with home := true } else y } }

/-- DSB_UNPIN_COMPLETE: the bank has recalled its owned lines and written its dirty ones to their recorded addresses, and home
returns to the home slices (R320). -/
def State.unpin (s : State) (bank : Nat) : State :=
  if s.fabric.pins.any fun p => p.leaving && p.bank == bank then
    let lines := (s.fabric.banks.filter fun e => e.1 / 16384 == bank).map (·.2.line)
    let s := lines.foldl (fun s l => s.recall none (128 * l) 128) s
    let s := (s.cleanBank bank).emptyBank bank
    { s with fabric := { s.fabric with pins := s.fabric.pins.filter fun p => !(p.leaving && p.bank == bank) } }
  else s

/-! ## Accesses that wait (R185, R273, R320) -/

/-- HBM_RETRAIN_END (R273). -/
def State.retrainEnd (s : State) (stack : Nat) : State :=
  let v := s.reg (hbmCtl stack)
  if has v 4 then s.setReg (hbmCtl stack) (withBits v 4 4 0) else s

/-- Whether home of the line of an access is passing to a bank or from it (R320). -/
def State.passing (s : State) (x : Xlate) : Bool :=
  s.fabric.pins.any fun p =>
    some p.context == x.context && p.region == x.va / 2 ^ 21 * 2 ^ 21 && (p.leaving || !p.home) && isHbm x.pa

/-- Whether the stack of an address retrains (R273). -/
def State.retraining (s : State) (pa : Nat) : Bool := isHbm pa && has (s.reg (hbmCtl (stackOfPa pa))) 4

/-- Whether a CLAIM has locked the page of an access (R185). -/
def State.locked (s : State) (x : Xlate) : Bool :=
  s.fabric.locks.any fun l => x.context.map contextVf == some l.2.vf && x.context.map contextIface == some l.2.iface &&
    inRange l.2.base l.2.size x.va

/-- Whether an access waits at a memory controller, at a home that passes or at a page that is locked (R185, R273, R320). -/
def State.held (s : State) (x : Xlate) : Bool := s.retraining x.pa || s.passing x || s.locked x

/-- Home of the region of an access has passed, and its stack has retrained: what the device itself does there waits no longer
(R273, R320). -/
def State.homeSettled (s : State) (x : Xlate) : State :=
  let s := if s.retraining x.pa then s.retrainEnd (stackOfPa x.pa) else s
  let mine := s.fabric.pins.filter fun p => some p.context == x.context && p.region == x.va / 2 ^ 21 * 2 ^ 21
  let s := (mine.filter (·.leaving)).foldl (fun s p => s.unpin p.bank) s
  (mine.filter fun p => !p.leaving && !p.home).foldl (fun s p => (s.unpin p.bank).pinRegion p.context (p.bank / 64) p.entry) s

/-- Whether an access of an operation waits so: the others of the word wait with it. -/
def State.heldOp (s : State) (o : Op) : Bool := o.lanes.any fun l => !l.finished && match l.place with
  | .memory x => s.held x
  | _ => false

/-! ## Cache control and prefetch (R192, R193) -/

/-- CWB and CINV over one device-physical range (R193): dirty L1 lines go home, and for CINV no line of the range stays; at host and
pod scope the same for the lines of the L2. -/
def State.cacheRange (s : State) (core scope : Nat) (invalidate : Bool) (pa n : Nat) : State :=
  let s := (s.l1s core).foldl (fun s c =>
    let s := s.writeBack c (inRange pa n)
    if invalidate then
      (((s.core c).lines.filter fun e => inRange pa n (128 * e.1 + 127)).map (·.1)).foldl (fun s l => s.dropLine c l) s
    else s) s
  if 5 ≤ scope then
    (s.l2Within pa n).foldl (fun s l =>
      if invalidate then s.dropL2 l
      else s.cleanL2 l) s
  else s

/-- What a cache-control word does (R193): at cluster scope or wider, to the lines of its range on pages that translate. -/
def State.cacheControl (s : State) (core ctx scope : Nat) (invalidate : Bool) (first last : Nat) : State :=
  if 2 ≤ scope then
    s.onRange ctx (first / 128 * 128) ((last + 127) / 128 * 128) fun s pa n => s.cacheRange core scope invalidate pa n
  else s

/-- Prefetch of the line of an address (R192): into the issuing core's L1 at squad, team and cluster scope, into the home slice at
die and package scope; a lane that does not translate for reading, or lies on a page with ZP set, is dropped. -/
def State.prefetchLine (s : State) (core ctx scope va : Nat) : State :=
  if inPodWindow va ∨ 2 ^ 48 ≤ va ∨ 5 ≤ scope then s
  else
    match (s.walkBoth (contextVf ctx) (contextIface ctx) va .read true).2 with
    | .error _ => s
    | .ok e =>
      let x := e.xlateFor ctx (va / 128 * 128)
      if s.zpSet x ∨ s.held x then s
      else
        let x := s.homed x
        if scope ≤ 2 then (if x.nc then s else s.fillLines core x 1)
        else s.reach (dieOf core) x 128 false

end Sys2Proof.Machine
end

