-- ==== Sys2Proof/Machine/Queues.lean ====
section
/-! DEFINITION. The rings in host memory (R401), fault, service and event records and their routes (R376, R391, R402). -/

namespace Sys2Proof.Machine

/-- Device-physical address of host memory behind a port (R169). -/
def portMemory (port : Nat) : Nat := if port = 0 then 0x100000000000 else 0x200000000000

/-- The port of a partition (R398). -/
def State.portOf (s : State) (vf : Nat) : Nat := if has (s.reg (packageBase + 0x20)) vf then 1 else 0

/-- A ring: where its registers lie, the port its memory lies behind, and the function and vector that it raises. -/
structure Ring where
  off : Nat
  port : Nat
  fn : Nat
  vector : Nat
  deriving DecidableEq, Repr

/-- The rings of a level-2 interface raise vector 1 + i of the VF (R398). -/
def State.ring2 (s : State) (vf iface off : Nat) : Ring := ⟨ifaceBase vf iface + off, s.portOf vf, 2 + vf, 1 + iface⟩

/-- The rings of level 1 raise vector 0 of the VF (R398). -/
def State.ring1 (s : State) (vf off : Nat) : Ring := ⟨partBase vf + off, s.portOf vf, 2 + vf, 0⟩

/-- The rings of level 0, and those of PF 1 behind port 1 (R398, R399; log 13). -/
def ring0 (pf off : Nat) : Ring := ⟨packageBase + off, pf, pf, 0⟩

/-- Entries of a ring (R401). -/
def ringSize (ctl : DWord) : Nat := 2 ^ (bits ctl 51 48 + 4)

/-- Entries produced and not consumed (R401). -/
def ringUsed (ctl : DWord) : Nat := (bits ctl 31 16 + 65536 - bits ctl 15 0) % 65536

/-- Whether a ring takes an entry now (R401). A SIZE of 12 to 15 is stored and the ring then takes none: the model's choice (log 115). -/
def State.ringRoom (s : State) (r : Ring) : Bool :=
  let ctl := s.reg (r.off + 8)
  has ctl 63 && decide (bits ctl 51 48 ≤ 11) && decide (ringUsed ctl < ringSize ctl)

/-- Append an entry to a device-produced ring with room: the bytes at host scope, PROD, then the vector (R401). -/
def State.ringPut (s : State) (r : Ring) (bytes : List Byte) : State :=
  let ctl := s.reg (r.off + 8)
  let slot := bits ctl 31 16 % ringSize ctl
  let addr := bits (s.reg r.off) 63 6 * 64
  let s := s.homeWrite 0 (portMemory r.port + (addr + slot * bytes.length) % 2 ^ 44) bytes
  { s.setReg (r.off + 8) (withBits ctl 31 16 ((bits ctl 31 16 + 1) % 65536)) with
    out := s.out ++ [.interrupt r.fn r.vector] }

/-- A ring by the offset of its registers. -/
def State.ringAt (s : State) (off : Nat) : Ring :=
  if isPart off then
    let vf := (off - 0x10000000) / 0x800000
    if isIface off then s.ring2 vf ((inPart off - 0x100000) / 0x10000) (inIface off) else s.ring1 vf (inPart off)
  else ring0 0 (off - packageBase)

/-- A fault or service record: appended now, or it waits in the device (R401). -/
def State.postRecord (s : State) (r : Ring) (bytes : List Byte) : State :=
  if s.ringRoom r ∧ (s.waiting.all fun w => w.queue != r.off) then s.ringPut r bytes
  else { s with waiting := s.waiting ++ [⟨r.off, bytes, if r.fn = 1 then 1 else 0⟩] }

/-- An event record: appended, or dropped and counted (R401). -/
def State.postEvent (s : State) (r : Ring) (bytes : List Byte) : State :=
  if s.ringRoom r then s.ringPut r bytes
  else
    let ctl := s.reg (r.off + 8)
    s.setReg (r.off + 8) (withBits ctl 47 32 (min 65535 (bits ctl 47 32 + 1)))

/-- Records that wait on a ring are appended while it has room, in order, each for the function that it goes to (R401). -/
def State.drainWaiting (s : State) (r : Ring) : List Waiting → State
  | [] => s
  | w :: ws =>
    if w.queue = r.off ∧ s.ringRoom r then
      let s := s.ringPut (if isPart r.off then r else ring0 w.pf (r.off - packageBase)) w.bytes
      State.drainWaiting { s with waiting := s.waiting.erase w } r ws
    else s.drainWaiting r ws

/-- An event record (R391): kind, reason, launch, gang, team, and the value found. -/
def eventRecord (kind reason : Nat) (launch : Nat) (gang team : Nat) (value : Nat) : List Byte :=
  leBytes kind 1 ++ leBytes reason 1 ++ leBytes 0 6 ++ leBytes launch 8 ++ leBytes gang 4 ++ leBytes team 1 ++
  leBytes 0 3 ++ leBytes value 8

/-- An event to level 2 of an interface (R376). -/
def State.event2 (s : State) (vf iface : Nat) (b : List Byte) : State := s.postEvent (s.ring2 vf iface 0x280) b

/-- An event to level 1 of a partition (R376). -/
def State.event1 (s : State) (vf : Nat) (b : List Byte) : State := s.postEvent (s.ring1 vf 0x720) b

/-- An event to level 0 (R376). -/
def State.event0 (s : State) (b : List Byte) : State := s.postEvent (ring0 0 0x220) b

/-- An event to PF 1, for what it did itself (R376; log 13). -/
def State.eventPf1 (s : State) (b : List Byte) : State := s.postEvent (ring0 1 0x220) b

/-- An event to levels 2 and 1 of an interface (R376). -/
def State.eventBoth (s : State) (vf iface : Nat) (b : List Byte) : State := (s.event2 vf iface b).event1 vf b

/-- Event kinds (R391, R402). -/
def evAuth : Nat := 1
def evReplay : Nat := 2
def evSkip : Nat := 3
def evExhausted : Nat := 4
def evImage : Nat := 5
def evSealed : Nat := 6
def evResumed : Nat := 7
def evDestroyed : Nat := 8
def evMchk : Nat := 9
def evRefused : Nat := 10
def evSubmit : Nat := 11
def evThermal : Nat := 12
def evScrubbed : Nat := 13

/-- The fault ring of an owner (R376, R399). -/
def State.faultRing (s : State) : Agent → Ring
  | .level0 => ring0 0 0x200
  | .pf1 => ring0 1 0x200
  | .level1 v => s.ring1 v 0x700
  | .level2 v i => s.ring2 v i 0x260

/-- Whether a fault record still waits to be appended: its timeout has not begun (R401). -/
def State.unsent (s : State) (x : Fault2) : Bool :=
  s.waiting.any fun w => w.queue == (s.faultRing x.owner).off && w.bytes == x.bytes

/-- Send a fault record of an entry of a core's fault buffer (R177, R179). -/
def State.sendFault (s : State) (core entry : Nat) (x : Fault2) (ctx : Nat) (f : WalkFault) (kind : AccessKind) : State :=
  let vf := contextVf ctx
  let iface := contextIface ctx
  let owner := s.faultOwner vf iface f
  let num := if f.stage = 2 then core else (s.logicalCore? ctx core).getD 0
  let bytes := faultRecord f kind vf iface entry x.gen.toNat num
  let c := s.core core
  let s := s.setCore core { c with faults := c.faults.set entry { x with owner, bytes } }
  s.postRecord (s.faultRing owner) bytes

end Sys2Proof.Machine
end

