-- ==== Sys2Proof/Machine/Perform.lean ====
section
/-! DEFINITION. Performing outstanding operations: loads, stores, atomics, tensor words, tile words and promotion, and
what each leaves in its squad when it completes. One squad's accesses are performed in issue order (R155, R188, R303). -/

namespace Sys2Proof.Machine

/-! ## Completion -/

/-- The holds of a squad's operation end and their tokens return (R264). -/
def State.endHolds (s : State) (core k id : Nat) : State :=
  let cl := clusterOf core
  let x := s.cluster cl
  let mine := x.holds.filter fun h => h.2.squad == k && h.2.op == some id
  match mine with
  | [] => s
  | _ =>
    let x := mine.foldl (fun x h => x.giveBack h.2.stop h.2.tokens) x
    s.setCluster cl { x with holds := x.holds.filter fun h => !(h.2.squad == k && h.2.op == some id) }

/-- The tiles an operation touches. -/
def OpKind.tiles : OpKind → List Nat
  | .mma _ _ _ parts => parts.map (·.tile)
  | .accRead _ t _ _ => t.toList
  | .accWrite t _ _ _ => [t]
  | .accLoad t _ _ => [t]
  | .accStore t => t.toList
  | _ => []

/-- Retired tiles of a core that no outstanding operation touches return (R241). -/
def State.dropRetired (s : State) (core : Nat) : State :=
  let c := s.core core
  if c.tiles.any fun t => t.2.retired then
    let used := s.squads.foldl (fun acc e =>
      if e.2.core = core then acc ++ ((e.2.ops.filter fun o => !o.finished).map fun o => o.kind.tiles).flatten else acc) []
    s.setCore core { c with tiles := c.tiles.filter fun t => !t.2.retired || used.contains t.1 }
  else s

/-- An operation completes: its flag, its counter, its tokens, its retired tiles (R24, R60, R241, R264). -/
def State.finishOp (s : State) (k id : Nat) : State :=
  match s.squads.get? k with
  | none => s
  | some q => (((s.setSquad k (q.complete id)).endHolds q.core k id)).dropRetired q.core

/-- Write the lanes of a bound name in place, as an arriving value does (R26, R199). -/
def Squad.fill (q : Squad) (n : Nat) (lanes : Mask) (f : Nat → Word) : Squad :=
  match at' q.vregs n none with
  | none => q
  | some b => { q with vregs := put q.vregs n (some { b with lanes := lanesOf fun i => if has lanes i then f i else lane b.lanes i }) }

/-- A trap that waits for a clause boundary (R97). -/
def Squad.pend (q : Squad) (c : Cause) (v : DWord) : Squad := { q with pending := q.pending ++ [⟨c, v⟩] }

/-! ## Lane accesses -/

/-- Free bytes: data that the spec does not determine (log 3). -/
def State.freeBytes (s : State) (n : Nat) : State × List Byte :=
  ({ s with fresh := s.fresh + (n + 7) / 8 }, (List.range n).map fun i =>
    (Config.freeWord (s.fresh + i / 8)).extractLsb' (8 * (i % 8)) 8)

/-- The team that a window address names, if its gang still holds it and the tickets agree (R160). -/
def State.windowTeam (s : State) (q : Squad) (i : Nat) : Option Nat :=
  match s.gangOf q with
  | none => none
  | some g =>
    match g.teams[i]? with
    | none => none
    | some t =>
      match s.teams.get? t with
      | none => none
      | some x =>
        if ((s.gangs.get? x.gang).map (·.ticket)) == some g.ticket then some t else none

/-- Whether a pod-window access of a squad gets to its exporter: over a trained link that joins it (R404). -/
def State.reached (s : State) (q : Squad) (va : Nat) : Bool :=
  let ctx := s.contextOf q
  s.reachesPeer (bits (s.reg (ifaceBase (contextVf ctx) (contextIface ctx) + 0x1000 + 16 * (va / 2 ^ 36 % 256))) 31 16)

/-- Read the bytes of one lane; the flag says that the access was refused. -/
def State.laneLoad (s : State) (q : Squad) (scope n : Nat) (l : LaneAccess) : State × List Byte × Bool :=
  match l.place with
  | .memory x => match s.loadAt q.core scope x n with
    | (s, b) => (s, b, false)
  | .scratch a => (s, s.scratchLoad q.team a n, false)
  | .window i a => match s.windowTeam q i with
    | some t => (s, s.scratchLoad t a n, false)
    | none => (s, List.replicate n 0, true)
  | .pod va =>
    let refused := !s.reached q va
    if l.result.length = n then (s, l.result, refused)
    else match s.freeBytes n with
      | (s, b) => (s, b, refused)

/-- Write the bytes of one lane; the flag says that the access was refused. A write to a peer is sent, performed at the exporter and
acknowledged in one step, so that a release never finds one under way (R404, R406; log 123). -/
def State.laneStore (s : State) (q : Squad) (scope : Nat) (l : LaneAccess) (bs : List Byte) : State × Bool :=
  match l.place with
  | .memory x => (s.storeAt q.core scope x bs, false)
  | .scratch a => (s.scratchStore q.team a bs, false)
  | .window i a => match s.windowTeam q i with
    | some t => (s.scratchStore t a bs, false)
    | none => (s, true)
  | .pod va =>
    let ctx := s.contextOf q
    match s.podRoute (contextVf ctx) (contextIface ctx) va .write with
    | .ok (pkg, h, off) =>
      if s.reachesPeer pkg then
        ({ s.carryOut ctx (dieOf q.core) bs.length with out := s.out ++ [.podWrite pkg h off bs] }, false)
      else (s, true)
    | .error _ => (s, true)

/-- New value of an atomic operation on `w` bytes (R298). -/
def atomicNew (fn et w : Nat) (m x : Nat) : Nat :=
  let b := 8 * w
  let f := if et = 11 then fmtF64 else fmtF32
  match fn with
  | 0 => (m + x) % 2 ^ b
  | 1 => if intOf b true m ≤ intOf b true x then m else x
  | 2 => if intOf b true m ≤ intOf b true x then x else m
  | 3 => min m x
  | 4 => max m x
  | 5 => m &&& x
  | 6 => m ||| x
  | 7 => m ^^^ x
  | 8 => x
  | 9 => (f.add ⟨0, false, false⟩ m x 0).pat
  | 10 => (f.minMax false false m x).pat
  | _ => (f.minMax false true m x).pat

/-- The bytes an atomic leaves at its location, from the bytes it read; none when a compare fails (R298, R300). -/
def atomicBytes (kind : OpKind) (n : Nat) (old data : List Byte) : Option (List Byte) :=
  match kind with
  | .atomic fn et _ _ => some (leBytes (atomicNew fn et n (leNat old) (leNat data)) n)
  | .compareSwap _ => if old = data.take n then some (data.drop n) else none
  | _ => none

/-- An atomic's operation and element type in a message to its exporter (R294, R298): 12 is a compare-and-swap. -/
def OpKind.atomicCode : OpKind → Nat × Nat
  | .atomic fn et _ _ => (fn, et)
  | _ => (12, 0)

/-- Whether the function behind a host address may send AtomicOps (R302, R398). -/
def State.atomicsOn (s : State) (pa : Nat) : Bool := has (s.reg (deviceControl2 (if pa < 0x200000000000 then 0 else 1))) 6

/-- One lane of an atomic at its execution point, indivisibly (R294, R295, R299, R300). -/
def State.laneAtomic (s : State) (q : Squad) (scope n : Nat) (kind : OpKind) (l : LaneAccess) :
    State × List Byte × Bool :=
  match l.place with
  | .memory x =>
    if isHost x.pa && !s.atomicsOn x.pa then (s, List.replicate n 0, true)
    else
      let scope := if isHost x.pa then 5 else scope
      let s := s.touch x
      let y := s.homed x
      let s := if scope ≤ 1 ∧ x.nc = false then s.recallFor q.core y.pa n else s.recall none y.pa n
      match s.loadAt q.core scope x n with
      | (s, old) =>
        match atomicBytes kind n old l.data with
        | some new => (s.storeAt q.core scope x new, old, false)
        | none => (s, old, false)
  | .pod va =>
    match s.laneLoad q scope n l with
    | (s, old, r) =>
      let ctx := s.contextOf q
      match s.podRoute (contextVf ctx) (contextIface ctx) va .atomic with
      | .ok (pkg, h, off) =>
        if r then (s, old, true)
        else ({ s.carryOut ctx (dieOf q.core) l.data.length with
          out := s.out ++ [.podAtomic pkg h off kind.atomicCode.1 kind.atomicCode.2 l.data] }, old, false)
      | .error _ => (s, old, true)
  | _ =>
    match s.laneLoad q scope n l with
    | (s, old, true) => (s, old, true)
    | (s, old, false) =>
      match atomicBytes kind n old l.data with
      | some new => match s.laneStore q scope l new with
        | (s, r) => (s, old, r)
      | none => (s, old, false)

/-- Whether an operation reads memory, writes it or does both. -/
inductive Doing where
  | reads | writes | updates | neither
  deriving DecidableEq, Repr

/-- What an operation does to the locations of its lanes. -/
def OpKind.doing : OpKind → Doing
  | .vload _ => .reads
  | .sload _ => .reads
  | .store => .writes
  | .atomic .. => .updates
  | .compareSwap _ => .updates
  | .acqp .. => .reads
  | .tidset _ => .reads
  | .tidget _ => .writes
  | .accLoad .. => .reads
  | .accStore _ => .writes
  | .deposit .. => .neither
  | .svc .. => .neither
  | .claim .. => .neither
  | .query .. => .neither
  | .cache .. => .neither
  | .mma .. => .neither
  | .accRead .. => .neither
  | .accWrite .. => .neither

/-- The lanes of a load that read one element at a peer receive one value (R188): what came for the first of them, or a free one. -/
def State.podValues (s : State) (n : Nat) (ls : List LaneAccess) : State × List LaneAccess :=
  ls.foldl (fun acc l =>
    match l.place with
    | .pod _ =>
      if l.finished then (acc.1, acc.2 ++ [l])
      else match acc.2.find? fun x => x.place == l.place && !x.refused with
        | some x => (acc.1, acc.2 ++ [{ l with result := x.result }])
        | none =>
          if l.result.length = n then (acc.1, acc.2 ++ [l])
          else match acc.1.freeBytes n with
            | (s, b) => (s, acc.2 ++ [{ l with result := b }])
    | _ => (acc.1, acc.2 ++ [l])) (s, [])

/-- Perform the lanes that are not finished, in order, collecting what they read (R187, R299). -/
def State.lanesDo (s : State) (q : Squad) (scope n : Nat) (kind : OpKind) : List LaneAccess → State × List LaneAccess
  | [] => (s, [])
  | l :: ls =>
    if l.finished then
      match s.lanesDo q scope n kind ls with
      | (s, r) => (s, l :: r)
    else
      let (s, l) := match kind.doing with
        | .reads => match s.laneLoad q scope n l with
          | (s, b, r) => (s, { l with result := b, finished := true, refused := r })
        | .writes => match s.laneStore q scope l l.data with
          | (s, r) => (s, { l with finished := true, refused := r })
        | .updates => match s.laneAtomic q scope n kind l with
          | (s, b, r) => (s, { l with result := b, finished := true, refused := r })
        | .neither => (s, { l with finished := true })
      match s.lanesDo q scope n kind ls with
      | (s, r) => (s, l :: r)

/-! ## What each operation leaves in its squad -/

/-- The lanes of an operation. -/
def Op.laneMask (o : Op) : Mask := maskOf fun i => o.lanes.any fun l => l.lane == i

/-- The value that lane `i` read. -/
def resultOf (ls : List LaneAccess) (i : Nat) : Nat :=
  ((ls.find? fun l => l.lane == i).map fun l => leNat l.result).getD 0

/-- Registers from `d` up receive what the lanes read, 4 bytes in each (R188, R300). -/
def Squad.deliver (q : Squad) (d n : Nat) (ls : List LaneAccess) : Squad :=
  let m := maskOf fun i => ls.any fun l => l.lane == i
  (List.range ((n + 3) / 4)).foldl
    (fun q j => q.fill (d + j) m fun i => BitVec.ofNat 32 (resultOf ls i / 2 ^ (32 * j))) q

/-- Whether a descriptor may be installed valid (R217). -/
def validDescriptor (d : Descriptor) (scratch stack : Nat) : Bool :=
  let f := d.extractLsb' 0 256
  let fld := fun (lo len : Nat) => f.toNat / 2 ^ lo % 2 ^ len
  match fmtOf (fld 44 5) with
  | none => false
  | some fmt =>
    let rows := fld 88 20
    let cols := fld 108 20
    let stride := fld 56 32
    let base := fld 0 44 * 16
    let space := fld 49 2
    let rowBytes := (cols * fmt.bits + 7) / 8
    let last := base + (rows - 1) * stride + rowBytes
    fld 52 4 == 0 && rows != 0 && cols != 0 && (fmt.bits != 4 || cols % 2 == 0) &&
    (if space = 2 then
      -- bits [47:21] and [16:12] of the address are 0, and the stripe extent fits the share (R216, R217)
      base / 2 ^ 21 == 0 && base / 2 ^ 12 % 32 == 0 &&
      decide (base / 2 ^ 17 % 16 + (cols + 31) / 32 ≤ 16) &&
      decide (base % 2 ^ 12 + (rows * fmt.bits + 7) / 8 + (if fmt.scaled then (rows + fmt.block - 1) / fmt.block else 0)
        ≤ stack / 512)
    else
      decide (rowBytes ≤ stride) && (if space = 1 then decide (last ≤ scratch) else decide (last ≤ 2 ^ 48)))

/-- A descriptor as it is installed: V as R217 decides, and the reserved bits 0 (R7, R216). -/
def installed (d : Descriptor) (scratch stack : Nat) : Descriptor :=
  let clear : Descriptor := d &&& ~~~(0x1F#256 <<< 51)
  if validDescriptor d scratch stack then clear ||| (1#256 <<< 51) else clear

/-- Install an entry of a team's tensor table (R217). -/
def State.install (s : State) (q : Squad) (n : Nat) (d : Descriptor) : State :=
  match s.teamOf q with
  | none => s
  | some t =>
    let stack := ((s.launchOf q).map (·.stack)).getD 0
    s.setTeam q.team { t with tensors := put t.tensors n (installed d (s.scratchSize q) stack) }

/-- The asynchronous traps of refused lanes: GANGTKT with the team of the first one (R160), and ACCESS for each lane that an
exporter or a host refused (R186, R302). -/
def refusalsOf (ls : List LaneAccess) : List Pending :=
  let refused := ls.filter (·.refused)
  match refused.findSome? fun l => match l.place with
    | .window i _ => some i
    | _ => none with
  | some i => [⟨.gangtkt, BitVec.ofNat 64 i⟩]
  | none => refused.map fun l => ⟨.access, l.va⟩

/-! ## Promotion (R288, R289) -/

/-- Die scope reaches a core of the same die, cluster scope one of the same cluster: the wider of a scope and the
narrowest that holds both cores (R288). -/
def promotionScope (scope a b : Nat) : Nat :=
  max scope (if clusterOf a = clusterOf b then 2 else if dieOf a = dieOf b then 3 else 4)

/-- Whether a core holds a resident team of a context (R288, R290). -/
def State.residentOn (s : State) (core ctx : Nat) : Bool :=
  s.teams.any fun t => t.2.core == core &&
    (match s.gangs.get? t.2.gang with
     | none => false
     | some g => (g.phase == .running) &&
       (match s.launches.get? g.launch with
        | none => false
        | some l => logContext l.context == logContext ctx))

/-- Serve a promotion request at its target: the promoted entries and the status (R288). -/
def State.promote (s : State) (ctx target : Nat) : State × Nat × Nat :=
  let n := ((s.core target).log.filter fun e => e.context == logContext ctx).length
  if n = 0 then (s, 0, if s.residentOn target ctx then 1 else 2)
  else (s.promoteContext target (logContext ctx), n, 0)

/-! ## Tile words (R241 to R251) -/

/-- A tile slot's contents. -/
def State.tile (s : State) (core t : Nat) : Option Tile := (s.core core).tiles.get? t

/-- Replace a tile. -/
def State.setTile (s : State) (core t : Nat) (x : Tile) : State :=
  let c := s.core core
  s.setCore core { c with tiles := c.tiles.set t x }

/-- The incoming value of a cell of a part (R245). -/
def MmaPart.incoming (p : MmaPart) (t : Tile) (e : Nat) : Option Word := if p.fresh then none else some (t.words.getD e 0)

/-- One cell of a part: from its start, or on from the partial sum at which a halt stopped it (R245, R252). -/
def MmaPart.cell (p : MmaPart) (o : Operands) (ftz sat : Bool) (t : Tile) (e : Nat) : Nat × Bool :=
  let kb := o.fmtA.kb
  let r := p.rowBase + e / 32
  let c := p.colBase + e % 32
  if p.steps = 0 then o.element ftz sat kb r c (p.incoming t e)
  else o.resumed ftz sat kb r c (p.incoming t e) (p.steps * (kb / 32)) (p.cells.getD e 0)

/-- Compute one part of a matrix operation into its tile (R245, R246), whose TYPE was set at issue (R241). -/
def State.runPart (s : State) (core : Nat) (o : Operands) (ftz sat : Bool) (p : MmaPart) : State :=
  match s.tile core p.tile with
  | none => s
  | some t =>
    let r := (List.range 1024).map fun e => p.cell o ftz sat t e
    s.setTile core p.tile { t with
      words := r.map fun x => BitVec.ofNat 32 x.1
      ovf := (if p.fresh then false else t.ovf) || r.any (·.2) }

/-- Read one row of a tile; an unbound name reads zeros (R250). -/
def State.tileRow (s : State) (core : Nat) (t : Option Nat) (row i : Nat) : Word :=
  match t with
  | none => 0
  | some t => ((s.tile core t).map fun x => x.words.getD (32 * row + i) 0).getD 0

/-- Change one operation of a squad. -/
def State.onOp (s : State) (k id : Nat) (f : Op → Op) : State :=
  s.onSquad k fun q => { q with ops := q.ops.map fun o => if o.id == id then f o else o }

/-- An outstanding operation of a squad that has been issued: not one of a halted squad, nor one of an older generation (R62,
R335); a replay packet is not, until it is translated (R335), and a resumed matrix record does not go on until it has captured
its price (R269). -/
def State.op? (s : State) (k id : Nat) : Option (Squad × Op) :=
  (s.squads.get? k).bind fun q =>
    if q.halted then none
    else (q.ops.find? fun o => o.id == id && !o.finished && !o.translate && !o.asks && o.gen == q.gen).map fun o => (q, o)

/-- Whether an operation of a squad is outstanding, issued or not. -/
def State.outstanding (s : State) (k id : Nat) : Bool :=
  ((s.squads.get? k).map fun q => q.ops.any fun o => o.id == id && !o.finished).getD false

/-- The tile words earlier than one, on tiles it touches, of its squad (R242). -/
def Squad.earlierOnTiles (q : Squad) (id : Nat) (ts : List Nat) : List Nat :=
  ((q.ops.takeWhile fun o => o.id != id).filter fun o => !o.finished && o.kind.tiles.any fun t => ts.contains t).map (·.id)

/-- Take an operation off the sub-arrays it stands on (R232). -/
def State.leaveSubs (s : State) (core k id : Nat) : State :=
  let c := s.core core
  s.setCore core { c with subs := c.subs.map fun (e : Nat × List (Nat × Nat × Nat)) =>
    (e.1, e.2.filter fun x => !(x.1 == k && x.2.1 == id)) }

/-- Bytes a tile word stores: element by element (R251). -/
def elementBytes (w : Word) : List Byte := leBytes w.toNat 4

/-- Perform one tile word, after what it must follow: earlier words on its tiles (R242) and earlier matrix words on its
sub-arrays (R232). While one of these cannot be performed yet, neither is it (R232, R242, R252, R269, R335). -/
def State.runTile : Nat → State → Nat → Nat → State
  | 0, s, _, _ => s
  | fuel + 1, s, k, id =>
    match s.op? k id with
    | none => s
    | some (q, o) =>
      let before := q.earlierOnTiles id o.kind.tiles
      let s := before.foldl (fun s x => State.runTile fuel s k x) s
      if before.any (s.outstanding k) || s.heldOp o then s
      else match o.kind with
      | .mma ops ftz sat parts =>
        let ahead := (parts.map fun p => ((s.core q.core).subs.getD p.sub []).takeWhile fun x => !(x.1 == k && x.2.1 == id)).flatten
        let s := ahead.foldl (fun s x => State.runTile fuel s x.1 x.2.1) s
        if ahead.any fun x => s.outstanding x.1 x.2.1 then s
        else
          let s := (parts.filter fun p => !p.finished).foldl (fun s p => s.runPart q.core ops ftz sat p) s
          (s.leaveSubs q.core k id).finishOp k id
      | .accRead d t row m =>
        (s.onSquad k fun q' => q'.fill d.toNat m fun i => s.tileRow q.core t row i).finishOp k id
      | .accWrite t row m data =>
        match s.tile q.core t with
        | none => s.finishOp k id
        | some x =>
          let words := (List.range 1024).map fun e =>
            if e / 32 = row ∧ has m (e % 32) then lane data (e % 32) else x.words.getD e 0
          (s.setTile q.core t { x with words }).finishOp k id
      | .accLoad t _ _ =>
        match s.lanesDo q o.scope 4 o.kind o.lanes with
        | (s, ls) =>
          let words := ls.map fun l => BitVec.ofNat 32 (leNat l.result)
          let s := match s.tile q.core t with
            | some x => s.setTile q.core t { x with words }
            | none => s
          (s.onSquad k fun q => { q with pending := q.pending ++ refusalsOf ls }).finishOp k id
      | .accStore t =>
        let ls := o.lanes.map fun l => { l with data := elementBytes (s.tileRow q.core t (l.lane / 32) (l.lane % 32)) }
        match s.lanesDo q o.scope 4 o.kind ls with
        | (s, ls) => (s.onSquad k fun q => { q with pending := q.pending ++ refusalsOf ls }).finishOp k id
      | _ => s

/-- Enough for every chain of tile words. -/
def tileFuel : Nat := 4096

/-! ## Performing an operation -/

/-- Whether a store is that of a VSTR, which releases first (R285). -/
def Op.releases (o : Op) : Bool := match o.instr with
  | .vstrW .. => true
  | .vstrD .. => true
  | _ => false

/-- Perform an operation and complete it, unless an access of it waits at a retraining stack or at a home that passes (R273, R320).
Deposits, service calls and CLAIM have steps of their own. -/
def State.perform (s : State) (k id : Nat) : State :=
  match s.op? k id with
  | none => s
  | some (q, o) =>
    if s.heldOp o then s
    else match o.kind with
    | .mma .. => State.runTile tileFuel s k id
    | .accRead .. => State.runTile tileFuel s k id
    | .accWrite .. => State.runTile tileFuel s k id
    | .accLoad .. => State.runTile tileFuel s k id
    | .accStore _ => State.runTile tileFuel s k id
    | .deposit .. => s
    | .svc .. => s
    | .claim .. => s
    | .query d v => (s.onSquad k fun q => q.setSreg d.toNat v).finishOp k id
    | .cache inv first last => (s.cacheControl q.core (s.contextOf q) o.scope inv first last).finishOp k id
    | .acqp d core scope =>
      let e := promotionScope scope q.core core
      match s.promote (s.contextOf q) core with
      | (s, n, st) =>
        match s.lanesDo q e 4 o.kind o.lanes with
        | (s, ls) =>
          let v := resultOf ls 0 % 2 ^ 32 + st * 2 ^ 32 + n % 256 * 2 ^ 40
          (s.onSquad k fun q => { q.setSreg d.toNat (BitVec.ofNat 64 v) with pending := q.pending ++ refusalsOf ls }).finishOp k id
    | .vload d =>
      let (s, lanes) := s.podValues o.size o.lanes
      match s.lanesDo q o.scope o.size o.kind lanes with
      | (s, ls) =>
        (s.onSquad k fun q => { q.deliver d.toNat o.size ls with pending := q.pending ++ refusalsOf ls }).finishOp k id
    | .sload d =>
      match s.lanesDo q o.scope o.size o.kind o.lanes with
      | (s, ls) =>
        (s.onSquad k fun q => { q.setSreg d.toNat (BitVec.ofNat 64 (resultOf ls 0)) with
          pending := q.pending ++ refusalsOf ls }).finishOp k id
    | .store =>
      -- the release of a VSTR takes effect before its store (R285, R286)
      let s := if o.releases then s.release q.core (s.contextOf q) o.scope else s
      match s.lanesDo q o.scope o.size o.kind o.lanes with
      | (s, ls) =>
        let s := if o.releases then s.ownStore q.core o.scope else s
        (s.onSquad k fun q => { q with pending := q.pending ++ refusalsOf ls }).finishOp k id
    | .atomic _ _ returns d =>
      match s.lanesDo q o.scope o.size o.kind o.lanes with
      | (s, ls) =>
        (s.onSquad k fun q => { (if returns then q.deliver d.toNat o.size ls else q) with
          pending := q.pending ++ refusalsOf ls }).finishOp k id
    | .compareSwap d =>
      match s.lanesDo q o.scope o.size o.kind o.lanes with
      | (s, ls) =>
        (s.onSquad k fun q => { q.deliver d.toNat o.size ls with pending := q.pending ++ refusalsOf ls }).finishOp k id
    | .tidset n =>
      match s.lanesDo q o.scope 32 o.kind o.lanes with
      | (s, ls) =>
        let s := s.install q n.toNat (BitVec.ofNat 256 (resultOf ls 0))
        (s.onSquad k fun q => { q with pending := q.pending ++ refusalsOf ls }).finishOp k id
    | .tidget _ =>
      match s.lanesDo q o.scope 32 o.kind o.lanes with
      | (s, ls) => (s.onSquad k fun q => { q with pending := q.pending ++ refusalsOf ls }).finishOp k id

/-- Whether a fence or a release makes an operation perform (R283): accesses to memory, scratchpad and window. -/
def OpKind.forced : OpKind → Bool
  | .deposit .. => false
  | .svc .. => false
  | .claim .. => false
  | .query .. => false
  | .mma .. => false
  | .accRead .. => false
  | .accWrite .. => false
  | _ => true

/-- The outstanding accesses of a squad that come before an operation, or all of them, issued or not. -/
def Squad.pendingBefore (q : Squad) (id : Option Nat) : List Op :=
  let l : List Op := match id with
    | some n => q.ops.takeWhile fun o => o.id != n
    | none => q.ops
  l.filter fun o => !o.finished && o.kind.forced

/-- Whether an access of a squad that comes before an operation is still outstanding. -/
def State.unperformed (s : State) (k : Nat) (id : Option Nat) : Bool :=
  ((s.squads.get? k).map fun q => !(q.pendingBefore id).isEmpty).getD false

/-- Perform the accesses before an operation in issue order, each only once those before it are performed. -/
def State.performEach (s : State) (k : Nat) (ids : List Nat) : State :=
  ids.foldl (fun s x => if s.unperformed k (some x) then s else s.perform k x) s

/-- Perform the outstanding accesses of a squad that come before an operation, in issue order; sweeps do not end for them. -/
def State.performEarlier (s : State) (k : Nat) (id : Option Nat) : State :=
  match s.squads.get? k with
  | none => s
  | some q => s.performEach k ((q.pendingBefore id).map (·.id))

/-- End a sweep and perform the writes that wait for it, in arrival order, each after its squad's earlier accesses (R183,
R275). -/
def State.endSweep (s : State) (w : Sweep) : State :=
  w.waiting.foldl (fun s x => (s.performEarlier x.1 (some x.2)).performEach x.1 [x.2])
    ({ s with sweeps := s.sweeps.erase w }.sweepEnd w.leaf)

/-- End every sweep in progress (R183). -/
def State.settleSweeps (s : State) : State := s.sweeps.foldl State.endSweep s

/-- Perform the outstanding accesses of a squad that come before an operation, in issue order. -/
def State.performBefore (s : State) (k : Nat) (id : Option Nat) : State := s.settleSweeps.performEarlier k id

/-- Perform every outstanding access of a squad. -/
def State.performAll (s : State) (k : Nat) : State := s.performBefore k none

/-- Perform an operation after the squad's earlier accesses (R155, R188); it waits while one of them does. -/
def State.performInOrder (s : State) (k id : Nat) : State := (s.performBefore k (some id)).performEach k [id]

/-- Accesses that no longer wait, since a state, at a retraining stack, at a passing home or at a locked page are performed, in the
order in which they issued (R185, R273, R320; log 99). -/
def State.resumed (s before : State) : State :=
  let ready := s.squads.flatMap fun e =>
    (e.2.ops.filter fun o => !o.finished && before.heldOp o && !s.heldOp o).map fun o => (o.id, e.1)
  let inOrder : Tbl Nat := ready.foldl (fun t x => Tbl.set t x.1 x.2) []
  inOrder.foldl (fun s x => s.performInOrder x.2 x.1) s

/-- What the device reads or writes for a context where home passes or a stack retrains is done once that has ended, and after the
accesses that waited there (R273, R320; log 99). -/
def State.awaitHome (s : State) (x : Xlate) : State :=
  if s.retraining x.pa || s.passing x then (s.homeSettled x).resumed s else s

end Sys2Proof.Machine
end

