-- ==== Sys2Proof/Machine/Access.lean ====
section
/-! DEFINITION. Issuing a memory word: its addresses and lane checks (R35, R154, R159, R187), the counters and registers
it needs, translation, parking on a fault (R177), and the outstanding operation it becomes. -/

namespace Sys2Proof.Machine

/-- What a memory word is: the operation with its lanes, the names it reads and writes, the names it releases, the
names whose registers it reads until it is performed, and the ports it pops. -/
structure MemWord where
  op : Op
  names : List Nat := []
  dests : List Nat := []
  rels : List Nat := []
  held : List Nat := []
  pops : List Nat := []
  /-- A check of the word's own, made before its lanes. -/
  pre : Option Stop := none

/-- The address of each lane: base register plus offset slot (R35). -/
def Squad.addresses (q : Squad) (a : BitVec 5) (o : VSrc) : Nat → DWord :=
  let base := q.sreg a.toNat
  match o with
  | .vec r _ p =>
    let x := q.vreg r.toNat
    fun i => base + (lane x (q.patLane true p i)).signExtend 64
  | .sca r => fun _ => base + q.sreg r.toNat
  | .lit w => fun _ => base + w.signExtend 64
  | .bad _ => fun _ => base

/-- Bits [63:48] raise XLATE, then misalignment raises ALIGN (R187). -/
def laneCheck (size : Nat) (va : DWord) : Option Stop :=
  if va.toNat / 2 ^ 48 ≠ 0 then some (.trap .xlate va)
  else if va.toNat % size ≠ 0 then some (.trap .align va)
  else none

/-- The first lane of a list that fails a check (R154, R187). -/
def firstFail (check : LaneAccess → Option Stop) : List LaneAccess → Option Stop
  | [] => none
  | l :: ls =>
    match check l with
    | some e => some e
    | none => firstFail check ls

/-- The lanes of a vector memory word (R121, R187). -/
def laneList (lanes : Mask) (f : Nat → LaneAccess) : List LaneAccess := (lanesIn lanes).map f

/-- A path counter at 63 holds the word back (R61). -/
def Squad.counterGate (q : Squad) (path : Option Nat) : Option Stop :=
  match path with
  | none => none
  | some p => if 63 ≤ q.path p then some (.wait (.full p)) else none

/-- The physical registers of names (R199). -/
def Squad.tokensOf (q : Squad) (names : List Nat) : List Nat :=
  names.filterMap fun n => (at' q.vregs n none).map (·.token)

/-- The vector names bound at issue by an operation that returns values (R199). -/
def Squad.bindDests (q : Squad) (tok : Nat) (dests : List Nat) : Squad :=
  (dests.zipIdx).foldl (fun q d => q.bindName (tok + d.2) d.1 0 fun _ => 0) q

/-- An operation becomes outstanding: it takes its flag and path, binds its destinations, and releases last-read names
(R24, R60, R199, R200). -/
def State.launchOp (s : State) (u : Issuer) (q : Squad) (w : MemWord) (lanes : List LaneAccess) : State :=
  let id := s.nextId
  let reads := q.tokensOf w.held
  let op := { w.op with
    id
    pos := u.split.pos
    flag := u.split.flagOf w.op.loadClass
    lanes
    writes := nameMask w.dests
    reads
    gen := q.gen }
  let q := { q.popAll w.pops with ops := q.ops ++ [op] }
  let q := (w.rels.filter fun n => !w.dests.contains n).foldl Squad.release q
  let q := q.bindDests (id + 1) w.dests
  { s.setSquad u.key q with nextId := id + 1 + w.dests.length }

/-- Capture a faulting word in the core's fault buffer and park its squad, or wait for a free entry (R177, R178). -/
def State.park (s : State) (u : Issuer) (w : Option MemWord) (kind : AccessKind) (lane : Nat) (va : DWord)
    (f : WalkFault) : Result :=
  let q := u.squad
  let c := s.core q.core
  match c.freeFault with
  | none => .stops (.wait .faultBuffer) s
  | some e =>
    let gen := c.faultGen.getD e 0 + 1
    let rec_ : Fault2 := {
      squad := u.key, split := u.split.id, owner := .level0, lane, va, gen
      op := w.map fun x => { x.op with pos := u.split.pos, flag := u.split.flagOf x.op.loadClass, reads := q.tokensOf x.held, gen := q.gen }
      dests := (w.map (·.dests)).getD []
      rels := (w.map (·.rels)).getD []
      pops := (w.map (·.pops)).getD []
      kind
      bytes := [] }
    let s := s.setCore q.core { c with faults := c.faults.set e rec_, faultGen := c.faultGen.set e gen }
    let s := s.sendFault q.core e rec_ (s.contextOf q) f kind
    .stops (.wait .parked) ((s.onSquad u.key fun q => { q with parked := some e }).onSplit u.key u.split.id fun p =>
      { p with walked := none })

/-- Cycles that a memory word takes beyond the first (R191): one for each further line of 128 bytes that its lanes address. -/
def extraLines (ls : List LaneAccess) : Nat := (ls.map fun l => l.va.toNat / 128).eraseDups.length - 1

/-- Cycles that a scratchpad word takes beyond the first (R156): one for each further word of the bank that most of its distinct
words lie in; an allocation begins at bank 0. -/
def extraWords (size : Nat) (ls : List LaneAccess) : Nat :=
  let words := (ls.flatMap fun l => (List.range ((size + 3) / 4)).map fun j => l.va.toNat / 4 + j).eraseDups
  ((List.range 32).map fun b => (words.filter fun w => w % 32 == b).length).foldl max 0 - 1

/-- A memory word that issues counts its cycles beyond the first (R156, R191). -/
def State.tallyOp (s : State) (q : Squad) (o : Op) : State :=
  match o.path with
  | some 0 => s.tally q.core perfLines (extraLines o.lanes)
  | some 1 => s.tally q.core perfLines (extraLines o.lanes)
  | some 2 => s.tally q.core perfScratch (extraWords o.size o.lanes)
  | _ => s

/-- What a memory word that issues counts (R156, R191). -/
def State.tallyLanes (s : State) (q : Squad) (w : MemWord) : State := s.tallyOp q w.op

/-- Translate the lanes of a word and issue it (R175, R177, R187). -/
def State.issueAccess (s : State) (u : Issuer) (w : MemWord) : Result :=
  let kind := w.op.kind.access
  match s.translateLanes u kind w.op.lanes with
  | .walk va => .stops (.wait (.walk va)) (s.askWalk u va kind)
  | .fault l f =>
    s.park u (some w) kind l
      (((w.op.lanes.find? fun x => x.lane == l).map (·.va)).getD 0) f
  | .access va => .stops (.trap .access va) s
  | .placed ls => .takes .next ((s.launchOp u u.squad w ls).tallyLanes u.squad w)

/-- A word that accesses memory: names, lane checks, counter, registers, translation, in that order (R413). The lanes
that are not `translated` already have their places. -/
def State.memoryWord (s : State) (u : Issuer) (w : MemWord) (check : LaneAccess → Option Stop) (translated : Bool) :
    Result :=
  let q := u.squad
  match s.nameGate q (w.names ++ w.dests) with
  | some e => .stops e s
  | none =>
    match w.pre.or (firstFail check w.op.lanes) with
    | some e => .stops e s
    | none =>
      match q.counterGate w.op.path with
      | some e => .stops e s
      | none =>
        match s.poolGate q w.dests with
        | some e => .stops e s
        | none =>
          if translated then s.issueAccess u w else .takes .next ((s.launchOp u q w w.op.lanes).tallyLanes q w)

end Sys2Proof.Machine
end

