-- ==== Sys2Proof/Machine/Mode.lean ====
section
/-! DEFINITION. MODE and XP, the special registers, and BID (R37 to R39, R88 to R91, R94, R123, R209, R258, R259, R358,
R367, R410). -/

namespace Sys2Proof.Machine

/-- A 32-bit register with `len` bits from `lo` up replaced. -/
def modeBits (m : Word) (lo len x : Nat) : Word :=
  let k : Word := BitVec.ofNat 32 ((2 ^ len - 1) * 2 ^ lo)
  (m &&& ~~~k) ||| (BitVec.ofNat 32 (x * 2 ^ lo) &&& k)

/-- Write MODE; a reserved value raises ILLOP and leaves it unchanged (R38, R88). -/
def setModeOr (i : Instr) (u : Issuer) (s : State) (m : Word) : Result :=
  if modeLegal m then .takes .next (s.setSquad u.key { u.squad with mode := m }) else illop i s

/-- The price of the class at an index of the price table, and its HOLD (R257, R258). -/
def priceEntry (c : Nat) : DWord := BitVec.ofNat 64 (classPrice c + classHold c * 2 ^ 16)

/-- RING of a cluster (R259). -/
def State.ringReg (s : State) (cl : Nat) : DWord :=
  BitVec.ofNat 64 (s.cap cl + s.railState cl * 2 ^ 12 + (s.die (cl / 20)).railOf.getD (cl % 20) 0 * 2 ^ 16)

/-- SPOT of a class and logical die (R367, R417). -/
def State.spotReg (s : State) (ctx c l : Nat) : DWord :=
  match s.physDie? ctx l with
  | none => 0
  | some d =>
    match s.market.spot.getD ((contextVf ctx * 5 + c) * 8 + d) (0, 0) with
    | (price, sold) => BitVec.ofNat 64 (price % 2 ^ 32 + sold % 2 ^ 16 * 2 ^ 32)

/-- LEASE of a class and logical die (R367, R417). -/
def State.leaseReg (s : State) (ctx c l : Nat) : DWord :=
  match s.physDie? ctx l with
  | none => 0
  | some d => BitVec.ofNat 64 (s.unitsHeld ctx c d)

/-- Units of a class on a physical die that a context will hold in the next interval (R366). -/
def State.unitsNext (s : State) (ctx c d : Nat) : Nat :=
  ((List.range (unitsPerDie c)).filter fun x => s.market.next.get? (unitKey c (d * unitsPerDie c + x)) == some ctx).length

/-- LEASENEXT (R367, R417). -/
def State.leaseNextReg (s : State) (ctx : Nat) : DWord :=
  let m := s.market
  if m.noticed || m.lateNoticed then
    BitVec.ofNat 64 (2 ^ 63 + ((List.range 40).map fun b =>
      match s.physDie? ctx (b % 8) with
      | none => 0
      | some d =>
        if (if m.late.contains d then m.lateNoticed else m.noticed) && s.unitsNext ctx (b / 8) d < s.unitsHeld ctx (b / 8) d then 2 ^ b
        else 0).sum)
  else 0

/-- Units of a class in service on a physical die (R21). -/
def State.inService (s : State) (c d : Nat) : Nat :=
  ((List.range (unitsPerDie c)).filter fun x => !s.retired.contains (unitKey c (d * unitsPerDie c + x))).length

/-- The capability register of a logical die, by the place table as the last boundary found it (R410). -/
def State.unitsReg (s : State) (ctx l : Nat) : DWord :=
  match dieIn (s.context ctx).dies l with
  | none => 0
  | some d => BitVec.ofNat 64 (((List.range 5).map fun c => s.inService c d * 2 ^ (8 * c)).sum)

/-- A count that has moved on by a free amount and does not fall (R91, log 3). -/
def later (t w : DWord) : DWord := BitVec.ofNat 64 (min (2 ^ 64 - 1) (t.toNat + w.toNat))

/-- Tenths of GHz of a rail state (R271). -/
def railClock : Nat → Nat
  | 0 => 12 | 1 => 11 | 2 => 10 | _ => 8

/-- IVL on a core (R367): the interval in force on its die, and the cycles of its rail's clock from `now` to the interval's end. A late
die's interval goes on to its own boundary, whose time is free until its notices (R361; log 69). -/
def State.ivlReg (s : State) (core now : Nat) : DWord :=
  let m := s.market
  let f := railClock (s.railState (clusterOf core))
  let waits := m.late.contains (dieOf core) && !m.noticed
  let cycles := if waits && !m.lateNoticed then (Config.freeWord (s.fresh + 1)).toNat
    else (((if waits then m.lateEnd else m.finish) - now) * f + 9) / 10
  BitVec.ofNat 64 (cycles % 2 ^ 32 + (if waits then m.interval + 2 ^ 32 - 1 else m.interval) % 2 ^ 32 * 2 ^ 32)

/-- Read a special register (R89, R90): the state after, for the counters move, and the value. -/
def State.readSpecial (s : State) (u : Issuer) (i : Nat) : State × DWord :=
  let q := u.squad
  let ctx := s.contextOf q
  let core := q.core
  let pure := fun (v : DWord) => (s, v)
  if i = 0x000 then pure (q.mode.setWidth 64)
  else if i = 0x001 then pure (q.xp.setWidth 64)
  else if i = 0x002 then pure (q.fstat.setWidth 64)
  else if i = 0x010 then pure q.tvec
  else if i = 0x011 then pure q.tpc
  else if i = 0x012 then pure q.tcauseWord
  else if i = 0x013 then pure q.tval
  else if i = 0x014 then pure q.tmask
  else if i = 0x020 then pure q.arrv
  else if 0x030 ≤ i ∧ i ≤ 0x034 then pure ((s.identity q).getD (i - 0x030) 0)
  else if i = 0x040 then
    let c := s.core core
    let t := later c.clock s.free
    ((s.setCore core { c with clock := t }).spend, t)
  else if i = 0x041 then
    let t := later s.time s.free
    ({ s with time := t }.spend, t)
  else if i = 0x042 then pure (BitVec.ofNat 64 ((s.logicalCore? ctx core).getD 0))
  else if i = 0x043 then pure (BitVec.ofNat 64 ((s.logicalDie? ctx (dieOf core)).getD 0))
  else if 0x060 ≤ i ∧ i ≤ 0x07E then pure (priceEntry (i - 0x060))
  else if i = 0x07F then pure (s.ringReg (clusterOf core))
  else if 0x080 ≤ i ∧ i ≤ 0x0A7 then pure (s.spotReg ctx ((i - 0x080) / 8) ((i - 0x080) % 8))
  else if 0x0A8 ≤ i ∧ i ≤ 0x0CF then pure (s.leaseReg ctx ((i - 0x0A8) / 8) ((i - 0x0A8) % 8))
  else if i = 0x0D0 then pure ((s.reg (ifaceBase (contextVf ctx) (contextIface ctx) + 0x020)) &&& 0xFFFFFFFF#64)
  else if 0x0D8 ≤ i ∧ i ≤ 0x0DC then pure (at' (s.context ctx).bids (i - 0x0D8) 0)
  else if i = 0x0E0 then
    let t := later s.time s.free
    ({ s with time := t }.spend.spend, s.ivlReg core t.toNat)
  else if i = 0x0E1 then pure (s.leaseNextReg ctx)
  else if i = 0x100 then pure 0x0100
  else if 0x101 ≤ i ∧ i ≤ 0x108 then pure (s.unitsReg ctx (i - 0x101))
  else if i = 0x109 then pure s.market.pod
  else if i = 0x10A then pure (BitVec.ofNat 64 s.market.length)
  else pure 0

/-- Write a BID register of a context (R357, R358). -/
def State.writeBid (s : State) (ctx c : Nat) (v : DWord) : State :=
  let x := s.context ctx
  s.setContext ctx { x with bids := put x.bids c v }

/-- Write a special register under its access codes (R89, R94, R123, R209, R358). -/
def State.writeSpecial (s : State) (u : Issuer) (w : Instr) (i : Nat) (v : DWord) : Result :=
  let q := u.squad
  let done := fun (q : Squad) => Result.takes .next (s.setSquad u.key q)
  if i = 0x000 then setModeOr w u s (v.setWidth 32)
  else if i = 0x001 then done { q with xp := xpWrite (v.setWidth 32) }
  else if i = 0x002 then done { q with fstat := v.setWidth 5 }
  else if i = 0x010 then done { q with tvec := v &&& 0x0000FFFFFFFFFFFC#64 }
  else if i = 0x011 then done { q with tpc := v &&& 0x0007FFFFFFFFFFFC#64 }
  else if i = 0x012 then done { q with tcause := v.setWidth 6 }
  else if i = 0x013 then done { q with tval := v }
  else if i = 0x014 then done { q with tmask := withBits q.tmask 31 0 (bits v 31 0) }
  else if i = 0x020 then done { q with arrv := v }
  else if 0x0D8 ≤ i ∧ i ≤ 0x0DC then .takes .next (s.writeBid (s.contextOf q) (i - 0x0D8) v)
  else illop w s

/-- SETM (R88). -/
def execSetm (lit : Word) (s : State) : Host.Outcome State Fault Refusal :=
  issue (.setm lit) s fun u => setModeOr (.setm lit) u s (lit)

/-- SETG (R88). -/
def execSetg (n : BitVec 1) (g : BitVec 3) (s : State) : Host.Outcome State Fault Refusal :=
  issue (.setg n g) s fun u => setModeOr (.setg n g) u s (modeBits u.squad.mode 0 4 (g.toNat + 8 * n.toNat))

/-- SETT (R88). -/
def execSett (t : BitVec 4) (s : State) : Host.Outcome State Fault Refusal :=
  issue (.sett t) s fun u => setModeOr (.sett t) u s (modeBits u.squad.mode 4 4 t.toNat)

/-- SETR (R88). -/
def execSetr (r : BitVec 4) (f : BitVec 1) (sc : BitVec 1) (s : State) : Host.Outcome State Fault Refusal :=
  issue (.setr r f sc) s fun u => setModeOr (.setr r f sc) u s (modeBits u.squad.mode 8 6 (r.toNat + 16 * sc.toNat + 32 * f.toNat))

/-- SETW (R88). -/
def execSetw (w : BitVec 3) (s : State) : Host.Outcome State Fault Refusal :=
  issue (.setw w) s fun u => setModeOr (.setw w) u s (modeBits u.squad.mode 14 3 w.toNat)

/-- SETD (R88). -/
def execSetd (sc : BitVec 3) (s : State) : Host.Outcome State Fault Refusal :=
  issue (.setd sc) s fun u => setModeOr (.setd sc) u s (modeBits u.squad.mode 17 3 sc.toNat)

/-- SETX (R88). -/
def execSetx (l : BitVec 1) (b : SSrc) (s : State) : Host.Outcome State Fault Refusal :=
  issue (.setx l b) s fun u => 
    match u.squad.readB b [] with
    | .error e => .stops e s
    | .ok (v, pops) =>
      .takes .next (s.setSquad u.key { u.squad.popAll pops with
        xp := modeBits u.squad.xp (16 * l.toNat) 15 (bits v 14 0) })

/-- SRD (R89). -/
def execSrd (d : BitVec 5) (i : BitVec 12) (s : State) : Host.Outcome State Fault Refusal :=
  issue (.srd d i) s fun u => 
    match s.readSpecial u i.toNat with
    | (t, v) => .takes .next (t.onSquad u.key fun q => q.setSreg d.toNat v)

/-- SWR (R89). -/
def execSwr (sc : BitVec 5) (i : BitVec 12) (s : State) : Host.Outcome State Fault Refusal :=
  issue (.swr sc i) s fun u => s.writeSpecial u (.swr sc i) i.toNat (u.squad.sreg sc.toNat)

/-- BID (R358). -/
def execBid (c : BitVec 3) (a : BitVec 5) (b : SSrc) (s : State) : Host.Outcome State Fault Refusal :=
  issue (.bid c a b) s fun u => 
    let r : Except Stop (DWord × DWord × List Nat) := do
      let (x, pops) ← u.squad.readSlot a.toNat []
      let (y, pops) ← u.squad.readB b pops
      pure (x, y, pops)
    match r with
    | .error e => .stops e s
    | .ok (x, y, pops) =>
      .takes .next ((s.setSquad u.key (u.squad.popAll pops)).writeBid (s.contextOf u.squad) c.toNat
        ((y.setWidth 32 : Word) ++ (x.setWidth 32 : Word)))

end Sys2Proof.Machine
end

