-- ==== Sys2Proof/Machine/Global.lean ====
section
/-! DEFINITION. Global loads and stores, prefetch, CLAIM, cache control and the translation query (R185 to R194), and
the acquire loads and release stores (R285). -/

namespace Sys2Proof.Machine

/-- Registers of a lane access of a size: 1, 2 for 8 bytes, 4 for 16 (R188). -/
def regsOf (size : Nat) : Nat := (size + 3) / 4

/-- The names of a group of registers from `d`. -/
def groupNames (d n : Nat) : List Nat := (List.range n).map (d + ·)

/-- The bytes of one lane of a group of registers, lowest register first (R188). -/
def Squad.laneBytes (q : Squad) (d size i : Nat) : List Byte :=
  leBytes (((List.range (regsOf size)).map fun k => (lane (q.vreg (d + k)) i).toNat * 2 ^ (32 * k)).sum) size

/-- A place that translation replaces. -/
def untranslated : Place := .scratch 0

/-- The lanes of a vector access (R35, R187). -/
def accessLanes (lanes : Mask) (va : Nat → DWord) (place : Nat → Place) (data : Nat → List Byte) : List LaneAccess :=
  laneList lanes fun i => { lane := i, va := va i, place := place i, data := data i }

/-- A vector load's word (R188). -/
def loadOp (w : Instr) (size scope path : Nat) (d : BitVec 5) (o : VSrc) (lanes : List LaneAccess) :
    MemWord :=
  { op := { id := 0, instr := w, pos := 0, kind := .vload d, flag := none, path := some path, loadClass := true,
            scope, size, lanes }
    names := o.names false
    dests := groupNames d.toNat (regsOf size)
    rels := o.released false }

/-- A vector store's word (R188). -/
def storeOp (w : Instr) (size scope path : Nat) (d : BitVec 5) (o : VSrc) (lanes : List LaneAccess) :
    MemWord :=
  { op := { id := 0, instr := w, pos := 0, kind := .store, flag := none, path := some path, loadClass := false,
            scope, size, lanes }
    names := o.names false ++ groupNames d.toNat (regsOf size)
    rels := o.released false
    held := groupNames d.toNat (regsOf size) }

/-- VLD (R188). -/
def State.vectorLoad (s : State) (u : Issuer) (w : Instr) (size : Nat) (d a : BitVec 5) (sc : BitVec 3) (o : VSrc) :
    Result :=
  let va := u.squad.addresses a o
  s.memoryWord u (loadOp w size (u.squad.scope sc) 0 d o (accessLanes u.lanes va (fun _ => untranslated) fun _ => []))
    (fun l => laneCheck size l.va) true

/-- VST (R188). -/
def State.vectorStore (s : State) (u : Issuer) (w : Instr) (size : Nat) (d a : BitVec 5) (sc : BitVec 3) (o : VSrc) :
    Result :=
  let va := u.squad.addresses a o
  s.memoryWord u (storeOp w size (u.squad.scope sc) 1 d o
    (accessLanes u.lanes va (fun _ => untranslated) fun i => u.squad.laneBytes d.toNat size i))
    (fun l => laneCheck size l.va) true

/-- The block address of a block word (R189). -/
def Squad.blockBase (q : Squad) (a : BitVec 5) (o : VSrc) : DWord := q.addresses a o 0

/-- The word of lane `i` of a block (R157, R189). -/
def blockLane (x : DWord) (i : Nat) : DWord := x + BitVec.ofNat 64 (4 * i)

/-- VLDB (R189): the checks are made on the block address. -/
def State.blockLoad (s : State) (u : Issuer) (w : Instr) (d a : BitVec 5) (sc : BitVec 3) (o : VSrc) : Result :=
  let x := u.squad.blockBase a o
  s.memoryWord u { loadOp w 4 (u.squad.scope sc) 0 d o
    (accessLanes u.lanes (blockLane x) (fun _ => untranslated) fun _ => []) with pre := laneCheck 128 x } (fun _ => none) true

/-- VSTB (R189). -/
def State.blockStore (s : State) (u : Issuer) (w : Instr) (d a : BitVec 5) (sc : BitVec 3) (o : VSrc) : Result :=
  let x := u.squad.blockBase a o
  s.memoryWord u { storeOp w 4 (u.squad.scope sc) 1 d o
    (accessLanes u.lanes (blockLane x) (fun _ => untranslated) fun i => u.squad.laneBytes d.toNat 4 i) with
    pre := laneCheck 128 x } (fun _ => none) true

/-- SLD (R190). -/
def State.scalarLoad (s : State) (u : Issuer) (w : Instr) (size : Nat) (d a : BitVec 5) (sc : BitVec 3) (o : VSrc) :
    Result :=
  s.memoryWord u {
    op := { id := 0, instr := w, pos := 0, kind := .sload d, flag := none, path := some 0, loadClass := true,
            scope := u.squad.scope sc, size
            lanes := [{ lane := 0, va := u.squad.addresses a o 0, place := untranslated }] } }
    (fun l => laneCheck size l.va) true

/-- SST (R190). -/
def State.scalarStore (s : State) (u : Issuer) (w : Instr) (size : Nat) (d a : BitVec 5) (sc : BitVec 3) (o : VSrc) :
    Result :=
  s.memoryWord u {
    op := { id := 0, instr := w, pos := 0, kind := .store, flag := none, path := some 1, loadClass := false,
            scope := u.squad.scope sc, size
            lanes := [{ lane := 0, va := u.squad.addresses a o 0, place := untranslated,
                        data := leBytes (u.squad.sreg d.toNat).toNat size }] } }
    (fun l => laneCheck size l.va) true

/-- PLD and PLDC (R192): the offset is read and released, and a line is fetched for each lane that translates; no fault, no
flag. One that fetches counts its cycles beyond the first (R191). -/
def State.prefetchWord (s : State) (u : Issuer) (a : BitVec 5) (sc : BitVec 3) (o : VSrc) (go : Bool) : Result :=
  match s.nameGate u.squad (o.names false) with
  | some e => .stops e s
  | none =>
    let t := s.setSquad u.key ((o.released false).foldl Squad.release u.squad)
    let va := u.squad.addresses a o
    let ctx := s.contextOf u.squad
    let lanes := laneList u.lanes fun i => { lane := i, va := va i, place := .pod 0 }
    .takes .next (if go then
      (lanesIn u.lanes).foldl (fun t i => t.prefetchLine u.squad.core ctx (u.squad.scope sc) (va i).toNat)
        (t.tally u.squad.core perfLines (extraLines lanes))
      else t)

/-- The HBS spot price of the issuing core's die (R192): PRICE of SPOT at 0x098 + DIE (R367); a die that no valid logical die
names has none (R417). -/
def State.spotPrice (s : State) (q : Squad) : Nat :=
  let ctx := s.contextOf q
  ((s.logicalDie? ctx (dieOf q.core)).map fun l => bits (s.spotReg ctx 3 l) 31 0).getD 0

/-- The first address and the end of a range word, cut at the pod window (R185). -/
def Squad.range (q : Squad) (a : BitVec 5) (o : VSrc) : Nat × Nat :=
  let first := (q.sreg a.toNat).toNat
  let len := match o with
    | .sca r => (q.sreg r.toNat).toNat
    | .lit w => (w.signExtend 64).toNat
    | _ => 0
  (first, min (first + len) 0xF00000000000)

/-- The one lane of a word that acts on an address without an access of its own: a range, or a query. -/
def rangeLane (first : Nat) : List LaneAccess := [{ lane := 0, va := BitVec.ofNat 64 first, place := .scratch 0 }]

/-- CLAIM becomes outstanding; its pages are moved by CLAIM_PAGE_MOVE (R185). -/
def State.claimWord (s : State) (u : Issuer) (w : Instr) (d a : BitVec 5) (o : VSrc) : Result :=
  let r := u.squad.range a o
  s.memoryWord u {
    op := { id := 0, instr := w, pos := 0, kind := .claim d r.1 r.2 0 0 0, flag := none, path := none,
            loadClass := true, lanes := rangeLane r.1 } } (fun _ => none) false

/-- CWB and CINV (R193). -/
def State.cacheWord (s : State) (u : Issuer) (w : Instr) (invalidate : Bool) (a : BitVec 5) (sc : BitVec 3) (o : VSrc) :
    Result :=
  let r := u.squad.range a o
  s.memoryWord u {
    op := { id := 0, instr := w, pos := 0, kind := .cache invalidate r.1 r.2, flag := none,
            path := if invalidate then none else some 1, loadClass := false, scope := u.squad.scope sc
            lanes := rangeLane r.1 } }
    (fun _ => none) false

/-- What XQ answers for an address (R194); no walk it makes marks a table entry. The logical die of a home that the
place table does not name is free (log 3). R194 gives no SIZE for an address of the pod window and no value of the other fields where
FAIL is not 0: the model gives 0, but for POD, which it gives wherever the address lies there (log 130). -/
def State.queryValue (s : State) (ctx : Nat) (va : DWord) : Nat :=
  let vf := contextVf ctx
  let iface := contextIface ctx
  if va.toNat / 2 ^ 48 ≠ 0 then 4 * 2 ^ 16
  else if inPodWindow va.toNat then
    let lo := s.reg (ifaceBase vf iface + 0x1000 + 16 * (va.toNat / 2 ^ 36 % 256))
    let hi := s.reg (ifaceBase vf iface + 0x1000 + 16 * (va.toNat / 2 ^ 36 % 256) + 8)
    if has lo 0 = false ∨ hi.toNat ≤ va.toNat % 2 ^ 36 then 3 * 2 ^ 16 + 2 ^ 11
    else 1 + (if has lo 1 then 2 else 0) + (if has lo 2 then 4 else 0) + 2 ^ 11
  else
    let root := s.reg (ifaceBase vf iface)
    if has root 0 = false then 1 * 2 ^ 16
    else
      match (s.walk1From vf iface va.toNat 4 0 (bits root 45 12 * 2 ^ 12) []).2 with
      | .error f => f.stage * 2 ^ 16
      | .ok l1 =>
        match s.stage2 vf l1.leaf.out with
        | .error _ => 2 * 2 ^ 16
        | .ok l2 =>
          let e1 := l1.leaf.entry
          let e2 := l2.entry
          let both := fun (b : Nat) => e1.testBit b && e2.testBit b && s.slotAllows vf iface (keySlot e2)
          let die := if isHbm l2.out then (s.logicalDie? ctx (dieOfPa l2.out)).getD (s.free.toNat % 8) else 0
          1 + (if both 1 then 2 else 0) + (if both 2 then 4 else 0) + (if both 3 then 8 else 0) +
            sizeCode (min l1.leaf.size l2.size) * 2 ^ 4 + (if e2.testBit 9 then 2 ^ 8 else 0) +
            (if e1.testBit 9 then 2 ^ 9 else 0) + (if e1.testBit 10 then 2 ^ 10 else 0) + die * 2 ^ 12

/-- XQ (R194). -/
def State.queryWord (s : State) (u : Issuer) (w : Instr) (d a : BitVec 5) (o : VSrc) : Result :=
  let v := s.queryValue (s.contextOf u.squad) (u.squad.addresses a o 0)
  s.spend.memoryWord u {
    op := { id := 0, instr := w, pos := 0, kind := .query d (BitVec.ofNat 64 v), flag := none, path := none,
            loadClass := true, lanes := rangeLane (u.squad.addresses a o 0).toNat } } (fun _ => none) false

/-- VSTR (R285): the release takes effect before the store, when it is performed; a full release log holds the word
back (R286). -/
def State.releaseStore (s : State) (u : Issuer) (w : Instr) (size : Nat) (d a : BitVec 5) (sc : BitVec 3) (o : VSrc) :
    Result :=
  match s.vectorStore u w size d a sc o with
  | .stops e t => .stops e t
  | .takes m t => if s.logFull u.squad.core (u.squad.scope sc) then .stops (.wait .releaseLog) s else .takes m t

/-- VLD_B (R188). -/
def execVldB (d : BitVec 5) (a : BitVec 5) (sc : BitVec 3) (o : VSrc) (s : State) : Host.Outcome State Fault Refusal :=
  issue (.vldB d a sc o) s fun u => s.vectorLoad u (.vldB d a sc o) 1 d a sc o

/-- VST_B (R188). -/
def execVstB (d : BitVec 5) (a : BitVec 5) (sc : BitVec 3) (o : VSrc) (s : State) : Host.Outcome State Fault Refusal :=
  issue (.vstB d a sc o) s fun u => s.vectorStore u (.vstB d a sc o) 1 d a sc o

/-- VLD_H (R188). -/
def execVldH (d : BitVec 5) (a : BitVec 5) (sc : BitVec 3) (o : VSrc) (s : State) : Host.Outcome State Fault Refusal :=
  issue (.vldH d a sc o) s fun u => s.vectorLoad u (.vldH d a sc o) 2 d a sc o

/-- VST_H (R188). -/
def execVstH (d : BitVec 5) (a : BitVec 5) (sc : BitVec 3) (o : VSrc) (s : State) : Host.Outcome State Fault Refusal :=
  issue (.vstH d a sc o) s fun u => s.vectorStore u (.vstH d a sc o) 2 d a sc o

/-- VLD_W (R188). -/
def execVldW (d : BitVec 5) (a : BitVec 5) (sc : BitVec 3) (o : VSrc) (s : State) : Host.Outcome State Fault Refusal :=
  issue (.vldW d a sc o) s fun u => s.vectorLoad u (.vldW d a sc o) 4 d a sc o

/-- VST_W (R188). -/
def execVstW (d : BitVec 5) (a : BitVec 5) (sc : BitVec 3) (o : VSrc) (s : State) : Host.Outcome State Fault Refusal :=
  issue (.vstW d a sc o) s fun u => s.vectorStore u (.vstW d a sc o) 4 d a sc o

/-- VLD_D (R188). -/
def execVldD (d : BitVec 5) (a : BitVec 5) (sc : BitVec 3) (o : VSrc) (s : State) : Host.Outcome State Fault Refusal :=
  issue (.vldD d a sc o) s fun u => s.vectorLoad u (.vldD d a sc o) 8 d a sc o

/-- VST_D (R188). -/
def execVstD (d : BitVec 5) (a : BitVec 5) (sc : BitVec 3) (o : VSrc) (s : State) : Host.Outcome State Fault Refusal :=
  issue (.vstD d a sc o) s fun u => s.vectorStore u (.vstD d a sc o) 8 d a sc o

/-- VLD_Q (R188). -/
def execVldQ (d : BitVec 5) (a : BitVec 5) (sc : BitVec 3) (o : VSrc) (s : State) : Host.Outcome State Fault Refusal :=
  issue (.vldQ d a sc o) s fun u => s.vectorLoad u (.vldQ d a sc o) 16 d a sc o

/-- VST_Q (R188). -/
def execVstQ (d : BitVec 5) (a : BitVec 5) (sc : BitVec 3) (o : VSrc) (s : State) : Host.Outcome State Fault Refusal :=
  issue (.vstQ d a sc o) s fun u => s.vectorStore u (.vstQ d a sc o) 16 d a sc o

/-- VLDB (R189). -/
def execVldb (d : BitVec 5) (a : BitVec 5) (sc : BitVec 3) (o : VSrc) (s : State) : Host.Outcome State Fault Refusal :=
  issue (.vldb d a sc o) s fun u => s.blockLoad u (.vldb d a sc o) d a sc o

/-- VSTB (R189). -/
def execVstb (d : BitVec 5) (a : BitVec 5) (sc : BitVec 3) (o : VSrc) (s : State) : Host.Outcome State Fault Refusal :=
  issue (.vstb d a sc o) s fun u => s.blockStore u (.vstb d a sc o) d a sc o

/-- SLD_B (R190). -/
def execSldB (d : BitVec 5) (a : BitVec 5) (sc : BitVec 3) (o : VSrc) (s : State) : Host.Outcome State Fault Refusal :=
  issue (.sldB d a sc o) s fun u => s.scalarLoad u (.sldB d a sc o) 1 d a sc o

/-- SST_B (R190). -/
def execSstB (d : BitVec 5) (a : BitVec 5) (sc : BitVec 3) (o : VSrc) (s : State) : Host.Outcome State Fault Refusal :=
  issue (.sstB d a sc o) s fun u => s.scalarStore u (.sstB d a sc o) 1 d a sc o

/-- SLD_H (R190). -/
def execSldH (d : BitVec 5) (a : BitVec 5) (sc : BitVec 3) (o : VSrc) (s : State) : Host.Outcome State Fault Refusal :=
  issue (.sldH d a sc o) s fun u => s.scalarLoad u (.sldH d a sc o) 2 d a sc o

/-- SST_H (R190). -/
def execSstH (d : BitVec 5) (a : BitVec 5) (sc : BitVec 3) (o : VSrc) (s : State) : Host.Outcome State Fault Refusal :=
  issue (.sstH d a sc o) s fun u => s.scalarStore u (.sstH d a sc o) 2 d a sc o

/-- SLD_W (R190). -/
def execSldW (d : BitVec 5) (a : BitVec 5) (sc : BitVec 3) (o : VSrc) (s : State) : Host.Outcome State Fault Refusal :=
  issue (.sldW d a sc o) s fun u => s.scalarLoad u (.sldW d a sc o) 4 d a sc o

/-- SST_W (R190). -/
def execSstW (d : BitVec 5) (a : BitVec 5) (sc : BitVec 3) (o : VSrc) (s : State) : Host.Outcome State Fault Refusal :=
  issue (.sstW d a sc o) s fun u => s.scalarStore u (.sstW d a sc o) 4 d a sc o

/-- SLD_D (R190). -/
def execSldD (d : BitVec 5) (a : BitVec 5) (sc : BitVec 3) (o : VSrc) (s : State) : Host.Outcome State Fault Refusal :=
  issue (.sldD d a sc o) s fun u => s.scalarLoad u (.sldD d a sc o) 8 d a sc o

/-- SST_D (R190). -/
def execSstD (d : BitVec 5) (a : BitVec 5) (sc : BitVec 3) (o : VSrc) (s : State) : Host.Outcome State Fault Refusal :=
  issue (.sstD d a sc o) s fun u => s.scalarStore u (.sstD d a sc o) 8 d a sc o

/-- PLD (R192). -/
def execPld (a : BitVec 5) (sc : BitVec 3) (o : VSrc) (s : State) : Host.Outcome State Fault Refusal :=
  issue (.pld a sc o) s fun u => s.prefetchWord u a sc o true

/-- PLDC (R192). -/
def execPldc (d : BitVec 5) (a : BitVec 5) (sc : BitVec 3) (o : VSrc) (s : State) : Host.Outcome State Fault Refusal :=
  issue (.pldc d a sc o) s fun u => s.prefetchWord u a sc o (decide (s.spotPrice u.squad ≤ (u.squad.sreg d.toNat).toNat))

/-- CLAIM (R185). -/
def execClaim (d : BitVec 5) (a : BitVec 5) (sc : BitVec 3) (o : VSrc) (s : State) : Host.Outcome State Fault Refusal :=
  issue (.claim d a sc o) s fun u => s.claimWord u (.claim d a sc o) d a o

/-- CWB (R193). -/
def execCwb (a : BitVec 5) (sc : BitVec 3) (o : VSrc) (s : State) : Host.Outcome State Fault Refusal :=
  issue (.cwb a sc o) s fun u => s.cacheWord u (.cwb a sc o) false a sc o

/-- CINV (R193). -/
def execCinv (a : BitVec 5) (sc : BitVec 3) (o : VSrc) (s : State) : Host.Outcome State Fault Refusal :=
  issue (.cinv a sc o) s fun u => s.cacheWord u (.cinv a sc o) true a sc o

/-- XQ (R194). -/
def execXq (d : BitVec 5) (a : BitVec 5) (sc : BitVec 3) (o : VSrc) (s : State) : Host.Outcome State Fault Refusal :=
  issue (.xq d a sc o) s fun u => s.queryWord u (.xq d a sc o) d a o

/-- VLDA_W (R285). -/
def execVldaW (d : BitVec 5) (a : BitVec 5) (sc : BitVec 3) (o : VSrc) (s : State) : Host.Outcome State Fault Refusal :=
  issue (.vldaW d a sc o) s fun u => s.vectorLoad u (.vldaW d a sc o) 4 d a sc o

/-- VSTR_W (R285). -/
def execVstrW (d : BitVec 5) (a : BitVec 5) (sc : BitVec 3) (o : VSrc) (s : State) : Host.Outcome State Fault Refusal :=
  issue (.vstrW d a sc o) s fun u => s.releaseStore u (.vstrW d a sc o) 4 d a sc o

/-- VLDA_D (R285). -/
def execVldaD (d : BitVec 5) (a : BitVec 5) (sc : BitVec 3) (o : VSrc) (s : State) : Host.Outcome State Fault Refusal :=
  issue (.vldaD d a sc o) s fun u => s.vectorLoad u (.vldaD d a sc o) 8 d a sc o

/-- VSTR_D (R285). -/
def execVstrD (d : BitVec 5) (a : BitVec 5) (sc : BitVec 3) (o : VSrc) (s : State) : Host.Outcome State Fault Refusal :=
  issue (.vstrD d a sc o) s fun u => s.releaseStore u (.vstrD d a sc o) 8 d a sc o

end Sys2Proof.Machine
end

