-- ==== Sys2Proof/Machine/Scratch.lean ====
section
/-! DEFINITION. Scratchpad words and the gang window (R154 to R160). -/

namespace Sys2Proof.Machine

/-- The checks of a scratchpad lane (R154). -/
def scratchCheck (size limit : Nat) (va : DWord) : Option Stop :=
  if va.toNat % size ≠ 0 then some (.trap .align va)
  else if limit < va.toNat + size then some (.trap .access va)
  else none

/-- The checks of a block address (R157). -/
def blockCheck (limit : Nat) (x : DWord) : Option Stop :=
  if x.toNat % 128 ≠ 0 then some (.trap .align x)
  else if limit < x.toNat + 128 then some (.trap .access x)
  else none

/-- The checks of a window lane (R159). -/
def windowCheck (size limit teams : Nat) (va : DWord) : Option Stop :=
  if teams ≤ bits va 22 20 then some (.trap .place (BitVec.ofNat 64 (bits va 22 20)))
  else if bits va 19 0 % size ≠ 0 then some (.trap .align va)
  else if va.toNat / 2 ^ 23 ≠ 0 ∨ limit < bits va 19 0 + size then some (.trap .access va)
  else none

/-- The team and the offset of a window address (R158). -/
def windowPlace (va : DWord) : Place := .window (bits va 22 20) (bits va 19 0)

/-- SPLD (R155). -/
def State.scratchLoadWord (s : State) (u : Issuer) (w : Instr) (size : Nat) (d a : BitVec 5) (o : VSrc) : Result :=
  let va := u.squad.addresses a o
  s.memoryWord u (loadOp w size 1 2 d o (accessLanes u.lanes va (fun i => .scratch (va i).toNat) fun _ => []))
    (fun l => scratchCheck size (s.scratchSize u.squad) l.va) false

/-- SPST (R155). -/
def State.scratchStoreWord (s : State) (u : Issuer) (w : Instr) (size : Nat) (d a : BitVec 5) (o : VSrc) : Result :=
  let va := u.squad.addresses a o
  s.memoryWord u (storeOp w size 1 2 d o
    (accessLanes u.lanes va (fun i => .scratch (va i).toNat) fun i => u.squad.laneBytes d.toNat size i))
    (fun l => scratchCheck size (s.scratchSize u.squad) l.va) false

/-- SPLDB (R157). -/
def State.scratchBlockLoad (s : State) (u : Issuer) (w : Instr) (d a : BitVec 5) (o : VSrc) : Result :=
  let x := u.squad.blockBase a o
  s.memoryWord u { loadOp w 4 1 2 d o
    (accessLanes u.lanes (blockLane x) (fun i => .scratch (blockLane x i).toNat) fun _ => []) with
    pre := blockCheck (s.scratchSize u.squad) x } (fun _ => none) false

/-- SPSTB (R157). -/
def State.scratchBlockStore (s : State) (u : Issuer) (w : Instr) (d a : BitVec 5) (o : VSrc) : Result :=
  let x := u.squad.blockBase a o
  s.memoryWord u { storeOp w 4 1 2 d o
    (accessLanes u.lanes (blockLane x) (fun i => .scratch (blockLane x i).toNat) fun i => u.squad.laneBytes d.toNat 4 i) with
    pre := blockCheck (s.scratchSize u.squad) x } (fun _ => none) false

/-- `.teams` of a squad's launch. -/
def State.teamCount (s : State) (q : Squad) : Nat := ((s.launchOf q).map (·.teams)).getD 0

/-- RSLD (R159). -/
def State.windowLoadWord (s : State) (u : Issuer) (w : Instr) (d a : BitVec 5) (o : VSrc) : Result :=
  let va := u.squad.addresses a o
  s.memoryWord u (loadOp w 4 2 3 d o (accessLanes u.lanes va (fun i => windowPlace (va i)) fun _ => []))
    (fun l => windowCheck 4 (s.scratchSize u.squad) (s.teamCount u.squad) l.va) false

/-- RSST (R159). -/
def State.windowStoreWord (s : State) (u : Issuer) (w : Instr) (d a : BitVec 5) (o : VSrc) : Result :=
  let va := u.squad.addresses a o
  s.memoryWord u (storeOp w 4 2 3 d o
    (accessLanes u.lanes va (fun i => windowPlace (va i)) fun i => u.squad.laneBytes d.toNat 4 i))
    (fun l => windowCheck 4 (s.scratchSize u.squad) (s.teamCount u.squad) l.va) false

/-- SPLD_B (R155). -/
def execSpldB (d : BitVec 5) (a : BitVec 5) (sc : BitVec 3) (o : VSrc) (s : State) : Host.Outcome State Fault Refusal :=
  issue (.spldB d a sc o) s fun u => s.scratchLoadWord u (.spldB d a sc o) 1 d a o

/-- SPST_B (R155). -/
def execSpstB (d : BitVec 5) (a : BitVec 5) (sc : BitVec 3) (o : VSrc) (s : State) : Host.Outcome State Fault Refusal :=
  issue (.spstB d a sc o) s fun u => s.scratchStoreWord u (.spstB d a sc o) 1 d a o

/-- SPLD_H (R155). -/
def execSpldH (d : BitVec 5) (a : BitVec 5) (sc : BitVec 3) (o : VSrc) (s : State) : Host.Outcome State Fault Refusal :=
  issue (.spldH d a sc o) s fun u => s.scratchLoadWord u (.spldH d a sc o) 2 d a o

/-- SPST_H (R155). -/
def execSpstH (d : BitVec 5) (a : BitVec 5) (sc : BitVec 3) (o : VSrc) (s : State) : Host.Outcome State Fault Refusal :=
  issue (.spstH d a sc o) s fun u => s.scratchStoreWord u (.spstH d a sc o) 2 d a o

/-- SPLD_W (R155). -/
def execSpldW (d : BitVec 5) (a : BitVec 5) (sc : BitVec 3) (o : VSrc) (s : State) : Host.Outcome State Fault Refusal :=
  issue (.spldW d a sc o) s fun u => s.scratchLoadWord u (.spldW d a sc o) 4 d a o

/-- SPST_W (R155). -/
def execSpstW (d : BitVec 5) (a : BitVec 5) (sc : BitVec 3) (o : VSrc) (s : State) : Host.Outcome State Fault Refusal :=
  issue (.spstW d a sc o) s fun u => s.scratchStoreWord u (.spstW d a sc o) 4 d a o

/-- SPLD_D (R155). -/
def execSpldD (d : BitVec 5) (a : BitVec 5) (sc : BitVec 3) (o : VSrc) (s : State) : Host.Outcome State Fault Refusal :=
  issue (.spldD d a sc o) s fun u => s.scratchLoadWord u (.spldD d a sc o) 8 d a o

/-- SPST_D (R155). -/
def execSpstD (d : BitVec 5) (a : BitVec 5) (sc : BitVec 3) (o : VSrc) (s : State) : Host.Outcome State Fault Refusal :=
  issue (.spstD d a sc o) s fun u => s.scratchStoreWord u (.spstD d a sc o) 8 d a o

/-- SPLDB (R157). -/
def execSpldb (d : BitVec 5) (a : BitVec 5) (sc : BitVec 3) (o : VSrc) (s : State) : Host.Outcome State Fault Refusal :=
  issue (.spldb d a sc o) s fun u => s.scratchBlockLoad u (.spldb d a sc o) d a o

/-- SPSTB (R157). -/
def execSpstb (d : BitVec 5) (a : BitVec 5) (sc : BitVec 3) (o : VSrc) (s : State) : Host.Outcome State Fault Refusal :=
  issue (.spstb d a sc o) s fun u => s.scratchBlockStore u (.spstb d a sc o) d a o

/-- RSLD (R159). -/
def execRsld (d : BitVec 5) (a : BitVec 5) (sc : BitVec 3) (o : VSrc) (s : State) : Host.Outcome State Fault Refusal :=
  issue (.rsld d a sc o) s fun u => s.windowLoadWord u (.rsld d a sc o) d a o

/-- RSST (R159). -/
def execRsst (d : BitVec 5) (a : BitVec 5) (sc : BitVec 3) (o : VSrc) (s : State) : Host.Outcome State Fault Refusal :=
  issue (.rsst d a sc o) s fun u => s.windowStoreWord u (.rsst d a sc o) d a o

end Sys2Proof.Machine
end

