-- ==== Sys2Proof/Machine/Order.lean ====
section
/-! DEFINITION. Fences, the promoting acquire (R283 to R289), and the atomic words (R294 to R303). -/

namespace Sys2Proof.Machine

/-- What a fence does once every earlier access of the squad is performed; it waits while one of them does (R283, R284). -/
def State.afterAll (s : State) (u : Issuer) (f : State → State) : Result :=
  let s := s.performAll u.key
  if s.unperformed u.key none then .stops (.wait .memory) s else .takes .next (f s)

/-- A fence (R283): the squad's earlier accesses are performed; a release then publishes at its scope. -/
def State.fenceWord (s : State) (u : Issuer) (rel : Bool) (scope : Nat) : Result :=
  if rel ∧ s.logFull u.squad.core scope then .stops (.wait .releaseLog) s
  else s.afterAll u fun s => if rel then s.release u.squad.core (s.contextOf u.squad) scope else s

/-- ACQP (R288). -/
def State.promoteWord (s : State) (u : Issuer) (w : Instr) (d a : BitVec 5) (sc : BitVec 3) (b : SSrc) : Result :=
  let q := u.squad
  let scope := q.scope sc
  if scope < 2 ∨ 4 < scope then illop w s
  else
    match q.readB b [] with
    | .error e => .stops e s
    | .ok (v, pops) =>
      let va := q.sreg a.toNat
      let target := s.physCore? (s.contextOf q) v.toNat
      s.memoryWord u {
        op := { id := 0, instr := w, pos := 0, kind := .acqp d (target.getD 0) scope, flag := none, path := some 0,
                loadClass := true, scope, lanes := [{ lane := 0, va, place := untranslated }] }
        pops
        pre := (laneCheck 4 va).or (if target.isNone then some (.trap .place v) else none) } (fun _ => none) true

/-- The scope of an atomic's place code (R294). -/
def Squad.atomicScope (q : Squad) (p : BitVec 3) : Nat :=
  if p = 0#3 then 2 else if p = 7#3 then max 1 q.dscope else p.toNat

/-- The offset register read as a signed value of 32 bits, or of 64 with its odd partner (R299). -/
def Squad.atomicOffset (q : Squad) (o : BitVec 5) (wide : Bool) (i : Nat) : DWord :=
  let x := lane (q.vreg o.toNat) i
  if wide then lane (q.vreg (o.toNat + 1)) i ++ x else x.signExtend 64

/-- An atomic word (R299 to R301): `size` bytes of location, `data` registers read from D, `back` registers written. -/
def State.atomicWord (s : State) (u : Issuer) (w : Instr) (kind : OpKind) (load : Bool) (size data back : Nat)
    (d a : BitVec 5) (p : BitVec 3) (o : BitVec 5) : Result :=
  let q := u.squad
  let wide := decide (size ≠ 4)
  let win := p == 0#3
  let va := fun (i : Nat) => q.sreg a.toNat + q.atomicOffset o wide i
  s.memoryWord u {
    op := { id := 0, instr := w, pos := 0, kind, flag := none
            path := some (if win then 3 else if load then 0 else 1)
            loadClass := load, scope := q.atomicScope p, size
            lanes := accessLanes u.lanes va (fun i => if win then windowPlace (va i) else untranslated)
              fun i => q.laneBytes d.toNat (4 * data) i }
    names := groupNames d.toNat data ++ groupNames o.toNat (if wide then 2 else 1)
    dests := groupNames d.toNat back
    held := groupNames (d.toNat + back) (data - back) }
    (fun l => if win then windowCheck size (s.scratchSize q) (s.teamCount q) l.va else laneCheck size l.va) (!win)

/-- The width of ATOM and ARED; none where R298 refuses the element type. -/
def atomicWidth (fn et : Nat) : Option Nat :=
  if 9 ≤ fn then (if et = 10 then some 4 else if et = 11 then some 8 else none)
  else if et = 4 ∨ et = 5 ∨ et = 10 then some 4
  else if et = 6 ∨ et = 7 ∨ et = 11 then some 8
  else none

/-- ATOM, and ARED, which returns nothing (R298, R299). -/
def State.atomicRmw (s : State) (u : Issuer) (w : Instr) (returns : Bool) (d a : BitVec 5) (p : BitVec 3) (o : BitVec 5)
    (f : BitVec 4) : Result :=
  match atomicWidth f.toNat u.squad.et with
  | none => illop w s
  | some n =>
    if n = 8 ∧ (d.toNat % 2 = 1 ∨ o.toNat % 2 = 1) then illop w s
    else
      s.atomicWord u w (.atomic f.toNat u.squad.et returns d) returns n (n / 4) (if returns then n / 4 else 0) d a p o

/-- FENCE (R283). -/
def execFence (k : BitVec 2) (sc : BitVec 3) (s : State) : Host.Outcome State Fault Refusal :=
  issue (.fence k sc) s fun u => s.fenceWord u (has k 1) (u.squad.scope sc)

/-- FENCET (R284). -/
def execFencet (s : State) : Host.Outcome State Fault Refusal :=
  issue (.fencet) s fun u => s.afterAll u fun s =>
    { s.release u.squad.core (s.contextOf u.squad) 4 with fencets := s.fencets + 1 }

/-- ACQP (R288). -/
def execAcqp (d : BitVec 5) (a : BitVec 5) (sc : BitVec 3) (b : SSrc) (s : State) : Host.Outcome State Fault Refusal :=
  issue (.acqp d a sc b) s fun u => s.promoteWord u (.acqp d a sc b) d a sc b

/-- ATOM (R299). -/
def execAtom (d : BitVec 5) (a : BitVec 5) (p : BitVec 3) (o : BitVec 5) (f : BitVec 4) (s : State) : Host.Outcome State Fault Refusal :=
  issue (.atom d a p o f) s fun u => s.atomicRmw u (.atom d a p o f) true d a p o f

/-- ARED (R299). -/
def execAred (d : BitVec 5) (a : BitVec 5) (p : BitVec 3) (o : BitVec 5) (f : BitVec 4) (s : State) : Host.Outcome State Fault Refusal :=
  issue (.ared d a p o f) s fun u => s.atomicRmw u (.ared d a p o f) false d a p o f

/-- ACAS (R300). -/
def execAcas (d : BitVec 5) (a : BitVec 5) (p : BitVec 3) (o : BitVec 5) (z : BitVec 4) (s : State) : Host.Outcome State Fault Refusal :=
  issue (.acas d a p o z) s fun u => 
    s.atomicWord u (.acas d a p o z) (.compareSwap d) true (4 * 2 ^ z.toNat) (2 * 2 ^ z.toNat) (2 ^ z.toNat) d a p o

end Sys2Proof.Machine
end

