-- ==== Sys2Proof/Machine/Passes.lean ====
section
/-! DEFINITION. Pass queues (R162 to R166). -/

namespace Sys2Proof.Machine

/-- PQFAULT of a queue: a team whose scratchpad does not hold the queues (R162), or a refused grant (R165). -/
def queueFault (n : Nat) (s : State) : Result := .stops (.trap .pqfault (BitVec.ofNat 64 n)) s

/-- Change a pass queue of a team. -/
def State.setQueue (s : State) (k n : Nat) (t : Team) (x : PassQueue) : State :=
  s.setTeam k { t with queues := put t.queues n x }

/-- The handle at an index of a queue (R162). -/
def Team.entry (t : Team) (n i : Nat) : DWord := BitVec.ofNat 64 (leNat (readBytes t.scratch (256 * n + 4 * i) 4))

/-- A squad's allowance on a queue (R162). -/
def PassQueue.allowance (x : PassQueue) (sq : Nat) : Nat := x.allow.getD sq 0

/-- PQPUSH (R163, R164): the release at team scope, then the handle enters the queue. -/
def State.pushHandle (s : State) (u : Issuer) (n : Nat) (a : BitVec 5) : Result :=
  let q := u.squad
  if s.scratchSize q < 2048 then queueFault n s
  else
    match q.readSlot a.toNat [], s.teamOf q with
    | .error e, _ => .stops e s
    | .ok _, none => .stops (.wait (.allowance n)) s
    | .ok (v, pops), some t =>
      let x := at' t.queues n {}
      if x.allowance q.sq = 0 then .stops (.wait (.allowance n)) s
      else if s.logFull q.core 1 then .stops (.wait .releaseLog) s
      else
        let s := s.performAll u.key
        if s.unperformed u.key none then .stops (.wait .memory) s
        else
        let s := s.release q.core (s.contextOf q) 1
        let s := s.scratchStore q.team (256 * n + 4 * x.tail) (leBytes v.toNat 4)
        let s := match s.teams.get? q.team with
          | some t => s.setQueue q.team n t { x with
              allow := x.allow.set q.sq (x.allowance q.sq - 1)
              tail := (x.tail + 1) % 64
              count := x.count + 1 }
          | none => s
        .takes .next (s.onSquad u.key fun q => q.popAll pops)

/-- Take the handle at the head (R163). -/
def State.takeHandle (s : State) (u : Issuer) (n : Nat) (t : Team) (d : BitVec 5) : Result :=
  let x := at' t.queues n {}
  let s := s.setQueue u.squad.team n t { x with
    head := (x.head + 1) % 64
    count := x.count - 1
    waiting := x.waiting.filter fun w => w != (u.key, u.split.id) }
  .takes .next (s.setSquad u.key (u.squad.setSreg d.toNat (t.entry n x.head)))

/-- PQPOP (R163, R164): waiting pops are served in the order in which they came. -/
def State.popHandle (s : State) (u : Issuer) (d : BitVec 5) (n : Nat) : Result :=
  if s.scratchSize u.squad < 2048 then queueFault n s
  else
    match s.teamOf u.squad with
    | none => .stops (.wait (.handle n)) s
    | some t =>
      let x := at' t.queues n {}
      let me := (u.key, u.split.id)
      if 0 < x.count ∧ (x.waiting = [] ∨ x.waiting.head? = some me) then s.takeHandle u n t d
      else
        .stops (.wait (.handle n)) (if x.waiting.contains me then s
          else s.setQueue u.squad.team n t { x with waiting := x.waiting ++ [me] })

/-- PQTRY (R163, R164): all ones while the queue is empty or a pop waits on it. -/
def State.tryHandle (s : State) (u : Issuer) (d : BitVec 5) (n : Nat) : Result :=
  let none_ := Result.takes .next (s.setSquad u.key (u.squad.setSreg d.toNat (BitVec.allOnes 64)))
  if s.scratchSize u.squad < 2048 then queueFault n s
  else
    match s.teamOf u.squad with
    | none => none_
    | some t =>
      let x := at' t.queues n {}
      if 0 < x.count ∧ x.waiting = [] then s.takeHandle u n t d else none_

/-- PQGIVE (R163, R165). -/
def State.giveAllowance (s : State) (u : Issuer) (n : Nat) (a : BitVec 5) (b : SSrc) : Result :=
  let q := u.squad
  if s.scratchSize q < 2048 then queueFault n s
  else
    let r : Except Stop (DWord × DWord × List Nat) := do
      let (x, pops) ← q.readSlot a.toNat []
      let (y, pops) ← q.readB b pops
      pure (x, y, pops)
    match r, s.teamOf q with
    | .error e, _ => .stops e s
    | .ok _, none => queueFault n s
    | .ok (sq, v, pops), some t =>
      let x := at' t.queues n {}
      if ((s.launchOf q).map (·.squads)).getD 1 ≤ sq.toNat ∨ 64 < v.toNat + x.count + (x.allow.map (·.2)).sum then
        queueFault n s
      else
        .takes .next ((s.setQueue q.team n t { x with
          allow := x.allow.set sq.toNat (x.allowance sq.toNat + v.toNat) }).setSquad u.key (q.popAll pops))

/-- PQPUSH (R163). -/
def execPqpush (q : BitVec 3) (a : BitVec 5) (s : State) : Host.Outcome State Fault Refusal :=
  issue (.pqpush q a) s fun u => s.pushHandle u q.toNat a

/-- PQPOP (R163). -/
def execPqpop (d : BitVec 5) (q : BitVec 3) (s : State) : Host.Outcome State Fault Refusal :=
  issue (.pqpop d q) s fun u => s.popHandle u d q.toNat

/-- PQTRY (R163). -/
def execPqtry (d : BitVec 5) (q : BitVec 3) (s : State) : Host.Outcome State Fault Refusal :=
  issue (.pqtry d q) s fun u => s.tryHandle u d q.toNat

/-- PQGIVE (R165). -/
def execPqgive (q : BitVec 3) (a : BitVec 5) (b : SSrc) (s : State) : Host.Outcome State Fault Refusal :=
  issue (.pqgive q a b) s fun u => s.giveAllowance u q.toNat a b

end Sys2Proof.Machine
end

