-- ==== Sys2Proof/Machine/Barriers.lean ====
section
/-! DEFINITION. Barriers of teams, gangs and launches (R306 to R313). -/

namespace Sys2Proof.Machine

/-- A squad's name in rosters (R312). -/
def State.memberOf (s : State) (q : Squad) : Nat := 32 * ((s.teamOf q).map (·.index)).getD 0 + q.sq

/-- The barrier that a scope code and a number name to a squad: of its team, of its gang, or its gang's sub-barrier
(R306, R311). -/
def State.barrier (s : State) (q : Squad) (c n : Nat) : Barrier :=
  if c = 1 then ((s.teamOf q).map fun t => at' t.barriers n {}).getD {}
  else if c = 2 then ((s.gangOf q).map fun g => at' g.barriers n {}).getD {}
  else ((s.gangOf q).map fun g => at' g.routers n {}).getD {}

/-- Replace a barrier that a squad names. -/
def State.setBarrier (s : State) (q : Squad) (c n : Nat) (x : Barrier) : State :=
  match s.teamOf q with
  | none => s
  | some t =>
    if c = 1 then s.setTeam q.team { t with barriers := put t.barriers n x }
    else
      match s.gangs.get? t.gang with
      | none => s
      | some g =>
        if c = 2 then s.setGang t.gang { g with barriers := put g.barriers n x }
        else s.setGang t.gang { g with routers := put g.routers n x }

/-- Whether the arrived set equals a roster that is not empty (R306). -/
def Barrier.full (x : Barrier) : Bool :=
  !x.roster.isEmpty && x.roster.all x.arrived.contains && x.arrived.all x.roster.contains

/-- The phase completes if everyone has arrived (R308). -/
def Barrier.complete (x : Barrier) : Barrier := if x.full then { x with phase := !x.phase, arrived := [] } else x

/-- A member arrives. -/
def Barrier.arrive (x : Barrier) (m : Nat) : Barrier := { x with arrived := x.arrived ++ [m] }

/-- A member joins the roster. -/
def Barrier.join (x : Barrier) (m : Nat) : Barrier :=
  if x.roster.contains m then x else { x with roster := x.roster ++ [m] }

/-- A member leaves the roster and the arrived set. -/
def Barrier.leave (x : Barrier) (m : Nat) : Barrier :=
  { x with roster := x.roster.filter (· != m), arrived := x.arrived.filter (· != m) }

/-- A phase completes: every wait on it is released, in one step (R306). -/
def State.releaseWaits (s : State) (among : Squad → Bool) (p : Wait → Bool) : State :=
  { s with squads := s.squads.map fun (e : Nat × Squad) =>
      if among e.2 then
        (e.1, { e.2 with splits := e.2.splits.map fun x =>
          if (x.wait.map p).getD false then { x with wait := none, released := true } else x })
      else e }

/-- Whether a wait is on a barrier of some scopes and a number. -/
def Wait.onBarrier (scopes : Nat → Bool) (n : Nat) : Wait → Bool
  | .barrier c m _ => scopes c && m == n
  | _ => false

/-- The key of a squad's gang. -/
def State.gangKeyOf (s : State) (q : Squad) : Option Nat := (s.teamOf q).map (·.gang)

/-- The instance of a router barrier for a gang: of its die, or of the package (R311). -/
def instanceOf (scope : Nat) (g : Gang) : Nat := if scope = 3 then g.routerDie else 8

/-! ## The routers (R311) -/

/-- An instance completes: its phase turns, and so does every member gang's sub-barrier. -/
def State.instanceDone (s : State) (l n i : Nat) (gangs : List Nat) : State :=
  let s := match s.launches.get? l with
    | none => s
    | some x =>
      let r := at' x.routers n {}
      let r := { r with instances := r.instances.set i (r.instances.getD i {}).complete }
      s.setLaunch l { x with routers := put x.routers n r }
  gangs.foldl (fun s g => match s.gangs.get? g with
    | none => s
    | some y =>
      let b := at' y.routers n {}
      (s.setGang g { y with routers := put y.routers n { b with phase := !b.phase, arrived := [] } }).releaseWaits
        (fun q => s.gangKeyOf q == some g) (Wait.onBarrier (fun c => decide (2 < c)) n)) s

/-- The arrival, or the leave, of a gang at a router (R311). At pod scope the arrivals of the other packages of the
launch are free (log 3). -/
def State.routeArrival (s : State) (g n : Nat) : State :=
  match s.gangs.get? g with
  | none => s
  | some y =>
    match s.launches.get? y.launch with
    | none => s
    | some l =>
      let r := at' l.routers n {}
      match r.scope with
      | none => s
      | some c =>
        let sub := at' y.routers n {}
        let i := instanceOf c y
        let b := r.instances.getD i {}
        let b := if sub.roster.isEmpty then b.leave g
          else if sub.full && b.roster.contains g && !b.arrived.contains g then b.arrive g else b
        let s := s.setLaunch y.launch { l with routers := put l.routers n { r with instances := r.instances.set i b } }
        if b.full then
          if c = 6 ∧ 1 < l.podCount then
            if has s.free 0 then s.spend.instanceDone y.launch n i b.roster else s.spend
          else s.instanceDone y.launch n i b.roster
        else s

/-- Gangs whose sub-barrier is full: their routers have not completed (R311). -/
def State.routerPending (s : State) : List (Nat × Nat) :=
  (s.gangs.map fun (g : Nat × Gang) =>
    ((List.range 4).filter fun n => (at' g.2.routers n {}).full).map fun n => (g.1, n)).flatten

/-- After a change of a barrier: team and gang barriers complete at once; a gang's sub-barrier that is full, or whose
roster is empty, sends its arrival or its leave to the routers (R308, R311). -/
def State.settleBarrier (s : State) (q : Squad) (c n : Nat) (x : Barrier) : State :=
  if c ≤ 2 then
    let t := s.setBarrier q c n x.complete
    if x.full then
      t.releaseWaits (fun r => if c = 1 then r.team == q.team else s.gangKeyOf r == s.gangKeyOf q) (Wait.onBarrier (· == c) n)
    else t
  else
    let s := s.setBarrier q c n x
    match s.teamOf q with
    | none => s
    | some t =>
      if x.full ∨ x.roster.isEmpty then s.routeArrival t.gang n else s

/-- The reasons of R310. -/
def barFault (reason c n : Nat) (s : State) : Result :=
  .stops (.trap .barfault (BitVec.ofNat 64 (n + c * 2 ^ 9 + reason * 2 ^ 16))) s

/-- The gangs of a launch that have not ended. -/
def State.gangsOf (s : State) (l : Nat) : List (Nat × Gang) :=
  s.gangs.filter fun g => g.2.launch == l && g.2.phase != .ended

/-- The instances of a router barrier at the moment its scope is fixed: every gang of the launch whose sub-barrier has
members (R306, R311). -/
def State.routerRosters (s : State) (l n scope : Nat) : Tbl Barrier :=
  (s.gangsOf l).foldl (fun t g =>
    if (at' g.2.routers n {}).roster.isEmpty then t
    else t.set (instanceOf scope g.2) ((t.getD (instanceOf scope g.2) {}).join g.1)) []

/-- Name a router barrier at a scope: the first name fixes the scope; BARFAULT 5 or 6 (R310, R311). -/
def State.nameRouter (s : State) (q : Squad) (c n : Nat) : Except Nat State :=
  if c ≤ 2 then .ok s
  else
    match s.gangOf q with
    | none => .ok s
    | some g =>
      match s.launches.get? g.launch with
      | none => .ok s
      | some l =>
        if l.coop = false then .error 5
        else
          let r := at' l.routers n {}
          match r.scope with
          | some x => if x = c then .ok s else .error 6
          | none =>
            .ok (s.setLaunch g.launch { l with
              routers := put l.routers n ⟨some c, s.routerRosters g.launch n c⟩ })

/-- The release of a barrier word (R309): a full release log holds it back (R286), and so does an earlier access that waits. -/
def State.barrierRelease (s : State) (u : Issuer) (c : Nat) : Except Result State :=
  if s.logFull u.squad.core c then .error (.stops (.wait .releaseLog) s)
  else
    let s := s.performAll u.key
    if s.unperformed u.key none then .error (.stops (.wait .memory) s)
    else .ok (s.release u.squad.core (s.contextOf u.squad) c)

/-- Arrive at a barrier: the token, or why not (R308, R310). -/
def State.arriveAt (s : State) (u : Issuer) (c n : Nat) : Except Result (Bool × State) :=
  let q := u.squad
  match s.nameRouter q c n with
  | .error r => .error (barFault r c n s)
  | .ok s =>
    let x := s.barrier q c n
    let m := s.memberOf q
    if x.roster.contains m = false then .error (barFault 1 c n s)
    else if x.arrived.contains m then .error (barFault 2 c n s)
    else
      match s.barrierRelease u c with
      | .error r => .error r
      | .ok s => .ok (x.phase, s.settleBarrier q c n (x.arrive m))

/-- ZeroExtend of a phase bit. -/
def tokenWord (t : Bool) : DWord := if t then 1 else 0

/-- BARA (R308). -/
def State.barrierArrive (s : State) (u : Issuer) (d : BitVec 5) (c n : Nat) : Result :=
  match s.arriveAt u c n with
  | .error r => r
  | .ok (t, s) => .takes .next (s.onSquad u.key fun q => q.setSreg d.toNat (tokenWord t))

/-- Pass or wait on a barrier with a token; a wait that its phase's completion has released passes (R306, R308). -/
def State.barrierPass (s : State) (u : Issuer) (c n : Nat) (t : Bool) : Result :=
  if (s.barrier u.squad c n).phase = t ∧ u.split.released = false then .stops (.wait (.barrier c n t)) s else .takes .next s

/-- BARW (R308). -/
def State.barrierWait (s : State) (u : Issuer) (d : BitVec 5) (c n : Nat) : Result :=
  match s.nameRouter u.squad c n with
  | .error r => barFault r c n s
  | .ok s => s.barrierPass u c n (has (u.squad.sreg d.toNat) 0)

/-- BARX (R308, R313): an arrival that has been performed is not performed again. -/
def State.barrierExchange (s : State) (u : Issuer) (d : BitVec 5) (c n : Nat) : Result :=
  match u.split.arrived with
  | some t => s.barrierPass u c n t
  | none =>
    match s.arriveAt u c n with
    | .error r => r
    | .ok (t, s) =>
      let s := s.onSquad u.key fun q => q.setSreg d.toNat (tokenWord t)
      (s.onSplit u.key u.split.id fun p => { p with arrived := some t }).barrierPass u c n t

/-- BARJ (R308). A gang whose sub-barrier gets its first member again joins the instance again. -/
def State.barrierJoin (s : State) (u : Issuer) (c n : Nat) : Result :=
  let q := u.squad
  match s.nameRouter q c n with
  | .error r => barFault r c n s
  | .ok s =>
    let x := s.barrier q c n
    let s := s.setBarrier q c n (x.join (s.memberOf q))
    match s.teamOf q, s.gangOf q with
    | some t, some g =>
      match s.launches.get? g.launch with
      | none => .takes .next s
      | some l =>
        let r := at' l.routers n {}
        let i := instanceOf c g
        if 2 < c ∧ x.roster.isEmpty then
          let r := { r with instances := r.instances.set i ((r.instances.getD i {}).join t.gang) }
          .takes .next (s.setLaunch g.launch { l with routers := put l.routers n r })
        else .takes .next s
    | _, _ => .takes .next s

/-- A squad leaves a barrier that holds it (R308). -/
def State.leaveBarrier (s : State) (q : Squad) (c n : Nat) : State :=
  let x := s.barrier q c n
  if x.roster.contains (s.memberOf q) then s.settleBarrier q c n (x.leave (s.memberOf q)) else s

/-- BARL (R308). -/
def State.barrierLeave (s : State) (u : Issuer) (c n : Nat) : Result :=
  let q := u.squad
  match s.nameRouter q c n with
  | .error r => barFault r c n s
  | .ok s =>
    if (s.barrier q c n).roster.contains (s.memberOf q) = false then .takes .next s
    else
      match s.barrierRelease u c with
      | .error r => r
      | .ok s => .takes .next (s.leaveBarrier q c n)

/-- A squad that has ended leaves a barrier as BARL does: its writes are released at the barrier's scope first (R308, R309). A
router barrier has the scope that was fixed for it (R310). -/
def State.quitBarrier (s : State) (q : Squad) (c n : Nat) : State :=
  if (s.barrier q c n).roster.contains (s.memberOf q) then
    let scope := if c ≤ 2 then c else ((s.launchOf q).bind fun l => (at' l.routers n {}).scope).getD c
    (s.release q.core (s.contextOf q) scope).leaveBarrier q c n
  else s

/-- A squad that has ended leaves every team and gang barrier, and its gang's sub-barriers (R308, R311). -/
def State.leaveBarriers (s : State) (q : Squad) : State :=
  let s := (List.range 16).foldl (fun s n => s.quitBarrier q 1 n) s
  let s := (List.range 8).foldl (fun s n => s.quitBarrier q 2 n) s
  (List.range 4).foldl (fun s n => s.quitBarrier q 3 n) s

/-- Whether a split of the team, or of the gang, waits on a barrier whose phase is not complete (R308). -/
def State.awaitedBarrier (s : State) (q : Squad) (c n : Nat) : Bool :=
  let ph := (s.barrier q c n).phase
  s.squads.any fun e =>
    (if c = 1 then e.2.team == q.team else s.gangKeyOf e.2 == s.gangKeyOf q) &&
    e.2.splits.any fun p => p.wait == some (.barrier c n ph)

/-- BARI (R308, R310). -/
def State.barrierInit (s : State) (u : Issuer) (d : BitVec 5) (c n : Nat) : Result :=
  let q := u.squad
  let v := q.sreg d.toNat
  let x := s.barrier q c n
  let nsq := ((s.launchOf q).map (·.squads)).getD 1
  let teams := ((s.launchOf q).map (·.teams)).getD 1
  if !x.arrived.isEmpty || s.awaitedBarrier q c n then barFault 3 c n s
  else if v.toNat / 2 ^ (if c = 1 then nsq else teams) ≠ 0 then barFault 4 c n s
  else
    let roster :=
      if c = 1 then
        let t := ((s.teamOf q).map (·.index)).getD 0
        ((List.range 32).filter fun i => has v i).map (32 * t + ·)
      else
        (((List.range 8).filter fun i => has v i).map fun t => (List.range nsq).map (32 * t + ·)).flatten
    .takes .next (s.setBarrier q c n { x with roster })

/-- BARI (R308). -/
def execBari (sc : BitVec 5) (c : BitVec 3) (n : BitVec 4) (s : State) : Host.Outcome State Fault Refusal :=
  issue (.bari sc c n) s fun u => s.barrierInit u sc c.toNat n.toNat

/-- BARA (R308). -/
def execBara (sc : BitVec 5) (c : BitVec 3) (n : BitVec 4) (s : State) : Host.Outcome State Fault Refusal :=
  issue (.bara sc c n) s fun u => s.barrierArrive u sc c.toNat n.toNat

/-- BARW (R308). -/
def execBarw (sc : BitVec 5) (c : BitVec 3) (n : BitVec 4) (s : State) : Host.Outcome State Fault Refusal :=
  issue (.barw sc c n) s fun u => s.barrierWait u sc c.toNat n.toNat

/-- BARX (R308). -/
def execBarx (sc : BitVec 5) (c : BitVec 3) (n : BitVec 4) (s : State) : Host.Outcome State Fault Refusal :=
  issue (.barx sc c n) s fun u => s.barrierExchange u sc c.toNat n.toNat

/-- BARJ (R308). -/
def execBarj (c : BitVec 3) (n : BitVec 4) (s : State) : Host.Outcome State Fault Refusal :=
  issue (.barj c n) s fun u => s.barrierJoin u c.toNat n.toNat

/-- BARL (R308). -/
def execBarl (c : BitVec 3) (n : BitVec 4) (s : State) : Host.Outcome State Fault Refusal :=
  issue (.barl c n) s fun u => s.barrierLeave u c.toNat n.toNat

/-- ROUTER_ARRIVAL (R311). -/
def execRouterArrival (gang n : Nat) (s : State) : Host.Outcome State Fault Refusal := .next (s.routeArrival gang n)

end Sys2Proof.Machine
end

