-- ==== Sys2Proof/Machine/Tensors.lean ====
section
/-! DEFINITION. The tensor table, its words, and the work distributor (R215 to R218, R228); where the elements of a
tensor lie (R100, R108, R216). -/

namespace Sys2Proof.Machine

/-! ## Descriptors (R216) -/

/-- Bits of a descriptor from `lo` up. -/
def Descriptor.fld (d : Descriptor) (lo len : Nat) : Nat := d.toNat / 2 ^ lo % 2 ^ len

def Descriptor.base (d : Descriptor) : Nat := d.fld 0 44 * 16
def Descriptor.space (d : Descriptor) : Nat := d.fld 49 2
def Descriptor.valid (d : Descriptor) : Bool := d.getLsbD 51
def Descriptor.stride (d : Descriptor) : Nat := d.fld 56 32
def Descriptor.rows (d : Descriptor) : Nat := d.fld 88 20
def Descriptor.cols (d : Descriptor) : Nat := d.fld 108 20
def Descriptor.blk (d : Descriptor) : Nat := d.fld 128 44 * 16
def Descriptor.band (d : Descriptor) : Nat := d.fld 172 44 * 16
def Descriptor.row0 (d : Descriptor) : Nat := d.fld 216 20
def Descriptor.col0 (d : Descriptor) : Nat := d.fld 236 20

/-- The format; an entry with V = 1 has one (R217). -/
def Descriptor.fmt (d : Descriptor) : Fmt := (fmtOf d.fmtCode).getD .f32

/-- A descriptor with its cursor set. -/
def Descriptor.withCursor (d : Descriptor) (row col : Nat) : Descriptor :=
  BitVec.ofNat 256 (d.toNat % 2 ^ 216 + row % 2 ^ 20 * 2 ^ 216 + col % 2 ^ 20 * 2 ^ 236)

/-- The first slice of a tensor in the operand stack (R216). -/
def Descriptor.slice (d : Descriptor) : Nat := d.base / 2 ^ 17 % 16

/-- The stripe offset of a tensor in the operand stack (R216). -/
def Descriptor.offset (d : Descriptor) : Nat := d.base % 2 ^ 12

/-- Element `k` of packed elements of `n` bits, over bytes (R100). -/
def packedElem (rd : Nat → Byte) (n k : Nat) : Nat :=
  leNat ((List.range ((n + 7) / 8)).map fun j => rd (k * n / 8 + j)) / 2 ^ (k * n % 8) % 2 ^ n

/-- The address of the row of an element, in spaces 0, 1 and 3. -/
def Descriptor.rowAt (d : Descriptor) (row : Nat) : Nat := d.base + row * d.stride

/-- The address of the block scale of a block at a non-reduction index, with reduction extent `k` (R108). -/
def Descriptor.blockAt (d : Descriptor) (i k b : Nat) : Nat := d.blk + i * (k / d.fmt.block) + b

/-- The address of the band scale at a non-reduction index (R108). -/
def Descriptor.bandAt (d : Descriptor) (i : Nat) : Nat := d.band + 2 * (i / 64)

/-- Replace a squad's tensor entry. -/
def State.setTensor (s : State) (q : Squad) (n : Nat) (d : Descriptor) : State :=
  match s.teamOf q with
  | none => s
  | some t => s.setTeam q.team { t with tensors := put t.tensors n d }

/-- A word that names tensors waits for an outstanding TIDSET of one of them (R218). -/
def Squad.tensorGate (q : Squad) (names : List Nat) : Option Stop :=
  match names.find? q.tensorBusy with
  | some n => some (.wait (.tensor n))
  | none => none

/-! ## TIDSET to WGET -/

/-- TIDSET (R218). -/
def State.tensorSet (s : State) (u : Issuer) (w : Instr) (n a : BitVec 5) (sc : BitVec 3) (o : VSrc) : Result :=
  let q := u.squad
  match q.tensorGate [n.toNat] with
  | some e => .stops e s
  | none =>
    s.memoryWord u {
      op := { id := 0, instr := w, pos := 0, kind := .tidset n, flag := none, path := some 0, loadClass := true,
              scope := q.scope sc, size := 32
              lanes := [{ lane := 0, va := q.addresses a o 0, place := untranslated }] } }
      (fun l => laneCheck 32 l.va) true

/-- TIDGET (R218): the entry as it stands at issue. -/
def State.tensorGet (s : State) (u : Issuer) (w : Instr) (n a : BitVec 5) (sc : BitVec 3) (o : VSrc) : Result :=
  let q := u.squad
  match q.tensorGate [n.toNat] with
  | some e => .stops e s
  | none =>
    s.memoryWord u {
      op := { id := 0, instr := w, pos := 0, kind := .tidget n, flag := none, path := some 1, loadClass := false,
              scope := q.scope sc, size := 32
              lanes := [{ lane := 0, va := q.addresses a o 0, place := untranslated,
                          data := leBytes (s.tensor q n.toNat).toNat 32 }] } }
      (fun l => laneCheck 32 l.va) true

/-- TIDCUR (R218): TIDBAD comes before the trap of a port that cannot be read (R413). -/
def State.tensorCursor (s : State) (u : Issuer) (n a : BitVec 5) (b : SSrc) : Result :=
  let q := u.squad
  let d := s.tensor q n.toNat
  let bad := Stop.trap .tidbad (BitVec.ofNat 64 n.toNat)
  let r : Except Stop (DWord × DWord × List Nat) := do
    let (x, pops) ← q.readSlot a.toNat []
    let (y, pops) ← q.readB b pops
    pure (x, y, pops)
  let far := fun (v : Except Stop (DWord × List Nat)) => match v with
    | .ok (x, _) => decide (2 ^ 20 ≤ x.toNat)
    | .error _ => false
  match q.tensorGate [n.toNat], r with
  | some e, _ => .stops e s
  | none, .error e => .stops (if e.isTrap && (!d.valid || far (q.readSlot a.toNat []) || far (q.readB b [])) then bad else e) s
  | none, .ok (x, y, pops) =>
    if d.valid = false ∨ 2 ^ 20 ≤ x.toNat ∨ 2 ^ 20 ≤ y.toNat then .stops bad s
    else .takes .next ((s.setTensor q n.toNat (d.withCursor x.toNat y.toNat)).setSquad u.key (q.popAll pops))

/-- TIDINV (R218). -/
def State.tensorInvalidate (s : State) (u : Issuer) (n : BitVec 5) : Result :=
  match u.squad.tensorGate [n.toNat] with
  | some e => .stops e s
  | none => .takes .next (s.setTensor u.squad n.toNat (s.tensor u.squad n.toNat &&& ~~~(1#256 <<< 51)))

/-- The range that WGET returns from an iteration `t` of a team's range up to `last`, tiles of `iters` (R228). -/
def workRange (t last iters : Nat) : DWord × Nat :=
  if last ≤ t then (BitVec.ofNat 64 (2 ^ 63), t)
  else
    let tile := t / iters
    let stop := min last ((tile + 1) * iters)
    let kbeg := t % iters
    let kend := stop - tile * iters
    let fix := decide (kbeg ≠ 0) || decide (kend ≠ iters)
    (BitVec.ofNat 64 (tile % 2 ^ 24 + kbeg * 2 ^ 24 + kend * 2 ^ 43 + (if fix then 2 ^ 62 else 0)), stop)

/-- WGET (R218, R228). -/
def State.workWord (s : State) (u : Issuer) (w : Instr) (d : BitVec 5) : Result :=
  let q := u.squad
  match s.launchOf q, s.gangOf q, s.teamOf q with
  | some l, some g, some t =>
    if l.wdist = false then illop w s
    else
      let j := g.index * l.teams + t.index
      let r := l.gangCount * l.teams
      let lo := j * l.tiles * l.iters / r
      let hi := (j + 1) * l.tiles * l.iters / r
      let x := workRange (t.work.getD lo) hi l.iters
      .takes .next ((s.setTeam q.team { t with work := some x.2 }).setSquad u.key (q.setSreg d.toNat x.1))
  | _, _, _ => illop w s

/-- TIDSET (R218). -/
def execTidset (n : BitVec 5) (a : BitVec 5) (sc : BitVec 3) (o : VSrc) (s : State) : Host.Outcome State Fault Refusal :=
  issue (.tidset n a sc o) s fun u => s.tensorSet u (.tidset n a sc o) n a sc o

/-- TIDGET (R218). -/
def execTidget (n : BitVec 5) (a : BitVec 5) (sc : BitVec 3) (o : VSrc) (s : State) : Host.Outcome State Fault Refusal :=
  issue (.tidget n a sc o) s fun u => s.tensorGet u (.tidget n a sc o) n a sc o

/-- TIDCUR (R218). -/
def execTidcur (n : BitVec 5) (a : BitVec 5) (b : SSrc) (s : State) : Host.Outcome State Fault Refusal :=
  issue (.tidcur n a b) s fun u => s.tensorCursor u n a b

/-- TIDINV (R218). -/
def execTidinv (n : BitVec 5) (s : State) : Host.Outcome State Fault Refusal :=
  issue (.tidinv n) s fun u => s.tensorInvalidate u n

/-- WGET (R228). -/
def execWget (d : BitVec 5) (s : State) : Host.Outcome State Fault Refusal :=
  issue (.wget d) s fun u => s.workWord u (.wget d) d

end Sys2Proof.Machine
end

