-- ==== Sys2Proof/Machine/Matrix.lean ====
section
/-! DEFINITION. The matrix words and the accumulator words (R231 to R253), with the tiles of a core (R241, R254). -/

namespace Sys2Proof.Machine

/-! ## Tile slots (R205, R241, R254, R255) -/

/-- The lowest name of some that is at or above the declared tile count (R249). -/
def State.accGate (s : State) (q : Squad) (names : List Nat) : Option Stop :=
  match badName (s.accCount q) names with
  | some n => some (.trap .accname (BitVec.ofNat 64 n))
  | none => none

/-- A word of this chapter waits while the core holds tiles of another context (R255). -/
def State.ownerGate (s : State) (q : Squad) : Option Stop :=
  if (s.core q.core).tiles.any fun t => t.2.context != logContext (s.contextOf q) then some (.wait .firstUse) else none

/-- A squad's tile footprint: bound tiles and retired ones (R201, R205). -/
def State.tileFootprint (s : State) (k : Nat) (q : Squad) : Nat :=
  ((s.core q.core).tiles.filter fun t => t.2.squad == k && t.2.deferred.isNone).length

/-- The tile floor (R205). -/
def State.tileFloor (s : State) (q : Squad) : Nat := if s.accCount q = 0 then 0 else 1

/-- Tiles of the pool (R205). -/
def State.tilePool (s : State) (core : Nat) : Nat :=
  64 - ((s.squadsOn core).map fun e => max (s.tileFootprint e.1 e.2) (s.tileFloor e.2)).sum

/-- The pool tiles that `need` new ones would take above the floor (R202, R205). -/
def State.tileExcess (s : State) (k : Nat) (q : Squad) (need : Nat) : Nat :=
  s.tileFootprint k q + need - max (s.tileFootprint k q) (s.tileFloor q)

/-- The sub-arrays on which a squad's waiting words need tile slots (R205, R241). -/
def Squad.subClaims (q : Squad) : List Nat := q.splits.flatMap fun p => match p.wants with
  | some (.tile subs) => subs
  | _ => []

/-- The pool tiles that a squad's waiting words need together (R202, R205). -/
def State.tileClaim (s : State) (k : Nat) (q : Squad) : Nat := s.tileExcess k q q.subClaims.length

/-- Whether the pool allows a squad `need` new tiles, after what the waiting words of the core's older squads need (R202,
R205). -/
def State.canTakeTiles (s : State) (k : Nat) (q : Squad) (need : Nat) : Bool :=
  let x := s.tileExcess k q need
  let older := (s.squadsOn q.core).filter fun e => decide (s.age e.2 < s.age q) && !e.2.halted
  decide (x = 0) || decide (x + (older.map fun e => s.tileClaim e.1 e.2).sum ≤ s.tilePool q.core)

/-- The lowest free slots of some sub-arrays, one for each of the list (R241). -/
def Core.slots (c : Core) : List Nat → List Nat → Option (List Nat)
  | [], _ => some []
  | b :: bs, taken =>
    match ((List.range 4).map (4 * b + ·)).find? fun t => (c.tiles.get? t).isNone && !taken.contains t with
    | none => none
    | some t => (c.slots bs (t :: taken)).map (t :: ·)

/-- The slots of sub-arrays for which older squads of the core wait, that the pool would let take them (R202, R205, R241). -/
def State.olderSubs (s : State) (q : Squad) : List Nat :=
  ((s.squadsOn q.core).filter fun e => decide (s.age e.2 < s.age q) && !e.2.halted && s.canTakeTiles e.1 e.2 e.2.subClaims.length).flatMap
    fun e => e.2.subClaims

/-- Whether each of some sub-arrays has slots left over from what older squads wait for there (R202, R205). -/
def State.leavesSlots (s : State) (q : Squad) (subs : List Nat) : Bool :=
  subs.all fun b => decide (subs.count b + (s.olderSubs q).count b ≤
    (((List.range 4).map (4 * b + ·)).filter fun t => ((s.core q.core).tiles.get? t).isNone).length) || decide ((s.olderSubs q).count b = 0)

/-- Fresh tiles for a word, or its wait (R241). -/
def State.freshSlots (s : State) (k : Nat) (q : Squad) (subs : List Nat) : Except Stop (List Nat) :=
  if subs.isEmpty then .ok []
  else if s.canTakeTiles k q subs.length && s.leavesSlots q subs then
    match (s.core q.core).slots subs [] with
    | some l => .ok l
    | none => .error (.wait (.tile subs))
  else .error (.wait (.tile subs))

/-- Unbind an accumulator name: its tile is retired, and returns once nothing reads it (R241). -/
def State.unbindTile (s : State) (k n : Nat) : State :=
  match s.squads.get? k with
  | none => s
  | some q =>
    match at' q.accs n none with
    | none => s
    | some t =>
      let s := s.setSquad k { q with accs := put q.accs n none }
      match s.tile q.core t with
      | none => s
      | some x => (s.setTile q.core t { x with retired := true }).dropRetired q.core

/-- AOWN names the context whose tiles the file holds (R254). -/
def ownerWord (ctx : Nat) : DWord :=
  BitVec.ofNat 64 (2 ^ 63 + contextVf ctx * 2 ^ 36 + pasid (contextIface ctx) % 2 ^ 20 * 2 ^ 16)

/-- Bind a fresh tile to a name (R241). -/
def State.bindTile (s : State) (k n slot : Nat) (isInt : Bool) : State :=
  let s := s.unbindTile k n
  match s.squads.get? k with
  | none => s
  | some q =>
    let ctx := s.contextOf q
    let c := s.core q.core
    let x : Tile := { squad := k, context := logContext ctx, words := List.replicate 1024 0, isInt }
    (s.setCore q.core { c with tiles := c.tiles.set slot x, aown := ownerWord ctx }).setSquad k
      { q with accs := put q.accs n (some slot) }

/-- The parts of a matrix word (R246). -/
def OpKind.parts : OpKind → List MmaPart
  | .mma _ _ _ parts => parts
  | _ => []

/-- The status word of a tile as it is read (R243): how far the part that runs on it has come is free, but not before where a halt
stopped it (R252; log 3). -/
def State.tileStatus (s : State) (q : Squad) (t : Nat) : DWord :=
  match s.tile q.core t with
  | none => 0
  | some x =>
    let ops := q.ops.filter fun o => !o.finished && match o.kind with
      | .mma .. => o.kind.tiles.contains t
      | _ => false
    let first := ((s.core q.core).subs.getD (t / 4) []).head?.bind fun r => ops.find? fun o => o.id == r.2.1 && !o.asks
    let running := (first.bind fun o => o.kind.parts.find? fun p => p.sub == t / 4 && !p.finished).filter fun p => p.tile == t
    let step := (running.map fun p => p.steps + s.free.toNat % (32 - p.steps)).getD 0
    BitVec.ofNat 64 (2 ^ 63 + ops.length % 256 * 2 ^ 32 + step * 2 ^ 16 +
      t / 4 * 2 ^ 12 + t % 4 * 2 ^ 10 + (if x.isInt then 2 ^ 8 else 0) + (if x.ovf then 1 else 0))

/-- LIVE of AOWN: tiles of the owner in the file (R254). -/
def State.ownerLive (s : State) (core : Nat) : Nat := (s.core core).tiles.length

/-- AOWN as it reads (R254): V while the file holds tiles of the context named, and how many. -/
def State.ownerReg (s : State) (core : Nat) : DWord :=
  let v := (s.core core).aown
  withBits (withBits v 63 63 (if has v 63 ∧ 0 < s.ownerLive core then 1 else 0)) 55 48 (s.ownerLive core)

/-! ## Operands of matrix words (R237 to R240) -/

/-- The bytes of a stripe of a team's share (R234, R235). -/
def Team.stripe (t : Team) (q stripe : Nat) (o : Nat) : Byte := readByte t.stack (stripe * q + o)

/-- Row `r` of A in vector registers from `m` up, as bytes (R237). -/
def Squad.rowByte (q : Squad) (m r j : Nat) : Byte :=
  (lane (q.vreg (m + r / 2)) (16 * (r % 2) + j / 4) >>> (8 * (j % 4))).setWidth 8

/-- A BF16 of the scratchpad (R108). -/
def Team.half (t : Team) (a : Nat) : Nat := leNat (readBytes t.scratch a 2)

/-- A as rows: elements, block scales and band scales (R238). -/
def Team.readA (t : Team) (d : Descriptor) (h kb : Nat) : List (List Nat) × List (List Nat) × List Nat :=
  let f := d.fmt
  let rows := (List.range h).map (d.row0 + ·)
  (rows.map fun r => (List.range kb).map fun k => packedElem (fun j => readByte t.scratch (d.rowAt r + j)) f.bits (d.col0 + k),
   if f.scaled then rows.map fun r => (List.range (kb / f.block)).map fun b =>
      (readByte t.scratch (d.blockAt r d.cols (d.col0 / f.block + b))).toNat else [],
   if f = .sf4 then rows.map fun r => t.half (d.bandAt r) else [])

/-- B as columns: elements, block scales and band scales (R238); `q` is the share of a stripe. -/
def Team.readB (t : Team) (q : Nat) (d : Descriptor) (h kb : Nat) : List (List Nat) × List (List Nat) × List Nat :=
  let f := d.fmt
  let cols := (List.range h).map (d.col0 + ·)
  let stripe := fun (n : Nat) => (d.slice + n / 32) * 32 + n % 32
  (cols.map fun n => (List.range kb).map fun k => packedElem (fun j => t.stripe q (stripe n) (d.offset + j)) f.bits (d.row0 + k),
   if f.scaled then cols.map fun n => (List.range (kb / f.block)).map fun b =>
      (t.stripe q (stripe n) (d.offset + (d.rows * f.bits + 7) / 8 + d.row0 / f.block + b)).toNat else [],
   if f = .sf4 then cols.map fun n => t.half (d.bandAt n) else [])

/-- TIDBAD with a t-number and a reason (R240). -/
def tidBad (t reason : Nat) : Stop := .trap .tidbad (BitVec.ofNat 64 (t + reason * 256))

/-- The first of some checks that fails. -/
def firstOf : List (Bool × Stop) → Option Stop
  | [] => none
  | (b, e) :: l => if b then some e else firstOf l

/-- The checks of A, in the tensor form, from its pair on: reason 5, then 4 (R240, R247). -/
def checkA (t limit h kb : Nat) (d : Descriptor) : List (Bool × Stop) :=
  let f := d.fmt
  [(f.scaled && (decide (d.col0 % f.block ≠ 0) || decide (d.cols % f.block ≠ 0)), tidBad t 5),
   (decide (d.rows < d.row0 + h) || decide (d.cols < d.col0 + kb) ||
      (f.scaled && decide (limit < d.blockAt (d.row0 + h - 1) d.cols ((d.col0 + kb - 1) / f.block) + 1)) ||
      (decide (f = .sf4) && decide (limit < d.bandAt (d.row0 + h - 1) + 2)), tidBad t 4)]

/-- The checks of B: reasons 6, 5, 4 (R240, R247); `wide` for MMAW. -/
def checkB (t limit h kb : Nat) (wide : Bool) (d : Descriptor) : List (Bool × Stop) :=
  let f := d.fmt
  let sub := d.slice + d.col0 / 32 + (if wide then 1 else 0)
  [(decide (d.col0 % 32 ≠ 0) || decide (15 < sub), tidBad t 6),
   (f.scaled && (decide (d.row0 % f.block ≠ 0) || decide (d.rows % f.block ≠ 0)), tidBad t 5),
   (decide (d.rows < d.row0 + kb) || decide (d.cols < d.col0 + h) ||
      (decide (f = .sf4) && decide (limit < d.bandAt (d.col0 + h - 1) + 2)), tidBad t 4)]

/-! ## MMA, MMAZ, MMAW (R245 to R248) -/

/-- The readers of tiles that are outstanding (R241). -/
def Squad.readersOf (q : Squad) (tiles : List Nat) : Bool :=
  q.ops.any fun o => !o.finished && match o.kind with
    | .accRead _ (some t) _ _ => tiles.contains t
    | .accStore (some t) => tiles.contains t
    | _ => false

/-- A matrix word (R245, R246): `fresh` for MMAZ, `wide` for MMAW. -/
def State.matrixWord (s : State) (u : Issuer) (w : Instr) (fresh wide : Bool) (sat adv inRegs : Bool) (acc ta tb : Nat) :
    Result :=
  let q := u.squad
  let h := if wide then 64 else 32
  -- name, row half, column half of each part
  let layout : List (Nat × Nat × Nat) :=
    if wide then [(acc, 0, 0), (acc + 1, 0, 1), (acc + 2, 1, 0), (acc + 3, 1, 1)] else [(acc, 0, 0)]
  let names := layout.map (·.1)
  let regs := if inRegs then (List.range (h / 2)).map (ta + ·) else []
  if u.split.mask ≠ 0xFFFFFFFF#32 ∨ q.splits.length ≠ 1 ∨ q.bench ≠ [] then
    .stops (.trap .converge (u.split.mask.setWidth 64)) s
  else
    match (s.accGate q names).or (match badName (s.regCount q) regs with
        | some n => some (.trap .regname (BitVec.ofNat 64 n))
        | none => none) with
    | some e => .stops e s
    | none =>
      match q.tensorGate (if inRegs then [tb] else [ta, tb]), s.teamOf q with
      | some e, _ => .stops e s
      | none, none => .stops (tidBad tb 0) s
      | none, some t =>
        let da := s.tensor q ta
        let db := s.tensor q tb
        let cls := if inRegs then (if db.fmt.scaled then 0 else pairClass db.fmtCode db.fmtCode)
          else pairClass da.fmtCode db.fmtCode
        let kb := db.fmt.kb
        let limit := s.scratchSize q
        let sub := fun (c : Nat) => db.slice + db.col0 / 32 + c
        let bound := fun (n : Nat) => at' q.accs n none
        let inPlace := if fresh then [] else layout.filterMap fun l => (bound l.1).map fun x => (l, x)
        let checks :=
          [(!inRegs && (!da.valid || decide (da.space ≠ 1)), tidBad ta 0),
           (!db.valid || decide (db.space ≠ 2), tidBad tb 0),
           (decide (cls = 0), tidBad tb 3)] ++
          (if inRegs then [] else checkA ta limit h kb da) ++ checkB tb limit h kb wide db ++
          inPlace.map fun l => (decide (l.2 / 4 ≠ sub l.1.2.2), tidBad tb 7)
        match (firstOf checks).or (s.ownerGate q) with
        | some e => .stops e s
        | none =>
          let m := q.awaited &&& nameMask regs
          let subs := if wide then [sub 0, sub 1] else [sub 0]
          if m ≠ 0 then .stops (.wait (.names m)) s
          else if q.readersOf (inPlace.map (·.2)) then
            .stops (.wait (.tileWords (BitVec.ofNat 8 ((names.map (2 ^ ·)).sum)))) s
          else
            match subs.find? fun b => decide (2 ≤ ((s.core q.core).subs.getD b []).length) with
            | some b => .stops (.wait (.stage b)) s
            | none =>
              let new := if fresh then layout else layout.filter fun l => (bound l.1).isNone
              match s.freshSlots u.key q (new.map fun l => sub l.2.2) with
              | .error e => .stops e s
              | .ok slots =>
                let id := s.nextId
                -- the operands, after every earlier write of the squad (R239)
                let s := s.performAll u.key
                if s.unperformed u.key none then .stops (.wait .memory) s
                else
                let share := ((s.launchOf q).map (·.stack)).getD 0 / 512
                let t := (s.teams.get? q.team).getD t
                let a := if inRegs then
                    ((List.range h).map fun r => (List.range kb).map fun k => packedElem (q.rowByte ta r) db.fmt.bits k, [], [])
                  else t.readA da h kb
                let b := t.readB share db h kb
                let ops : Operands := {
                  fmtA := if inRegs then db.fmt else da.fmt, fmtB := db.fmt
                  a := a.1, b := b.1, blkA := a.2.1, blkB := b.2.1, bandA := a.2.2, bandB := b.2.2 }
                -- the tiles
                let s := (new.zip slots).foldl (fun s x => s.bindTile u.key x.1.1 x.2 db.fmt.isInt) s
                let tileOf := fun (n : Nat) =>
                  ((s.squads.get? u.key).bind fun q => at' q.accs n none).getD 0
                let s := names.foldl (fun s n => match s.tile q.core (tileOf n) with
                  | some x => s.setTile q.core (tileOf n) { x with isInt := db.fmt.isInt }
                  | none => s) s
                let parts := layout.map fun l => ({
                  sub := sub l.2.2, tile := tileOf l.1, rowBase := 32 * l.2.1, colBase := 32 * l.2.2, fresh } : MmaPart)
                -- the cursors
                let s := if adv && !inRegs then
                    s.setTensor q ta (da.withCursor da.row0 (da.col0 + kb)) else s
                let db' := s.tensor q tb
                let s := if adv then s.setTensor q tb (db'.withCursor (db'.row0 + kb) db'.col0) else s
                -- the stages
                let c := s.core q.core
                let s := s.setCore q.core { c with
                  subs := subs.foldl (fun m b => m.set b (m.getD b [] ++ [(u.key, id, 0)])) c.subs }
                match s.squads.get? u.key with
                | none => .takes .next s
                | some q' =>
                  .takes .next (s.launchOp u q' { op := {
                    id := 0, instr := w, pos := 0, kind := .mma ops q.ftz sat parts, flag := none, path := none,
                    loadClass := false } } [])

/-! ## Accumulator words (R249 to R251) -/

/-- ACCZ (R250). -/
def State.accZero (s : State) (u : Issuer) (n : BitVec 3) (b : SSrc) : Result :=
  let q := u.squad
  match s.accGate q [n.toNat], q.readB b [] with
  | some e, _ => .stops e s
  | none, .error e => .stops e s
  | none, .ok (v, pops) =>
    match s.ownerGate q, s.freshSlots u.key q [v.toNat % 16] with
    | some e, _ => .stops e s
    | none, .error e => .stops e s
    | none, .ok l => .takes .next ((s.bindTile u.key n.toNat (l.headD 0) false).onSquad u.key fun q => q.popAll pops)

/-- A vector name and an accumulator name that are both illegal: the lower is reported (R413). -/
def State.pairGate (s : State) (q : Squad) (d n : Nat) : Option Stop :=
  let p := badName (s.regCount q) [d]
  match p, s.accGate q [n] with
  | some m, some e => if m ≤ n then some (.trap .regname (BitVec.ofNat 64 m)) else some e
  | some m, none => some (.trap .regname (BitVec.ofNat 64 m))
  | none, e => e

/-- ACCRD (R250). -/
def State.accReadWord (s : State) (u : Issuer) (w : Instr) (d : BitVec 5) (n : BitVec 3) (b : SSrc) : Result :=
  let q := u.squad
  match s.pairGate q d.toNat n.toNat, q.readB b [] with
  | some e, _ => .stops e s
  | none, .error e => .stops e s
  | none, .ok (v, pops) =>
    match s.ownerGate q with
    | some e => .stops e s
    | none =>
      s.memoryWord u {
        op := { id := 0, instr := w, pos := 0, flag := none, path := none, loadClass := true
                kind := .accRead d (at' q.accs n.toNat none) (v.toNat % 32) u.lanes }
        dests := [d.toNat]
        pops } (fun _ => none) false

/-- ACCWR (R250). -/
def State.accWriteWord (s : State) (u : Issuer) (w : Instr) (n : BitVec 3) (a : BitVec 5) (b : VSrc) : Result :=
  let q := u.squad
  let bad := match badName (s.regCount q) (b.names false) with
    | some m => s.pairGate q m n.toNat
    | none => s.accGate q [n.toNat]
  match bad, q.readSlot a.toNat [] with
  | some e, _ => .stops e s
  | none, .error e => .stops e s
  | none, .ok (v, pops) =>
    match at' q.accs n.toNat none, s.ownerGate q with
    | none, _ => .stops (.trap .accname (BitVec.ofNat 64 n.toNat)) s
    | some _, some e => .stops e s
    | some t, none =>
      s.memoryWord u {
        op := { id := 0, instr := w, pos := 0, flag := none, path := none, loadClass := false
                kind := .accWrite t (v.toNat % 32) u.lanes (lanesOf (q.src 5 true b).lo) }
        names := b.names false
        rels := b.released false
        pops } (fun _ => none) false

/-- The accesses of a 32 × 32 region of words at a cursor, in row order (R251). -/
def regionLanes (d : Descriptor) : List LaneAccess :=
  (List.range 1024).map fun e =>
    let va := BitVec.ofNat 64 (d.rowAt (d.row0 + e / 32) + 4 * (d.col0 + e % 32))
    { lane := e, va, place := if d.space = 1 then .scratch va.toNat else untranslated }

/-- The checks of ACCLD and ACCST (R251): `fmtOk` says whether the format is the one needed. -/
def regionCheck (t : Nat) (d : Descriptor) (fmtOk : Bool) : Option Stop :=
  firstOf [
    (!d.valid || decide (d.space = 2), tidBad t 0),
    (!fmtOk, tidBad t 3),
    (decide (d.rows < d.row0 + 32) || decide (d.cols < d.col0 + 32), tidBad t 4),
    (decide (d.stride % 4 ≠ 0),
      -- the base is a multiple of 16: row r is misaligned when r times the stride is
      let r := ((List.range 32).find? fun k => decide ((d.row0 + k) * d.stride % 4 ≠ 0)).getD 0
      .trap .align (BitVec.ofNat 64 (d.rowAt (d.row0 + r) + 4 * d.col0)))]

/-- ACCLD (R251): the tile is bound at issue. -/
def State.accLoadWord (s : State) (u : Issuer) (w : Instr) (n : BitVec 3) (t : BitVec 5) (b : SSrc) : Result :=
  let q := u.squad
  let d := s.tensor q t.toNat
  match (s.accGate q [n.toNat]).or (q.tensorGate [t.toNat]), q.readB b [] with
  | some e, _ => .stops e s
  | none, .error e => .stops e s
  | none, .ok (v, pops) =>
    match (regionCheck t.toNat d (decide (d.fmt = .f32) || decide (d.fmt = .i32))).or (s.ownerGate q),
        s.freshSlots u.key q [v.toNat % 16] with
    | some e, _ => .stops e s
    | none, .error e => .stops e s
    | none, .ok l =>
      let slot := l.headD 0
      let r := s.memoryWord u {
        op := { id := 0, instr := w, pos := 0, kind := .accLoad slot n d.fmt.isInt, flag := none
                path := some (if d.space = 1 then 2 else 0), loadClass := true
                scope := if d.space = 1 then 1 else q.dscope, size := 4, lanes := regionLanes d }
        pops } (fun _ => none) (decide (d.space ≠ 1))
      match r with
      | .stops e s => .stops e s
      | .takes m s => .takes m (s.bindTile u.key n.toNat slot d.fmt.isInt)

/-- ACCST (R251). -/
def State.accStoreWord (s : State) (u : Issuer) (w : Instr) (n : BitVec 3) (t : BitVec 5) : Result :=
  let q := u.squad
  let d := s.tensor q t.toNat
  let tile := at' q.accs n.toNat none
  let ty := (tile.bind fun x => (s.tile q.core x).map fun (y : Tile) => y.isInt).getD false
  match (s.accGate q [n.toNat]).or (q.tensorGate [t.toNat]) with
  | some e => .stops e s
  | none =>
    match (regionCheck t.toNat d (decide (d.fmt = if ty then .i32 else .f32))).or (s.ownerGate q) with
    | some e => .stops e s
    | none =>
      s.memoryWord u {
        op := { id := 0, instr := w, pos := 0, kind := .accStore tile, flag := none
                path := some (if d.space = 1 then 2 else 1), loadClass := false
                scope := if d.space = 1 then 1 else q.dscope, size := 4, lanes := regionLanes d } }
        (fun _ => none) (decide (d.space ≠ 1))

/-- ACCFREE (R250). -/
def State.accFreeWord (s : State) (u : Issuer) (b : SSrc) : Result :=
  let q := u.squad
  match q.readB b [] with
  | .error e => .stops e s
  | .ok (v, pops) =>
    let names := (List.range 8).filter fun n => has v n
    let tiles := names.filterMap fun n => at' q.accs n none
    let writing := q.ops.any fun o => !o.finished && match o.kind with
      | .mma .. => o.kind.tiles.any tiles.contains
      | .accWrite t _ _ _ => tiles.contains t
      | .accLoad t _ _ => tiles.contains t
      | _ => false
    match (s.accGate q names).or (s.ownerGate q) with
    | some e => .stops e s
    | none =>
      if writing then .stops (.wait (.tileWords (v.setWidth 8))) s
      else .takes .next (names.foldl (fun s n => s.unbindTile u.key n) (s.setSquad u.key (q.popAll pops)))

/-- ACCSTAT (R243, R250). -/
def State.accStatus (s : State) (u : Issuer) (d : BitVec 5) (n : BitVec 3) : Result :=
  let q := u.squad
  match (s.accGate q [n.toNat]).or (s.ownerGate q) with
  | some e => .stops e s
  | none =>
    let v := match at' q.accs n.toNat none with
      | none => 0
      | some t => s.tileStatus q t
    .takes .next (s.spend.setSquad u.key (q.setSreg d.toNat v))

/-- MMA (R245). -/
def execMma (sc : BitVec 1) (v : BitVec 1) (c : BitVec 3) (t : BitVec 5) (r : BitVec 1) (b : BitVec 5) (s : State) : Host.Outcome State Fault Refusal :=
  issue (.mma sc v c t r b) s fun u => s.matrixWord u (.mma sc v c t r b) false false (sc == 1#1) (v == 1#1) (r == 1#1) c.toNat t.toNat b.toNat

/-- MMAZ (R245). -/
def execMmaz (sc : BitVec 1) (v : BitVec 1) (c : BitVec 3) (t : BitVec 5) (r : BitVec 1) (b : BitVec 5) (s : State) : Host.Outcome State Fault Refusal :=
  issue (.mmaz sc v c t r b) s fun u => s.matrixWord u (.mmaz sc v c t r b) true false (sc == 1#1) (v == 1#1) (r == 1#1) c.toNat t.toNat b.toNat

/-- MMAW (R246). -/
def execMmaw (sc : BitVec 1) (v : BitVec 1) (c : BitVec 3) (t : BitVec 5) (r : BitVec 1) (b : BitVec 5) (s : State) : Host.Outcome State Fault Refusal :=
  issue (.mmaw sc v c t r b) s fun u => s.matrixWord u (.mmaw sc v c t r b) false true (sc == 1#1) (v == 1#1) (r == 1#1) c.toNat t.toNat b.toNat

/-- ACCZ (R250). -/
def execAccz (n : BitVec 3) (b : SSrc) (s : State) : Host.Outcome State Fault Refusal :=
  issue (.accz n b) s fun u => s.accZero u n b

/-- ACCRD (R250). -/
def execAccrd (d : BitVec 5) (n : BitVec 3) (b : SSrc) (s : State) : Host.Outcome State Fault Refusal :=
  issue (.accrd d n b) s fun u => s.accReadWord u (.accrd d n b) d n b

/-- ACCWR (R250). -/
def execAccwr (n : BitVec 3) (a : BitVec 5) (b : VSrc) (s : State) : Host.Outcome State Fault Refusal :=
  issue (.accwr n a b) s fun u => s.accWriteWord u (.accwr n a b) n a b

/-- ACCLD (R251). -/
def execAccld (n : BitVec 3) (t : BitVec 5) (b : SSrc) (s : State) : Host.Outcome State Fault Refusal :=
  issue (.accld n t b) s fun u => s.accLoadWord u (.accld n t b) n t b

/-- ACCST (R251). -/
def execAccst (n : BitVec 3) (t : BitVec 5) (s : State) : Host.Outcome State Fault Refusal :=
  issue (.accst n t) s fun u => s.accStoreWord u (.accst n t) n t

/-- ACCFREE (R250). -/
def execAccfree (b : SSrc) (s : State) : Host.Outcome State Fault Refusal :=
  issue (.accfree b) s fun u => s.accFreeWord u b

/-- ACCSTAT (R243). -/
def execAccstat (d : BitVec 5) (n : BitVec 3) (s : State) : Host.Outcome State Fault Refusal :=
  issue (.accstat d n) s fun u => s.accStatus u d n

end Sys2Proof.Machine
end

