-- ==== Sys2Proof/Machine/Complete.lean ====
section
/-! DEFINITION. Steps in which an outstanding operation is performed or completes, and in which the device moves lines
and release-log entries on its own (R60, R160, R183, R185, R211, R277, R286 to R290, R295, R302). -/

namespace Sys2Proof.Machine

/-! ## Loads, stores and atomics (R60) -/

/-- Data from a peer for the pod-window lanes of an operation, in lane order (R186). -/
def fillExternal (n : Nat) : List LaneAccess → List Byte → List LaneAccess
  | [], _ => []
  | l :: ls, ext =>
    match l.place with
    | .pod _ =>
      if n ≤ ext.length then { l with result := ext.take n } :: fillExternal n ls (ext.drop n)
      else l :: fillExternal n ls ext
    | _ => l :: fillExternal n ls ext

/-- Whether an operation is of the load class and returns by LOAD_RETURN. -/
def OpKind.isLoad : OpKind → Bool
  | .vload _ => true
  | .sload _ => true
  | .query .. => true
  | .tidset _ => true
  | .accRead .. => true
  | .accLoad .. => true
  | _ => false

/-- Whether an operation is a write that WRITE_PERFORMED performs. -/
def OpKind.isStore : OpKind → Bool
  | .store => true
  | .cache .. => true
  | .tidget _ => true
  | .accWrite .. => true
  | .accStore _ => true
  | _ => false

/-- Whether an operation is an atomic. -/
def OpKind.isAtomic : OpKind → Bool
  | .atomic .. => true
  | .compareSwap _ => true
  | _ => false

/-- Whether some lane of an operation goes to a window. -/
def Op.isWindow (o : Op) : Bool := o.lanes.any fun l => match l.place with
  | .window .. => true
  | _ => false

/-- The data of a load arrives (R60). -/
def State.loadReturn (s : State) (k id : Nat) (ext : List Byte) : State :=
  match s.op? k id with
  | none => s
  | some (_, o) =>
    if o.kind.isLoad then (s.onOp k id fun o => { o with lanes := fillExternal o.size o.lanes ext }).performInOrder k id
    else s

/-- The first write of an operation that finds ZP set, or its page already being swept (R183). -/
def State.zpLane (s : State) (o : Op) : Option Xlate :=
  match o.lanes.find? fun l => !l.finished && match l.place with
      | .memory x => s.zpSet x
      | _ => false with
  | none => none
  | some l => match l.place with
    | .memory x => some x
    | _ => none

/-- Whether an operation writes memory. -/
def OpKind.writesMemory (k : OpKind) : Bool := k.isStore || k.isAtomic

/-- An operation that writes a page which is being swept waits for the sweep (R183). -/
def State.joinSweep (s : State) (k id : Nat) (o : Op) : Option State :=
  if o.kind.writesMemory then
    match s.zpLane o with
    | none => none
    | some x =>
      match s.sweeps.find? fun w => w.leaf == x.leaf with
      | none => none
      | some w =>
        if w.waiting.contains (k, id) then some s
        else some { s with sweeps := s.sweeps.map fun (v : Sweep) =>
          if v.leaf = x.leaf then { v with waiting := v.waiting ++ [(k, id)] } else v }
  else none

/-- A write or an atomic is performed, or joins a sweep (R60, R183, R299). -/
def State.writeStep (s : State) (k id : Nat) (ok : Op → Bool) : State :=
  match s.op? k id with
  | none => s
  | some (_, o) => if ok o then (s.joinSweep k id o).getD (s.performInOrder k id) else s

/-- ZP_SWEEP: the page of the first write that finds ZP set is written zero; the write waits (R183). -/
def State.zpSweep (s : State) (k id : Nat) : State :=
  let s := s.performBefore k (some id)
  match s.op? k id with
  | none => s
  | some (q, o) =>
    if o.kind.writesMemory && !s.unperformed k (some id) && !s.heldOp o then
      match s.zpLane o with
      | none => s
      | some x =>
        match s.joinSweep k id o with
        | some s => s
        | none =>
          let s := s.sweepBegin x
          { s with sweeps := s.sweeps ++ [{
              leaf := x.leaf, base := x.pa - x.pa % x.size, size := x.size, key := x.key
              vf := contextVf (s.contextOf q), waiting := [(k, id)] }] }
    else s

/-- ZP_SWEEP_END of the page at a device-physical address (R183). -/
def State.zpSweepEnd (s : State) (page : Nat) : State :=
  match s.sweeps.find? fun w => w.base == page with
  | none => s
  | some w => s.endSweep w

/-! ## Host and pod completions (R186, R302) -/

/-- One lane of an operation is refused by a host or an exporter; its value is given. -/
def State.refuseLane (s : State) (k id ln : Nat) (value : List Byte) : State :=
  let s := s.onOp k id fun o => { o with lanes := o.lanes.map fun l =>
    if l.lane = ln ∧ l.finished = false then { l with result := value, finished := true, refused := true } else l }
  match s.op? k id with
  | none => s
  | some (_, o) => if o.lanes.all fun l => l.finished then s.performInOrder k id else s

/-- Perform one lane of an atomic now. -/
def State.oneLane (s : State) (k id ln : Nat) : State :=
  match s.op? k id with
  | none => s
  | some (q, o) =>
    match o.lanes.find? fun l => l.lane == ln && !l.finished with
    | none => s
    | some l =>
      match s.laneAtomic q o.scope o.size o.kind l with
      | (s, b, r) =>
        let s := s.onOp k id fun o => { o with lanes := o.lanes.map fun x =>
          if x.lane = ln then { x with result := b, finished := true, refused := r } else x }
        match s.op? k id with
        | none => s
        | some (_, o) => if o.lanes.all fun l => l.finished then s.performInOrder k id else s

/-- A host completes the AtomicOp of a lane, or refuses it: the lane then receives 0 (R302). -/
def State.hostCompletion (s : State) (k id ln : Nat) (ok : Bool) : State :=
  let s := s.performBefore k (some id)
  match s.op? k id with
  | none => s
  | some (_, o) =>
    let atHost := o.lanes.any fun l => l.lane == ln && !l.finished && match l.place with
      | .memory x => isHost x.pa
      | _ => false
    if o.kind.isAtomic && atHost && !s.unperformed k (some id) then
      if ok then s.oneLane k id ln else s.refuseLane k id ln (List.replicate o.size 0)
    else s

/-- An exporter refuses a pod-window access of a lane; what a load reads then is free (R186, log 3). -/
def State.podRefused (s : State) (k id ln : Nat) : State :=
  let s := s.performBefore k (some id)
  match s.op? k id with
  | none => s
  | some (_, o) =>
    let atPod := o.lanes.any fun l => l.lane == ln && !l.finished && match l.place with
      | .pod _ => true
      | _ => false
    if atPod && !s.unperformed k (some id) then
      match s.freeBytes o.size with
      | (s, b) => s.refuseLane k id ln b
    else s

/-! ## CLAIM (R185) -/

/-- Whether a page overlaps a pinned region of any context of the interface (R185, R319). -/
def State.pinned (s : State) (ctx va size : Nat) : Bool :=
  s.fabric.pins.any fun p => p.context / 4 == ctx / 4 && decide (p.region < va + size) && decide (va < p.region + 2 ^ 21)

/-- Frames that a return queue holds at most (R184). -/
def returnLimit : Nat := 8192

/-- The key of a partition's reserve of a size on a die (R184). -/
def reserveKey (die : Nat) (large : Bool) : Nat := 2 * die + (if large then 1 else 0)

/-- Take a frame of a size on a die from a partition's reserve: frames that do not lie on the die go to the return
queue (R184); one that finds that queue full stays at the head of the reserve, and none is taken (log 97). -/
def State.takeFrame (s : State) (vf die : Nat) (large : Bool) : List Nat → State × Option Nat
  | [] => (s, none)
  | f :: rest =>
    let p := s.parts.getD vf {}
    let p := { p with reserve := p.reserve.set (reserveKey die large) rest }
    let onDie := match s.stage2 vf f with
      | .ok l => isHbm l.out && dieOfPa l.out == die
      | .error _ => false
    if onDie then ({ s with parts := s.parts.set vf p }, some f)
    else if returnLimit ≤ (p.returned.getD die []).length then (s, none)
    else
      let p := { p with returned := p.returned.set die (p.returned.getD die [] ++ [(f, large)]) }
      State.takeFrame { s with parts := s.parts.set vf p } vf die large rest

/-- A frame goes back to the head of its reserve (R185). -/
def State.giveFrame (s : State) (vf die : Nat) (large : Bool) (f : Nat) : State :=
  let p := s.parts.getD vf {}
  { s with parts := s.parts.set vf { p with reserve := p.reserve.set (reserveKey die large) (f :: p.reserve.getD (reserveKey die large) []) } }

/-- Copy a page of a context between partition-physical frames, 4 KiB at a time, under the keys of each: its requests are the
context's (R185, R324). -/
def State.copyFrame (s : State) (ctx die va src dst : Nat) : Nat → State
  | 0 => s
  | n + 1 =>
    let s := s.copyFrame ctx die va src dst n
    match s.stage2 (contextVf ctx) (src + n * 4096), s.stage2 (contextVf ctx) (dst + n * 4096) with
    | .ok a, .ok b =>
      let of : Leaf → Xlate := fun l =>
        { pa := l.out, key := keySlot l.entry, nc := false, leaf := l.addr, size := l.size, va := va + n * 4096, context := some ctx }
      let s := (s.recall none a.out 4096).reach die (of a) 4096 false
      let s := ((s.touch (of b)).recall none b.out 4096).reach die (of b) 4096 true
      s.homeWrite (keySlot b.entry) b.out (s.homeBytes (keySlot a.entry) a.out 4096)
    | _, _ => s

/-- Accesses that waited at a locked page retranslate: those of an outstanding operation which the page held go to the new frame
(R185). -/
def Xlate.moved (x : Xlate) (vf iface base size pa key leaf size2 : Nat) : Xlate :=
  if decide (x.context.map contextVf = some vf) && decide (x.context.map contextIface = some iface) && inRange base size x.va then
    { x with pa := pa + (x.va - base), key, leaf, size := size2 }
  else x

/-- The page of an interface has moved: every outstanding access to it is performed at the new frame (R185). -/
def State.retranslate (s : State) (vf iface base size frame : Nat) : State :=
  match s.stage2 vf frame with
  | .error _ => s
  | .ok l =>
    let go := fun (a : LaneAccess) => match a.place with
      | .memory x => if a.finished then a else { a with place := .memory (x.moved vf iface base size l.out (keySlot l.entry) l.addr l.size) }
      | _ => a
    { s with squads := s.squads.map fun (e : Nat × Squad) =>
        (e.1, { e.2 with ops := e.2.ops.map fun o => { o with lanes := o.lanes.map go } }) }

/-- What a CLAIM finds at its next page (R185): moved, home or skipped, or the page that it locks; another CLAIM may hold it. -/
inductive Claimed where
  | skipped | home | locked | waits
  deriving DecidableEq, Repr

/-- The first half of CLAIM's work on a page: its checks, a frame and the lock, under the name of the operation; with the size of the
page (R185). -/
def State.claimLock (s : State) (ctx die va id : Nat) : State × Nat × Claimed :=
  let vf := contextVf ctx
  let iface := contextIface ctx
  let root := s.reg (ifaceBase vf iface)
  if has root 0 = false then (s, 4096, .skipped)
  else
    match (s.walk1From vf iface va 4 0 (bits root 45 12 * 2 ^ 12) []).2 with
    | .error _ => (s, 4096, .skipped)
    | .ok l1 =>
      let size := l1.leaf.size
      let base := va - va % size
      if s.fabric.locks.any fun l => l.2.vf == vf && l.2.iface == iface && decide (l.2.base < base + size) && decide (base < l.2.base + l.2.size)
      then (s, size, .waits)
      else
        match s.stage2 vf l1.leaf.out with
        | .error _ => (s, size, .skipped)
        | .ok l2 =>
          let ok := l1.leaf.entry.testBit 9 && (decide (size = 4096) || decide (size = 2 ^ 21)) &&
            !l2.entry.testBit 9 && !s.pinned ctx base size
          if ok = false then (s, size, .skipped)
          else if isHbm l2.out ∧ dieOfPa l2.out = die then (s, size, .home)
          else
            let large := decide (size = 2 ^ 21)
            match s.takeFrame vf die large ((s.parts.getD vf {}).reserve.getD (reserveKey die large) []) with
            | (s, none) => (s, size, .skipped)
            | (s, some f) =>
              let lock : Lock := { vf, iface, base, size, frame := f, die, entry := l1.leaf.entry, leaf := l1.page.out
                                   slot := keySlot l1.page.entry }
              ({ s with fabric := { s.fabric with locks := s.fabric.locks.set id lock } }, size, .locked)

/-- A CLAIM's lock goes, its page not moved: the frame returns to the head of the reserve (R185). -/
def State.claimUndo (s : State) (id : Nat) : State :=
  match s.fabric.locks.get? id with
  | none => s
  | some l =>
    ({ s with fabric := { s.fabric with locks := s.fabric.locks.erase id } }.giveFrame l.vf l.die (decide (l.size = 2 ^ 21)) l.frame).resumed s

/-- Bits A and D of a table entry, which a walk may set while the page is locked (R171, R185; log 98). -/
def withoutMarks (e : Nat) : Nat := e - e / 2 ^ 7 % 4 * 2 ^ 7

/-- The second half of CLAIM's work on a locked page: whether it has moved. The leaf must still be the one that was read, and the
return queue must have room; the page is then copied, its leaf swapped, its translations invalidated, and what waited is performed
at the new frame (R185; log 98). -/
def State.claimSwap (s : State) (ctx id : Nat) : State × Bool :=
  match s.fabric.locks.get? id with
  | none => (s, false)
  | some l =>
    let before := s
    let s := s.recall none l.leaf 8
    let now := s.homeWord l.slot l.leaf
    let back := (s.parts.getD l.vf {}).returned.getD l.die []
    if withoutMarks now ≠ withoutMarks l.entry ∨ returnLimit ≤ back.length then (s.claimUndo id, false)
    else
      let s := s.copyFrame ctx l.die l.base (frameOf l.entry) l.frame (l.size / 4096)
      let s := s.homeWrite l.slot l.leaf (leBytes (now - frameOf now + l.frame) 8)
      let s := s.dropTlb fun t => t.vf == l.vf && t.iface == l.iface && decide (t.va < l.base + l.size) && decide (l.base < t.va + t.size)
      let p := s.parts.getD l.vf {}
      let s := { s with
        parts := s.parts.set l.vf { p with returned := p.returned.set l.die (back ++ [(frameOf l.entry, decide (l.size = 2 ^ 21))]) }
        fabric := { s.fabric with locks := s.fabric.locks.erase id } }
      ((s.retranslate l.vf l.iface l.base l.size l.frame).resumed before, true)

/-- Both halves at once, for the migration engine (R352): the size of the page, and 0 moved, 1 home, 2 skipped. -/
def State.claimPage (s : State) (ctx die va : Nat) : State × Nat × Nat :=
  match s.claimLock ctx die va 0 with
  | (s, size, .home) => (s, size, 1)
  | (s, size, .locked) => match s.claimSwap ctx 0 with
    | (s, moved) => (s, size, if moved then 0 else 2)
  | (s, size, _) => (s, size, 2)

/-- The locks of a squad's CLAIMs go: the squad stops, and a CLAIM that runs again begins with its page anew (R185). -/
def State.unlockSquad (s : State) (k : Nat) : State :=
  match s.squads.get? k with
  | none => s
  | some q => q.ops.foldl (fun s o => s.claimUndo o.id) s

/-- The locks of a partition go with it (R185, R375). -/
def State.unlockPart (s : State) (vf : Nat) : State :=
  { s with fabric := { s.fabric with locks := s.fabric.locks.filter fun l => l.2.vf != vf } }

/-- A CLAIM goes on past a page, counting it. -/
def State.claimNext (s : State) (k id size : Nat) (what : Nat) : State :=
  let one := fun (x : Nat) => if what = x then 1 else 0
  s.onOp k id fun o => match o.kind with
    | .claim d next last moved home skipped =>
      { o with kind := .claim d (next - next % size + size) last (moved + one 0) (home + one 1) (skipped + one 2) }
    | _ => o

/-- CLAIM_PAGE_MOVE: the next half of a CLAIM's work on its page, after the squad's earlier accesses; past the last page, its result
(R185; log 98). -/
def State.claimStep (s : State) (k id : Nat) : State :=
  let s := s.performBefore k (some id)
  match s.op? k id with
  | none => s
  | some (q, o) =>
    match o.kind with
    | .claim d next last moved home skipped =>
      if s.unperformed k (some id) then s
      else
        match s.fabric.locks.get? id with
        | some l => match s.claimSwap (s.contextOf q) id with
          | (s, moved) => s.claimNext k id l.size (if moved then 0 else 2)
        | none =>
          if last ≤ next then
            let v := skipped % 2 ^ 20 + home % 2 ^ 20 * 2 ^ 20 + moved % 2 ^ 24 * 2 ^ 40
            (s.onSquad k fun q => q.setSreg d.toNat (BitVec.ofNat 64 v)).finishOp k id
          else
            match s.claimLock (s.contextOf q) (dieOf q.core) next id with
            | (s, size, .skipped) => s.claimNext k id size 2
            | (s, size, .home) => s.claimNext k id size 1
            | (s, _, _) => s
    | _ => s

/-! ## Deposits (R210, R211) -/

/-- The squad a deposit names: its team's key, and its own key if it has not ended (R211). -/
def State.depositTarget (s : State) (q : Squad) (team sq : Nat) : Option (Nat × Option Nat) :=
  match s.gangOf q with
  | none => none
  | some g =>
    match g.teams[team]? with
    | none => none
    | some t => some (t, (s.squads.find? fun e => e.2.team == t && e.2.sq == sq && !e.2.ended).map (·.1))

/-- Apply a deposit: the lanes and the increment of ARRV together, or none while it waits (R211). -/
def State.applyDeposit (s : State) (k n : Nat) (lanes : Mask) (data : Lanes) : Option State :=
  match s.squads.get? k with
  | none => some s
  | some q =>
    if has q.awaited n then none
    else if q.needsNew n ∧ !s.canTake q 1 then none
    else
      let q := q.bindName s.nextId n lanes fun i => lane data i
      some { s.setSquad k { q with arrv := q.arrv + 1 } with nextId := s.nextId + 1 }

/-- The release that a deposit makes when it leaves its core (R210). -/
def State.depositLeaves (s : State) (k id : Nat) : State :=
  match s.op? k id with
  | none => s
  | some (q, o) =>
    let s := s.performBefore k (some id)
    if o.performed ∨ s.unperformed k (some id) then s
    else
      (s.release q.core (s.contextOf q) 2).onOp k id fun o => { o with performed := true }

/-- A deposit to a squad that has ended is discarded and counted (R211), at its sender's core (log 86). -/
def State.discardDeposit (s : State) (core k id : Nat) : State := (s.tally core perfDeposit 1).finishOp k id

/-- A deposit reaches its target (R211), once it has left its core (R210). -/
def State.depositOne (s : State) (k id : Nat) : State :=
  let s := s.depositLeaves k id
  match s.op? k id with
  | none => s
  | some (q, o) =>
    if o.performed = false then s
    else match o.kind with
    | .deposit n team sq lanes data =>
      match s.depositTarget q team sq with
      | none => s.discardDeposit q.core k id
      | some (t, target) =>
        let mine := (s.gangOf q).map (·.ticket)
        let theirs := (s.teams.get? t).bind fun x => (s.gangs.get? x.gang).map (·.ticket)
        if theirs.isSome ∧ theirs ≠ mine then
          (s.onSquad k fun q => q.pend .gangtkt (BitVec.ofNat 64 team)).finishOp k id
        else
          match target with
          | none => s.discardDeposit q.core k id
          | some t => match s.applyDeposit t n.toNat lanes data with
            | none => s
            | some s => s.finishOp k id
    | _ => s

/-- DEPOSIT_ARRIVAL: after the earlier deposits of the sender to the same target (R211). -/
def State.depositArrival (s : State) (k id : Nat) : State :=
  match s.op? k id with
  | none => s
  | some (q, o) =>
    match o.kind with
    | .deposit _ team sq _ _ =>
      let same := ((q.ops.takeWhile fun x => x.id != id).filter fun x => !x.finished && match x.kind with
        | .deposit _ t y _ _ => t == team && y == sq
        | _ => false).map (·.id)
      let s := same.foldl (fun s x => s.depositOne k x) s
      if same.any fun x => (s.op? k x).isSome then s else s.depositOne k id
    | _ => s

/-! ## Matrix operations (R232) -/

/-- The operation that runs on a sub-array completes. -/
def State.matrixDone (s : State) (core sub : Nat) : State :=
  match (s.core core).subs.getD sub [] with
  | [] => s
  | (k, id, _) :: _ => s.perform k id

/-! ## The device's own steps -/

/-- A line moves home from an L1, with no ordering (R277, R295). -/
def State.lineHome (s : State) (core addr : Nat) : State := s.writeBack core (inRange (addr / 128 * 128) 128)

/-- A full release log promotes its oldest entry (R286). -/
def State.eagerPromote (s : State) (core : Nat) : State :=
  if 64 ≤ (s.core core).log.length then s.promoteOldest core else s

/-- A context without a resident team on a core: its entries are promoted (R290). -/
def State.drainAbsent (s : State) (core ctx : Nat) : State :=
  if s.residentOn core ctx then s else s.promoteContext core (logContext ctx)

/-! ## The steps as instructions -/

/-- LOAD_RETURN (R60). -/
def execLoadReturn (squad op : Nat) (ext : List Byte) (s : State) : Host.Outcome State Fault Refusal :=
  .next (s.loadReturn squad op ext)

/-- WRITE_PERFORMED (R60). -/
def execWritePerformed (squad op : Nat) (s : State) : Host.Outcome State Fault Refusal :=
  .next (s.writeStep squad op fun o => o.kind.isStore)

/-- EVICTION (R277). -/
def execEviction (core line : Nat) (s : State) : Host.Outcome State Fault Refusal := .next (s.lineHome core line)

/-- ZP_SWEEP (R183). -/
def execZpSweep (squad op : Nat) (s : State) : Host.Outcome State Fault Refusal := .next (s.zpSweep squad op)

/-- ZP_SWEEP_END (R183). -/
def execZpSweepEnd (page : Nat) (s : State) : Host.Outcome State Fault Refusal := .next (s.zpSweepEnd page)

/-- CLAIM_PAGE_MOVE (R185). -/
def execClaimPageMove (squad op : Nat) (s : State) : Host.Outcome State Fault Refusal := .next (s.claimStep squad op)

/-- WINDOW_ACCESS_AT_TARGET (R160). -/
def execWindowAccessAtTarget (squad op : Nat) (s : State) : Host.Outcome State Fault Refusal :=
  .next (s.writeStep squad op Op.isWindow)

/-- DEPOSIT_ARRIVAL (R211). -/
def execDepositArrival (squad op : Nat) (s : State) : Host.Outcome State Fault Refusal :=
  .next (s.depositArrival squad op)

/-- ATOMIC_EXECUTE (R299). -/
def execAtomicExecute (squad op : Nat) (s : State) : Host.Outcome State Fault Refusal :=
  .next (s.writeStep squad op fun o => o.kind.isAtomic)

/-- OWNERSHIP_RECALL (R295). -/
def execOwnershipRecall (core line : Nat) (s : State) : Host.Outcome State Fault Refusal := .next (s.lineHome core line)

/-- HOST_ATOMICOP_COMPLETION (R302). -/
def execHostAtomicopCompletion (squad op lane : Nat) (ok : Bool) (s : State) : Host.Outcome State Fault Refusal :=
  .next (s.hostCompletion squad op lane ok)

/-- POD_ACCESS_REFUSED (R186). -/
def execPodAccessRefused (squad op lane : Nat) (s : State) : Host.Outcome State Fault Refusal :=
  .next (s.podRefused squad op lane)

/-- MMA_COMPLETE (R232). -/
def execMmaComplete (core sub : Nat) (s : State) : Host.Outcome State Fault Refusal := .next (s.matrixDone core sub)

/-- PROMOTION_REQUEST (R288). -/
def execPromotionRequest (squad op : Nat) (s : State) : Host.Outcome State Fault Refusal :=
  match s.op? squad op with
  | some (_, { kind := .acqp .., .. }) => .next (s.performInOrder squad op)
  | _ => .next s

/-- EAGER_PROMOTION (R286). -/
def execEagerPromotion (core : Nat) (s : State) : Host.Outcome State Fault Refusal := .next (s.eagerPromote core)

/-- NO_RESIDENT_DRAIN (R290). -/
def execNoResidentDrain (core ctx : Nat) (s : State) : Host.Outcome State Fault Refusal := .next (s.drainAbsent core ctx)

end Sys2Proof.Machine
end

