-- ==== Sys2Proof/Machine/Flags.lean ====
section
/-! DEFINITION. The result of one element of each vector word with the exceptions it signals (R101, R111 to R114, R122 to
R133), and the words of vector pipes as operations on elements. -/

namespace Sys2Proof.Machine

/-- What MODE gives the elements of a word: type, rounding, saturation (R37). -/
structure ElemMode where
  et : Nat
  round : Rounding
  sat : Bool

/-- The element mode of a squad (R122). -/
def Squad.elemMode (q : Squad) : ElemMode := ⟨q.et, ⟨q.rm, q.ftz, false⟩, q.sat⟩

/-- The width of an element. -/
def ElemMode.width (m : ElemMode) : Nat := elemWidth m.et

/-- The integer value of an element. -/
def ElemMode.int (m : ElemMode) (p : Nat) : Int := intOf m.width (signedType m.et) p

/-- An exact integer result under MODE.SAT (R101). -/
def ElemMode.intElem (m : ElemMode) (v : Int) : Elem := ⟨intResult m.width (signedType m.et) m.sat v, 0⟩

/-- A two-source word: an integer function, and a float function with its draw. -/
def ElemMode.two (m : ElemMode) (fi : Int → Int → Int) (ff : FloatFmt → Nat → Nat → Nat → Elem) (x y draw : Nat) :
    Elem :=
  match floatFmt m.et with
  | some f => ff f x y draw
  | none => m.intElem (fi (m.int x) (m.int y))

/-- `x + y` (R125). -/
def ElemMode.add (m : ElemMode) (x y draw : Nat) : Elem := m.two (· + ·) (fun f => f.add m.round) x y draw

/-- `x − y` (R125). -/
def ElemMode.sub (m : ElemMode) (x y draw : Nat) : Elem := m.two (· - ·) (fun f => f.sub m.round) x y draw

/-- `x × y` (R125). -/
def ElemMode.mul (m : ElemMode) (x y draw : Nat) : Elem := m.two (· * ·) (fun f => f.mul m.round) x y draw

/-- The high half of the product (R125). -/
def ElemMode.mulh (m : ElemMode) (x y : Nat) : Elem := ⟨intPat m.width (m.int x * m.int y / 2 ^ m.width), 0⟩

/-- `d ± x × y`, or its negation (R125). -/
def ElemMode.fma (m : ElemMode) (minus negated : Bool) (d x y draw : Nat) : Elem :=
  match floatFmt m.et with
  | some f => f.fma m.round minus negated d x y draw
  | none =>
    let p := m.int x * m.int y
    let z := m.int d + (if minus then -p else p)
    m.intElem (if negated then -z else z)

/-- Minimum or maximum (R125, R127). -/
def ElemMode.minMax (m : ElemMode) (wantMax : Bool) (x y : Nat) : Elem :=
  m.two (fun a b => if wantMax then max a b else min a b) (fun f x y _ => f.minMax m.round.ftz wantMax x y) x y 0

/-- A sign operation on a float pattern: a NaN gives the canonical NaN (R126). -/
def signOp (f : FloatFmt) (p : Nat) (neg : Bool) : Elem :=
  match f.read p with
  | .nan s => f.nanElem (if s then flagIV else 0)
  | _ => ⟨f.signed neg (p % 2 ^ (f.ebits + f.mbits)), 0⟩

/-- The absolute value (R126). -/
def ElemMode.abs (m : ElemMode) (y : Nat) : Elem :=
  match floatFmt m.et with
  | some f => signOp f y false
  | none => m.intElem (m.int y).natAbs

/-- The negation (R126). -/
def ElemMode.neg (m : ElemMode) (y : Nat) : Elem :=
  match floatFmt m.et with
  | some f => signOp f y (!(f.read y).sign)
  | none => m.intElem (-m.int y)

/-- The shift amount of an element (R128). -/
def ElemMode.amount (m : ElemMode) (y : Nat) : Nat := y % m.width

/-- VSHL (R128). -/
def ElemMode.shl (m : ElemMode) (x y : Nat) : Elem := ⟨x * 2 ^ m.amount y % 2 ^ m.width, 0⟩

/-- VSHR (R128). -/
def ElemMode.shr (m : ElemMode) (x y : Nat) : Elem := ⟨intPat m.width (m.int x / 2 ^ m.amount y), 0⟩

/-- VROL (R128). -/
def ElemMode.rol (m : ElemMode) (x y : Nat) : Elem :=
  let k := m.amount y
  ⟨(x * 2 ^ k + x / 2 ^ (m.width - k)) % 2 ^ m.width, 0⟩

/-- The bits of an element in reverse order (R126). -/
def bitReverse (w y : Nat) : Nat := ((List.range w).map fun k => if y.testBit k then 2 ^ (w - 1 - k) else 0).sum

/-- The comparisons of R129. -/
inductive Rel where
  | eq | ne | lt | le | gt | ge | un
  deriving DecidableEq, Repr

/-- One element of a compare, from order facts. -/
def Rel.holds (r : Rel) (less same greater unordered : Bool) : Bool :=
  match r with
  | .eq => same
  | .ne => !same
  | .lt => less
  | .le => less || same
  | .gt => greater
  | .ge => greater || same
  | .un => unordered

/-- One element of a compare (R129). -/
def ElemMode.compare (m : ElemMode) (r : Rel) (x y : Nat) : Bool × Flags :=
  match floatFmt m.et with
  | none => (r.holds (decide (m.int x < m.int y)) (decide (m.int x = m.int y)) (decide (m.int y < m.int x)) false, 0)
  | some f =>
    let a := f.operand m.round.ftz x
    let b := f.operand m.round.ftz y
    (r.holds (a.less b) (a.same b) (b.less a) (a.isNan || b.isNan), nanFlags [a, b])

/-- VRND (R132). -/
def ElemMode.integral (m : ElemMode) (x draw : Nat) : Elem :=
  match floatFmt m.et with
  | some f => f.toIntegral m.round x draw
  | none => ⟨x, 0⟩

/-- VSCL (R133). -/
def ElemMode.scale (m : ElemMode) (x : Nat) (n : Int) (draw : Nat) : Elem :=
  match floatFmt m.et with
  | some f => f.scale m.round x n draw
  | none => ⟨x, 0⟩

/-- A float function of one element. -/
def ElemMode.float (m : ElemMode) (g : FloatFmt → Elem) (x : Nat) : Elem :=
  match floatFmt m.et with
  | some f => g f
  | none => ⟨x, 0⟩

/-! ## Element types (R122) -/

def legalArith (et : Nat) : Bool := isInt et || isArithFloat et
def legalFloat (et : Nat) : Bool := isArithFloat et
def legalFaithful (et : Nat) : Bool := isArithFloat et && decide (et ≠ 11)

/-! ## Words -/

/-- A source of a vector word: what it delivers, the names it reads and releases, and an odd pair. -/
structure Operand where
  src : Src
  names : List Nat := []
  rels : List Nat := []
  odd : Bool := false

/-- A vector source slot of a word of the squad's element type (R31). -/
def Squad.operand (q : Squad) (slotB : Bool) (v : VSrc) : Operand :=
  let w := isWide q.et
  ⟨q.src q.et slotB v, v.names w, v.released w, v.odd w⟩

/-- IMM9 as a source (R33). -/
def Squad.immediate (q : Squad) (i : BitVec 9) : Operand := ⟨immSrc q.et i, [], [], false⟩

/-- A source that is not read: the one-source words. -/
def noOperand : Operand := ⟨⟨fun _ => 0, fun _ => 0⟩, [], [], false⟩

/-- One lane of a word that acts on each element: its elements, and the exceptions of all. -/
def laneOut (et : Nat) (f : Nat → Elem) : LaneOut :=
  let z := packLane et fun j => (f j).pat
  ⟨z.1, z.2, (List.range (perLane et)).foldl (fun acc j => acc ||| (f j).flags) 0⟩

/-- A word that computes each element of D from the elements of A and B, and the old element of D (R121, R122, R125).
`legal` is the row of R122, `rounds` says whether the word rounds a float type (R110). -/
def State.elementWord (s : State) (u : Issuer) (w : Instr) (legal : Nat → Bool) (rounds : Bool) (d : BitVec 5)
    (a b : Operand) (f : ElemMode → Nat → Nat → Nat → Nat → Elem) : Result :=
  let q := u.squad
  let m := q.elemMode
  if legal m.et = false ∨ a.odd ∨ b.odd ∨ (isWide m.et ∧ d.toNat % 2 = 1) then illop w s
  else
    let lo := q.vreg d.toNat
    let hi := q.vreg (d.toNat + 1)
    s.laneWord u (a.names ++ b.names) (a.rels ++ b.rels) d.toNat (isWide m.et) (rounds && !isInt m.et) u.lanes fun i =>
      laneOut m.et fun j =>
        f m (elemAt m.et (lane lo i) (lane hi i) j) (elemAt m.et (a.src.lo i) (a.src.hi i) j)
          (elemAt m.et (b.src.lo i) (b.src.hi i) j) (drawOf q.rng (4 * i + j))

/-- Combine a comparison with the old predicate (R129). -/
def combinePred (m : BitVec 2) (old c : Mask) : Mask :=
  if m = 0 then c else if m = 1 then old &&& c else if m = 2 then old ||| c else old &&& ~~~c

/-- A word that writes a predicate from a truth value of each lane (R129, R142). -/
def State.predWord (s : State) (u : Issuer) (names rels : List Nat) (m : BitVec 2) (p : BitVec 3) (f : Nat → Bool)
    (flags : Flags) : Result :=
  let q := u.squad
  match s.nameGate q names with
  | some e => .stops e s
  | none =>
    let q1 := { q with fstat := q.fstat ||| flags }
    if q.fpx ∧ has flags 0 then .stops (.trap .fpe (q1.fstat.setWidth 64)) (s.setSquad u.key q1)
    else
      let q2 := rels.foldl Squad.release q1
      .takes .next (s.setSquad u.key (q2.setPred p.toNat u.lanes (combinePred m (q.pred p.toNat) (maskOf f))))

/-- A compare (R129): every element for EQ, LT, LE, GT and GE; any element for NE and UN. -/
def State.compareWord (s : State) (u : Issuer) (w : Instr) (r : Rel) (m : BitVec 2) (p : BitVec 3) (a b : Operand) :
    Result :=
  let q := u.squad
  let e := q.elemMode
  if (if r = .un then legalFloat e.et else legalArith e.et) = false ∨ a.odd ∨ b.odd then illop w s
  else
    let one := fun (i j : Nat) => e.compare r (elemAt e.et (a.src.lo i) (a.src.hi i) j) (elemAt e.et (b.src.lo i) (b.src.hi i) j)
    let js := List.range (perLane e.et)
    let c := fun (i : Nat) => if r = .ne ∨ r = .un then js.any fun j => (one i j).1 else js.all fun j => (one i j).1
    let fl := (lanesIn u.lanes).foldl (fun acc i => js.foldl (fun acc j => acc ||| (one i j).2) acc) (0 : Flags)
    s.predWord u (a.names ++ b.names) (a.rels ++ b.rels) m p c fl

end Sys2Proof.Machine
end

