-- ==== Sys2Proof/Machine/Lanes.lean ====
section
/-! DEFINITION. Predicates, segment operations and the ragged walker (R136 to R143). -/

namespace Sys2Proof.Machine

/-- A predicate word (R136). -/
def predicateWord (u : Issuer) (s : State) (d : BitVec 3) (v : Mask) : Result :=
  .takes .next (s.setSquad u.key (u.squad.setPred d.toNat u.lanes v))

/-- The vote of R82 over some lanes. -/
def voteOf (m : BitVec 2) (lanes p : Mask) : Bool :=
  let any := lanes &&& p != 0
  let nall := lanes &&& ~~~p != 0
  if m = 0 then any else if m = 1 then !nall else if m = 2 then !any else nall

/-- The first lane of a lane's segment (R48). -/
def Squad.base (q : Squad) (i : Nat) : Nat := i - i % q.segWidth

/-- The lanes of a lane's segment (R48). -/
def Squad.segment (q : Squad) (i : Nat) : Mask := maskOf fun k => q.base i == q.base k

/-- A word that writes one register from a 32-bit value of each contributor, whatever the element type (R138, R141). -/
def State.wordPerLane (s : State) (u : Issuer) (names rels : List Nat) (d : BitVec 5) (f : Nat → Word) : Result :=
  s.laneWord u names rels d.toNat false false u.lanes fun i => ⟨f i, 0, 0⟩

/-- The ballot of a segment (R138). -/
def Squad.ballot (q : Squad) (lanes p : Mask) (i : Nat) : Word :=
  let c := lanes &&& p
  BitVec.ofNat 32 (((List.range q.segWidth).map fun k => if has c (q.base i + k) then 2 ^ k else 0).sum)

/-- VSHF (R139). The index is a 32-bit lane value, a literal as written (R33). -/
def State.shuffleWord (s : State) (u : Issuer) (w : Instr) (d : BitVec 5) (a b : VSrc) : Result :=
  let q := u.squad
  let x := q.operand false a
  let y := q.operand true b
  let n := (q.src 5 true b).lo
  if x.odd ∨ y.odd ∨ (isWide q.et ∧ d.toNat % 2 = 1) then illop w s
  else
    s.laneWord u (x.names ++ y.names) (x.rels ++ y.rels) d.toNat (isWide q.et) false u.lanes fun i =>
      let k := q.base i + (n i).toNat % q.segWidth
      ⟨x.src.lo k, x.src.hi k, 0⟩

/-! ## Reductions and scans (R140, R143) -/

/-- A value of the tree: the integer of an element, or the pattern of a float, and what has been signalled. -/
structure TreeVal where
  val : Int
  flags : Flags := 0

/-- The value of an element (R101, R112), also of one that enters a tree alone (R140; log 117). -/
def ElemMode.treeVal (m : ElemMode) (p : Nat) : TreeVal :=
  match floatFmt m.et with
  | none => ⟨m.int p, 0⟩
  | some f =>
    match f.operand m.round.ftz p with
    | .zero n => ⟨(f.signed n 0 : Nat), 0⟩
    | .nan x => ⟨(p : Nat), if x then flagIV else 0⟩
    | _ => ⟨(p : Nat), 0⟩

/-- A bitwise operation on the patterns of two integer elements. -/
def ElemMode.bitwise (m : ElemMode) (f : Nat → Nat → Nat) (x y : Int) : Int :=
  m.int (f (intPat m.width x) (intPat m.width y))

/-- Combine of R140: 0 add, 1 min, 2 max, 3 and, 4 or, 5 xor. Stochastic rounding rounds as nearest-even. -/
def ElemMode.combine (m : ElemMode) (op : Nat) (x y : TreeVal) : TreeVal :=
  match floatFmt m.et with
  | none =>
    let v := match op with
      | 0 => x.val + y.val
      | 1 => min x.val y.val
      | 2 => max x.val y.val
      | 3 => m.bitwise (· &&& ·) x.val y.val
      | 4 => m.bitwise (· ||| ·) x.val y.val
      | _ => m.bitwise (· ^^^ ·) x.val y.val
    ⟨v, 0⟩
  | some f =>
    let r : Rounding := { m.round with rm := if m.round.rm = 5 then 0 else m.round.rm }
    let e := match op with
      | 0 => f.add r x.val.toNat y.val.toNat 0
      | 1 => f.minMax r.ftz false x.val.toNat y.val.toNat
      | _ => f.minMax r.ftz true x.val.toNat y.val.toNat
    ⟨(e.pat : Nat), x.flags ||| y.flags ||| e.flags⟩

/-- One level of the tree: neighbours are combined, an absent one gives way (R140). -/
def ElemMode.level (m : ElemMode) (op : Nat) : List (Option TreeVal) → List (Option TreeVal)
  | [] => []
  | [x] => [x]
  | x :: y :: l =>
    (match x, y with
     | none, y => y
     | x, none => x
     | some x, some y => some (m.combine op x y)) :: m.level op l

/-- The tree over 32 positions or fewer (R140). -/
def ElemMode.tree (m : ElemMode) (op : Nat) (l : List (Option TreeVal)) : Option TreeVal :=
  (m.level op (m.level op (m.level op (m.level op (m.level op l))))).head?.join

/-- The identity of an operation (R140). -/
def ElemMode.identity (m : ElemMode) (op : Nat) : TreeVal :=
  match floatFmt m.et with
  | none =>
    let sg := signedType m.et
    ⟨match op with
     | 1 => intMax m.width sg
     | 2 => intMin m.width sg
     | 3 => m.int (2 ^ m.width - 1)
     | _ => 0, 0⟩
  | some f =>
    ⟨match op with
     | 1 => ((f.inf.getD f.maxPat : Nat) : Int)
     | 2 => ((f.signed true (f.inf.getD f.maxPat) : Nat) : Int)
     | _ => 0, 0⟩

/-- The element that a tree delivers: R101 once, and a NaN as the canonical one (R104). -/
def ElemMode.treeElem (m : ElemMode) (v : TreeVal) : Elem :=
  match floatFmt m.et with
  | none => m.intElem v.val
  | some f => if (f.read v.val.toNat).isNan then f.nanElem v.flags else ⟨v.val.toNat, v.flags⟩

/-- Element types that an operation of a reduction admits (R122). -/
def legalReduce (op et : Nat) : Bool := if op ≤ 2 then legalArith et else isInt et

/-- A reduction or scan: `start i` is the first position of lane `i`'s tree and `among i k` the lanes that enter it. -/
def State.reduceWord (s : State) (u : Issuer) (w : Instr) (d : BitVec 5) (a : VSrc) (op : Nat) (start : Nat → Nat)
    (among : Nat → Nat → Bool) : Result :=
  let q := u.squad
  let m := q.elemMode
  let x := q.operand false a
  if legalReduce op m.et = false ∨ x.odd ∨ (isWide m.et ∧ d.toNat % 2 = 1) then illop w s
  else
    s.laneWord u x.names x.rels d.toNat (isWide m.et) false u.lanes fun i =>
      laneOut m.et fun j =>
        let nodes := (List.range q.segWidth).map fun k =>
          let l := start i + k
          if l < q.base i + q.segWidth ∧ has u.lanes l ∧ among i l then
            some (m.treeVal (elemAt m.et (x.src.lo l) (x.src.hi l) j))
          else none
        m.treeElem ((m.tree op nodes).getD (m.identity op))

/-- The first lane of a lane's run: the last boundary at or below it in its segment (R143). -/
def Squad.runStart (q : Squad) (p : Mask) (i : Nat) : Nat :=
  (List.range (i + 1)).foldl (fun acc k => if q.base i < k ∧ has p k then k else acc) (q.base i)

/-! ## The ragged walker (R141, R142) -/

/-- The element a lane walks to (R141). -/
def Squad.walkElement (q : Squad) (b : Nat → Word) (i : Nat) : Word := b i + BitVec.ofNat 32 (i - q.base i)

/-- The row of an element: the largest entry of the segment's table at or below it (R141). -/
def Squad.walkRow (q : Squad) (a : Nat → Word) (i : Nat) (e : Word) : Word :=
  (List.range q.segWidth).foldl (fun acc k => if (a (q.base i + k)).toNat ≤ e.toNat then BitVec.ofNat 32 k else acc)
    0xFFFFFFFF#32

/-- PAND (R136). -/
def execPand (d : BitVec 3) (a : BitVec 3) (b : BitVec 3) (s : State) : Host.Outcome State Fault Refusal :=
  issue (.pand d a b) s fun u => predicateWord u s d (u.squad.pred a.toNat &&& (u.squad.pred b.toNat))

/-- POR (R136). -/
def execPor (d : BitVec 3) (a : BitVec 3) (b : BitVec 3) (s : State) : Host.Outcome State Fault Refusal :=
  issue (.por d a b) s fun u => predicateWord u s d (u.squad.pred a.toNat ||| (u.squad.pred b.toNat))

/-- PXOR (R136). -/
def execPxor (d : BitVec 3) (a : BitVec 3) (b : BitVec 3) (s : State) : Host.Outcome State Fault Refusal :=
  issue (.pxor d a b) s fun u => predicateWord u s d (u.squad.pred a.toNat ^^^ (u.squad.pred b.toNat))

/-- PANDN (R136). -/
def execPandn (d : BitVec 3) (a : BitVec 3) (b : BitVec 3) (s : State) : Host.Outcome State Fault Refusal :=
  issue (.pandn d a b) s fun u => predicateWord u s d (u.squad.pred a.toNat &&& ~~~(u.squad.pred b.toNat))

/-- PNOT (R136). -/
def execPnot (d : BitVec 3) (a : BitVec 3) (s : State) : Host.Outcome State Fault Refusal :=
  issue (.pnot d a) s fun u => predicateWord u s d (~~~(u.squad.pred a.toNat))

/-- PMOV (R136). -/
def execPmov (d : BitVec 5) (a : BitVec 3) (s : State) : Host.Outcome State Fault Refusal :=
  issue (.pmov d a) s fun u => 
    .takes .next (s.setSquad u.key (u.squad.setSreg d.toNat ((u.squad.pred a.toNat &&& u.split.mask).setWidth 64)))

/-- PSET (R136). -/
def execPset (d : BitVec 3) (b : SSrc) (s : State) : Host.Outcome State Fault Refusal :=
  issue (.pset d b) s fun u => 
    match u.squad.readB b [] with
    | .error e => .stops e s
    | .ok (v, pops) =>
      .takes .next (s.setSquad u.key ((u.squad.popAll pops).setPred d.toNat u.lanes (v.setWidth 32)))

/-- VOTE (R138). -/
def execVote (m : BitVec 2) (d : BitVec 3) (a : BitVec 3) (s : State) : Host.Outcome State Fault Refusal :=
  issue (.vote m d a) s fun u => 
    predicateWord u s d (maskOf fun i => voteOf m (u.lanes &&& u.squad.segment i) (u.squad.pred a.toNat))

/-- VBAL (R138). -/
def execVbal (d : BitVec 5) (a : BitVec 3) (s : State) : Host.Outcome State Fault Refusal :=
  issue (.vbal d a) s fun u => 
    s.wordPerLane u [] [] d (u.squad.ballot u.lanes (u.squad.pred a.toNat))

/-- VSHF (R139). -/
def execVshf (d : BitVec 5) (a : VSrc) (b : VSrc) (s : State) : Host.Outcome State Fault Refusal :=
  issue (.vshf d a b) s fun u => s.shuffleWord u (.vshf d a b) d a b

/-- VRDC (R140). -/
def execVrdc (d : BitVec 5) (a : VSrc) (o : BitVec 4) (s : State) : Host.Outcome State Fault Refusal :=
  issue (.vrdc d a o) s fun u => 
    s.reduceWord u (.vrdc d a o) d a o.toNat u.squad.base fun _ _ => true

/-- VSCN (R140). -/
def execVscn (d : BitVec 5) (a : VSrc) (e : BitVec 1) (o : BitVec 4) (s : State) : Host.Outcome State Fault Refusal :=
  issue (.vscn d a e o) s fun u => 
    s.reduceWord u (.vscn d a e o) d a o.toNat u.squad.base fun i k => decide (k < i) || (k == i && e == 0#1)

/-- RWALK (R141). -/
def execRwalk (d : BitVec 5) (a : VSrc) (b : VSrc) (s : State) : Host.Outcome State Fault Refusal :=
  issue (.rwalk d a b) s fun u => 
    let x := u.squad.src 5 false a
    let y := u.squad.src 5 true b
    s.wordPerLane u (a.names false ++ b.names false) (a.released false ++ b.released false) d fun i =>
      u.squad.walkRow x.lo i (u.squad.walkElement y.lo i)

/-- RNEXT (R142). -/
def execRnext (m : BitVec 2) (p : BitVec 3) (a : VSrc) (b : VSrc) (s : State) : Host.Outcome State Fault Refusal :=
  issue (.rnext m p a b) s fun u => 
    let x := u.squad.src 5 false a
    let y := u.squad.src 5 true b
    s.predWord u (a.names false ++ b.names false) (a.released false ++ b.released false) m p
      (fun i => i == u.squad.base i || (List.range u.squad.segWidth).any fun k =>
        x.lo (u.squad.base i + k) == u.squad.walkElement y.lo i) 0

/-- VSRED (R143). -/
def execVsred (d : BitVec 5) (a : VSrc) (p : BitVec 3) (o : BitVec 4) (s : State) : Host.Outcome State Fault Refusal :=
  issue (.vsred d a p o) s fun u => 
    let pb := u.squad.pred p.toNat
    s.reduceWord u (.vsred d a p o) d a o.toNat (u.squad.runStart pb) fun i k =>
      u.squad.runStart pb k == u.squad.runStart pb i

end Sys2Proof.Machine
end

