-- ==== Sys2Proof/Machine/Engines.lean ====
section
/-! DEFINITION. Accesses of the device in a context, and the engines: copy, gather and collective commands with their
records (R219 to R224). -/

namespace Sys2Proof.Machine

/-! ## Accesses of the device through a context's translation -/

/-- The parts of a range, cut at 4 KiB boundaries. -/
def pageSpans (va n : Nat) : List (Nat × Nat) :=
  if n = 0 then []
  else (List.range ((va + n - 1) / 4096 - va / 4096 + 1)).map fun i =>
    let lo := max va ((va / 4096 + i) * 4096)
    (lo, min (va + n) ((va / 4096 + i + 1) * 4096) - lo)

/-- The core in whose name the device accesses memory: none of the package's 1,280. -/
def deviceCore : Nat := 1280

/-- Why an access of an engine stops: a fault that is recorded, or ACCESS (R186, R222, R381, R404); or it waits at a retraining stack,
at a home that passes or at a page that a CLAIM has locked (R185, R273, R320). The device's own accesses are made once that has ended
(log 99). -/
inductive EngStop where
  | fault (va : Nat) (f : WalkFault) (kind : AccessKind)
  | access
  | held
  deriving DecidableEq, Repr

/-- Why a walk for an engine stops it: a key slot that refuses it ends the command with ACCESS, with no record (R381). -/
def State.engStop (s : State) (ctx va : Nat) (f : WalkFault) (kind : AccessKind) : EngStop :=
  if s.slotRefuses (contextVf ctx) (contextIface ctx) f kind then .access else .fault va f kind

/-- Read one part as core `c` does at a scope (R276). -/
def State.spanRead (s : State) (ctx c scope va n : Nat) : State × Except EngStop (List Byte) :=
  let vf := contextVf ctx
  let iface := contextIface ctx
  if inPodWindow va then
    match s.podRoute vf iface va .read with
    | .ok (pkg, _, _) =>
      if s.reachesPeer pkg then (match s.freeBytes n with
        | (s, b) => (s, .ok b))
      else (s, .error .access)
    | .error (some f) => (s, .error (.fault va f .read))
    | .error none => (s, .error .access)
  else
    match (s.payWalk ctx (dieOf c) vf iface va).walk vf iface va .read false with
    | (s, .error f) => (s, .error (s.engStop ctx va f .read))
    | (s, .ok e) =>
      let x := e.xlateFor ctx va
      if c ≠ deviceCore ∧ s.held x then (s, .error .held)
      else match (if c = deviceCore then s.awaitHome x else s).loadAt c scope x n with
        | (s, b) => (s, .ok b)

/-- Read a range. -/
def State.spansRead (s : State) (ctx c scope : Nat) : List (Nat × Nat) → State × Except EngStop (List Byte)
  | [] => (s, .ok [])
  | (va, n) :: l =>
    match s.spanRead ctx c scope va n with
    | (s, .error e) => (s, .error e)
    | (s, .ok b) => match s.spansRead ctx c scope l with
      | (s, .error e) => (s, .error e)
      | (s, .ok r) => (s, .ok (b ++ r))

/-- Write one part as core `c` does at a scope (R276). -/
def State.spanWrite (s : State) (ctx c scope va : Nat) (bs : List Byte) : State × Except EngStop Unit :=
  let vf := contextVf ctx
  let iface := contextIface ctx
  if inPodWindow va then
    match s.podRoute vf iface va .write with
    | .ok (pkg, h, off) =>
      if s.reachesPeer pkg then ({ s.carryOut ctx (dieOf c) bs.length with out := s.out ++ [.podWrite pkg h off bs] }, .ok ())
      else (s, .error .access)
    | .error (some f) => (s, .error (.fault va f .write))
    | .error none => (s, .error .access)
  else
    match (s.payWalk ctx (dieOf c) vf iface va).walk vf iface va .write false with
    | (s, .error f) => (s, .error (s.engStop ctx va f .write))
    | (s, .ok e) =>
      let x := e.xlateFor ctx va
      if c ≠ deviceCore ∧ s.held x then (s, .error .held)
      else ((if c = deviceCore then s.awaitHome x else s).storeAt c scope x bs, .ok ())

/-- Write a range. -/
def State.spansWrite (s : State) (ctx c scope : Nat) : List (Nat × Nat) → List Byte → State × Except EngStop Unit
  | [], _ => (s, .ok ())
  | (va, n) :: l, bs =>
    match s.spanWrite ctx c scope va (bs.take n) with
    | (s, .error e) => (s, .error e)
    | (s, .ok _) => s.spansWrite ctx c scope l (bs.drop n)

/-- The device reads memory of a context (R226). -/
def State.devRead (s : State) (ctx va n : Nat) : State × Option (List Byte) :=
  match s.spansRead ctx deviceCore 4 (pageSpans va n) with
  | (s, .ok b) => (s, some b)
  | (s, .error _) => (s, none)

/-- The device writes memory of a context; the flag says whether it could. -/
def State.devWrite (s : State) (ctx va : Nat) (bs : List Byte) : State × Bool :=
  match s.spansWrite ctx deviceCore 4 (pageSpans va bs.length) bs with
  | (s, .ok _) => (s, true)
  | (s, .error _) => (s, false)

/-- What stands dirty in an L1 of a range of a context's memory goes home, so that the device's read-modify-write misses no write
(R274, R295). -/
def State.devRecall (s : State) (ctx va n : Nat) : State :=
  (pageSpans va n).foldl (fun s p => match (s.walkBoth (contextVf ctx) (contextIface ctx) p.1 .write true).2 with
    | .ok e => s.recall none (s.homed (e.xlateFor ctx p.1)).pa p.2
    | .error _ => s) s

/-- The device reads a 64-bit word. -/
def State.devWord (s : State) (ctx va : Nat) : State × Option Nat :=
  match s.devRead ctx va 8 with
  | (s, b) => (s, b.map leNat)

/-! ## Rows of tensors -/

/-- Bytes of a tensor in space 0, 1 or 3, for a squad, at the scope of its command (R276). -/
def State.tensorRead (s : State) (q : Squad) (scope space a n : Nat) : State × Except EngStop (List Byte) :=
  if space = 1 then (s, .ok (s.scratchLoad q.team a n)) else s.spansRead (s.contextOf q) q.core scope (pageSpans a n)

/-- Write bytes of a tensor in space 0, 1 or 3. -/
def State.tensorWrite (s : State) (q : Squad) (scope space a : Nat) (bs : List Byte) : State × Except EngStop Unit :=
  if space = 1 then (s.scratchStore q.team a bs, .ok ())
  else s.spansWrite (s.contextOf q) q.core scope (pageSpans a bs.length) bs

/-- Bytes of a tensor that a write will merge with: those that stand dirty in an L1 go home first, so that the merge misses no
write (R274, R295). -/
def State.tensorMerge (s : State) (q : Squad) (scope space a n : Nat) : State × Except EngStop (List Byte) :=
  if space = 1 then (s, .ok (s.scratchLoad q.team a n))
  else
    (s.devRecall (s.contextOf q) a n).tensorRead q scope space a n

/-- Bytes with the elements from bit `lo` on replaced. -/
def putElems (old : List Byte) (lo bits : Nat) (pats : List Nat) : List Byte :=
  let v := leNat old
  let hi := lo + bits * pats.length
  let p := (pats.zipIdx.map fun x => x.1 % 2 ^ bits * 2 ^ (bits * x.2)).sum
  leBytes (v % 2 ^ lo + p * 2 ^ lo + v / 2 ^ hi * 2 ^ hi) old.length

/-- Elements of a row from a column on (R100, R216). -/
def State.rowRead (s : State) (q : Squad) (scope : Nat) (d : Descriptor) (row col n : Nat) : State × Except EngStop (List Nat) :=
  let b := d.fmt.bits
  let first := col * b / 8
  match s.tensorRead q scope d.space (d.rowAt row + first) (((col + n) * b + 7) / 8 - first) with
  | (s, .error e) => (s, .error e)
  | (s, .ok bs) => (s, .ok ((List.range n).map fun k => packedElem (fun j => bs.getD j 0) b (k + (col * b % 8) / b)))

/-- Write elements of a row from a column on; a byte shared with another element keeps that element (R274). -/
def State.rowWrite (s : State) (q : Squad) (scope : Nat) (d : Descriptor) (row col : Nat) (pats : List Nat) :
    State × Except EngStop Unit :=
  let b := d.fmt.bits
  let first := col * b / 8
  let len := ((col + pats.length) * b + 7) / 8 - first
  let whole := decide (col * b % 8 = 0) && decide ((col + pats.length) * b % 8 = 0)
  let r := if whole then (s, .ok (List.replicate len 0)) else s.tensorMerge q scope d.space (d.rowAt row + first) len
  match r with
  | (s, .error e) => (s, .error e)
  | (s, .ok old) => s.tensorWrite q scope d.space (d.rowAt row + first) (putElems old (col * b % 8) b pats)

/-! ## Commands -/

/-- Code, ports and shape of a command. -/
def Command.first (c : Command) : DWord := c.words.headD 0
def Command.code (c : Command) : Nat := bits c.first 7 0
def Command.shape (c : Command) : DWord := c.words.getD 1 0
def Command.nrows (c : Command) : Nat := bits c.shape 19 0
def Command.ncols (c : Command) : Nat := bits c.shape 39 20

/-- The completion record (R222). -/
def Command.result (c : Command) (status rows : Nat) : DWord :=
  BitVec.ofNat 64 (c.code + status * 2 ^ 8 + bits c.first 31 24 * 2 ^ 24 + rows % 2 ^ 32 * 2 ^ 32)

/-- Change the command at a place of a squad's port. -/
def State.onCommand (s : State) (k port i : Nat) (f : Command → Command) : State :=
  s.onSquad k fun q =>
    let l := (at' q.commands port []).zipIdx.map fun x => if x.2 = i then f x.1 else x.1
    { q with commands := put q.commands port l }

/-- The oldest command of a port that has no record yet, and its place. -/
def Squad.nextCommand (q : Squad) (port : Nat) : Option (Nat × Command) :=
  let l := at' q.commands port []
  let i := (l.takeWhile fun c => c.record.isSome).length
  (l[i]?).map (i, ·)

/-- Whether the copy or gather engine holds the tokens of a block of a squad's command (R257, R264): its holds stand at
stops 8 and 9. -/
def State.blockHeld (s : State) (q : Squad) (k port : Nat) : Bool :=
  (s.cluster (clusterOf q.core)).holds.any fun h => h.2.stop == 8 + port && h.2.squad == k

/-- Price of a block of the copy or gather engine (R257). -/
def blockPrice (port : Nat) : Nat := classPrice (7 + port)

/-- The mark of a squad's engine request: an engine's request names no split. -/
def blockMark (k port : Nat) : Nat := 4 * k + port

/-- An engine queues a request for a block at its stop (R260). -/
def State.askBlock (s : State) (q : Squad) (k port : Nat) : State :=
  let cl := clusterOf q.core
  let x := s.cluster cl
  let l := at' x.queues (8 + port) []
  if l.any fun r => r.split.isNone && (r.prices.map (·.1)) == [blockMark k port] then s
  else s.setCluster cl { x with
    queues := put x.queues (8 + port) (l ++ [{ split := none, prices := [(blockMark k port, blockPrice port)] }]) }

/-- The tokens of a squad's engine blocks return, and its requests leave the queue (R264, R269). -/
def State.endBlocks (s : State) (core k port : Nat) : State :=
  let cl := clusterOf core
  let x := s.cluster cl
  let l := at' x.queues (8 + port) []
  let mine := fun (r : Request) => r.split.isNone && (r.prices.map (·.1)) == [blockMark k port]
  let held := x.holds.filter fun h => h.2.stop == 8 + port && h.2.squad == k
  let n := (held.map (·.2.tokens)).sum + ((l.filter mine).map (·.captured)).sum
  if held.isEmpty && !l.any mine then s
  else
    let x := { x with
      holds := x.holds.filter fun h => !(h.2.stop == 8 + port && h.2.squad == k)
      queues := put x.queues (8 + port) (l.filter fun r => !mine r)
      serving := if x.serving == some (8 + port) && ((l.head?.map mine).getD false) then none else x.serving }
    s.setCluster cl (x.giveBack (8 + port) n)

/-- A command ends: its release, its record, and ENGINE unless the status is OK (R219, R222). -/
def State.endCommand (s : State) (k port i : Nat) (status rows : Nat) : State :=
  match s.squads.get? k with
  | none => s
  | some q =>
    match (at' q.commands port [])[i]? with
    | none => s
    | some c =>
      let r := c.result status rows
      let s := if has c.first 13 then s.release q.core (s.contextOf q) c.scope else s
      let s := s.onCommand k port i fun c => { c with record := some r, rows, fault := none, translate := false, index := none }
      let s := if port < 2 then s.endBlocks q.core k port else s
      if status = 0 then s else s.onSquad k fun q => q.pend .engine r

/-- A command meets a translation fault: a record to its owner, and the command waits (R177, R222). The model's split
numbers 4 to 6 name the ports in the fault buffer. -/
def State.engineFault (s : State) (k port i : Nat) (va : Nat) (f : WalkFault) (kind : AccessKind) (rows : Nat) : State :=
  match s.squads.get? k with
  | none => s
  | some q =>
    let c := s.core q.core
    let s := s.onCommand k port i fun c => { c with rows }
    match c.freeFault with
    | none => s
    | some e =>
      let gen := c.faultGen.getD e 0 + 1
      let x : Fault2 := { squad := k, split := 4 + port, owner := .level0, lane := 0, va := BitVec.ofNat 64 va, gen, op := none,
                          kind, bytes := [] }
      let s := s.setCore q.core { c with faults := c.faults.set e x, faultGen := c.faultGen.set e gen }
      let s := s.onCommand k port i fun c => { c with fault := some (e, BitVec.ofNat 64 va) }
      s.sendFault q.core e x (s.contextOf q) f kind

/-- Stop a command at a row: it ends, or goes on from there later. -/
def State.stopCommand (s : State) (k port i rows : Nat) : EngStop → State
  | .fault va f kind => s.engineFault k port i va f kind rows
  | .access => s.endCommand k port i 2 rows
  | .held => s.onCommand k port i fun c => { c with rows }

/-- The bytes of block scales that a command writes with a row (R220): COPY the row's own, STACK-LOAD its columns' with the last row
of a block. -/
def Command.scaleBytes (c : Command) (r : Nat) : Nat :=
  let f := c.src.fmt
  if f.block = 0 then 0
  else if c.code = 0x01 then c.ncols / f.block
  else if c.code = 0x02 ∧ (r + 1) % f.block = 0 then c.ncols
  else 0

/-- The bytes of a row's elements. -/
def Command.elemBytes (c : Command) : Nat := (c.ncols * c.src.fmt.bits + 7) / 8

/-- The bytes that a command writes with a row: elements, and then block scales (R415). -/
def Command.rowBytes (c : Command) (r : Nat) : Nat := c.elemBytes + c.scaleBytes r

/-- How many of some rows fit in a number of bytes. -/
def Command.fitRows (c : Command) : Nat → Nat → Nat → Nat
  | 0, _, _ => 0
  | n + 1, r, room => if c.rowBytes r ≤ room then c.fitRows n (r + 1) (room - c.rowBytes r) + 1 else 0

/-- Blocks of the row at hand (R415). -/
def Command.rowBlocks (c : Command) : Nat := max 1 ((c.rowBytes c.rows + 4095) / 4096)

/-- The end of the rows of the next block of a command (R415): of a block that has begun, where it was set; else whole rows of at
most 4,096 bytes together, or the one row that is wider. -/
def Command.blockEnd (c : Command) : Nat :=
  if c.rows < c.upto then c.upto
  else if c.nrows ≤ c.rows then c.rows
  else if 1 < c.rowBlocks then c.rows + 1
  else c.rows + c.fitRows (c.nrows - c.rows) c.rows 4096

/-- What the next block writes of a row (R415): of its elements the first and how many, of its block scales the first and how many, and
whether that completes the row. -/
structure RowPart where
  elem : Nat
  elems : Nat
  scale : Nat
  scales : Nat
  last : Bool
  deriving DecidableEq, Repr

/-- The part of a row that the next block writes (R415): all of it, or the next 4,096 of its bytes. -/
def Command.rowPart (c : Command) (r : Nat) : RowPart :=
  if c.rowBlocks = 1 then ⟨0, c.ncols, 0, c.scaleBytes r, true⟩
  else
    let elem := fun (byte : Nat) => min c.ncols (byte * 8 / c.src.fmt.bits)
    let scale := fun (byte : Nat) => min (c.scaleBytes r) (byte - c.elemBytes)
    let lo := c.blocks * 4096
    ⟨elem lo, elem (lo + 4096) - elem lo, scale lo, scale (lo + 4096) - scale lo, decide (c.rowBlocks ≤ c.blocks + 1)⟩

/-- A block is done: its tokens return, and with rows left the next block asks for its own (R264, R415). -/
def State.nextBlock (s : State) (k port i rows : Nat) (more : Bool) : State :=
  match s.squads.get? k with
  | none => s
  | some q =>
    let s := s.onCommand k port i fun c => { c with rows, upto := 0, blocks := if more then c.blocks + 1 else 0 }
    (s.endBlocks q.core k port).askBlock q k port

/-- Rows done by a command from a row on, `n` of them: `step` does one row. The command ends with its last row. -/
def State.doRows (s : State) (k port i total : Nat) (step : State → Nat → State × Except EngStop Unit) (from_ : Nat) : Nat → State
  | 0 => if from_ < total then s.nextBlock k port i from_ false else s.endCommand k port i 0 from_
  | n + 1 =>
    match step s from_ with
    | (s, .ok _) => State.doRows s k port i total step (from_ + 1) n
    | (s, .error e) => s.stopCommand k port i from_ e

/-- The block at hand of a command that holds its tokens (R264, R415): its whole rows, or its part of one row. `step` does a part of
a row. -/
def State.doBlock (s : State) (k port i : Nat) (c : Command)
    (step : State → Nat → RowPart → State × Except EngStop Unit) : State :=
  let s := s.onCommand k port i fun c => { c with upto := c.blockEnd, translate := false }
  if (c.rowPart c.rows).last then
    s.doRows k port i c.nrows (fun s r => step s r (c.rowPart r)) c.rows (c.blockEnd - c.rows)
  else
    match step s c.rows (c.rowPart c.rows) with
    | (s, .ok _) => s.nextBlock k port i c.rows true
    | (s, .error e) => s.stopCommand k port i c.rows e

/-- Whether a tensor holds a region at its cursor. -/
def Descriptor.holds (d : Descriptor) (nr nc : Nat) : Bool := decide (d.row0 + nr ≤ d.rows) && decide (d.col0 + nc ≤ d.cols)

/-- Whether a tensor whose rows are chosen by indices holds the columns of a region (R220). -/
def Descriptor.holdsColumns (d : Descriptor) (nc : Nat) : Bool := decide (d.col0 + nc ≤ d.cols)

/-- A descriptor of space 0, 1 or 3 with V = 1. -/
def Descriptor.linear (d : Descriptor) : Bool := d.valid && decide (d.space ≠ 2)

/-- A block-scaled tensor whose reduction extent is not a multiple of the block length (R108). -/
def Descriptor.ragged (d : Descriptor) (k : Nat) : Bool := d.fmt.scaled && decide (k % d.fmt.block ≠ 0)

/-- Whether the block scales of rows of a scratchpad tensor lie below `.scratch`. R222 names no check of them; a command that would pass
that end stops with BOUNDS (DESIGN CHOICE, log 124). -/
def Descriptor.scalesFit (d : Descriptor) (i k b limit : Nat) : Bool := decide (d.space ≠ 1) || decide (d.blockAt i k b < limit)

/-- The status that the checks of COPY give, 0 for none (R220, R222). Of several that fail TIDBAD comes before FORMAT and FORMAT before
BOUNDS, here as for every command, which R222 leaves open (DESIGN CHOICE, log 124). -/
def Command.copyStatus (c : Command) (limit : Nat) : Nat :=
  let f := c.src.fmt
  let l := f.block
  let nr := c.nrows
  let nc := c.ncols
  if !c.dst.linear || !c.src.linear || c.dst.ragged c.dst.cols || c.src.ragged c.src.cols then 3
  else if c.dst.fmtCode ≠ c.src.fmtCode then 4
  else if bits c.shape 63 40 ≠ 0 || !c.dst.holds nr nc || !c.src.holds nr nc then 5
  else if f.scaled && (decide (nc % l ≠ 0) || [c.dst, c.src].any fun d => decide (d.col0 % l ≠ 0) ||
      (decide (0 < nr) && decide (0 < nc) && !d.scalesFit (d.row0 + nr - 1) d.cols ((d.col0 + nc) / l - 1) limit)) then 5
  else 0

/-- Some elements of one row of a tensor go to a row of another (R220). -/
def State.moveElems (s : State) (q : Squad) (c : Command) (from_ to_ : Nat) (p : RowPart) : State × Except EngStop Unit :=
  if p.elems = 0 then (s, .ok ())
  else
    match s.rowRead q c.scope c.src from_ (c.src.col0 + p.elem) p.elems with
    | (s, .error e) => (s, .error e)
    | (s, .ok v) => s.rowWrite q c.scope c.dst to_ (c.dst.col0 + p.elem) v

/-- A part of one row of COPY: elements, and block scales (R220). -/
def State.copyRow (s : State) (q : Squad) (c : Command) (k : Nat) (p : RowPart) : State × Except EngStop Unit :=
  match s.moveElems q c (c.src.row0 + k) (c.dst.row0 + k) p with
  | (s, .error e) => (s, .error e)
  | (s, .ok _) =>
    let at_ := fun (d : Descriptor) => d.blockAt (d.row0 + k) d.cols (d.col0 / c.src.fmt.block + p.scale)
    if p.scales = 0 then (s, .ok ())
    else
      match s.tensorRead q c.scope c.src.space (at_ c.src) p.scales with
      | (s, .error e) => (s, .error e)
      | (s, .ok b) => s.tensorWrite q c.scope c.dst.space (at_ c.dst) b

/-- The status that the checks of STACK-LOAD give (R220, R222). -/
def Command.stackStatus (c : Command) (limit : Nat) : Nat :=
  let f := c.src.fmt
  let l := f.block
  let nr := c.nrows
  let nc := c.ncols
  if !c.dst.valid || decide (c.dst.space ≠ 2) || !c.src.linear || c.dst.ragged c.dst.rows || c.src.ragged c.src.rows then 3
  else if c.dst.fmtCode ≠ c.src.fmtCode then 4
  else if bits c.shape 63 40 ≠ 0 || !c.dst.holds nr nc || !c.src.holds nr nc then 5
  else if f.scaled && (decide (nr % l ≠ 0) || [c.dst, c.src].any fun d => decide (d.row0 % l ≠ 0)) ||
      (f.scaled && decide (0 < nr) && decide (0 < nc) &&
        !c.src.scalesFit (c.src.col0 + nc - 1) c.src.rows ((c.src.row0 + nr) / l - 1) limit) then 5
  else 0

/-- Write elements of one bit width into one stripe of a team's share (R216, R234). -/
def State.stripePut (s : State) (q : Squad) (column off lo bits pat : Nat) (d : Descriptor) : State :=
  match s.teams.get? q.team with
  | none => s
  | some t =>
    let share := ((s.launchOf q).map (·.stack)).getD 0 / 512
    let a := ((d.slice + column / 32) * 32 + column % 32) * share + off
    let n := (lo + bits + 7) / 8
    s.setTeam q.team { t with stack := writeBytes t.stack a (putElems (readBytes t.stack a n) lo bits [pat]) }

/-- The block scales of a block of rows, for the columns of a STACK-LOAD (R220). -/
def State.stackScales (s : State) (q : Squad) (c : Command) (k : Nat) : List Nat → State × Except EngStop Unit
  | [] => (s, .ok ())
  | n :: ns =>
    let l := c.src.fmt.block
    match s.tensorRead q c.scope c.src.space (c.src.blockAt (c.src.col0 + n) c.src.rows ((c.src.row0 + k) / l)) 1 with
    | (s, .error e) => (s, .error e)
    | (s, .ok b) =>
      let off := c.dst.offset + (c.dst.rows * c.dst.fmt.bits + 7) / 8 + (c.dst.row0 + k) / l
      (s.stripePut q (c.dst.col0 + n) off 0 8 (leNat b) c.dst).stackScales q c k ns

/-- A part of one row of STACK-LOAD: a reduction index of some columns, and block scales of some columns with the last row of a
block. -/
def State.stackRow (s : State) (q : Squad) (c : Command) (k : Nat) (p : RowPart) : State × Except EngStop Unit :=
  let r := if p.elems = 0 then (s, .ok []) else s.rowRead q c.scope c.src (c.src.row0 + k) (c.src.col0 + p.elem) p.elems
  match r with
  | (s, .error e) => (s, .error e)
  | (s, .ok v) =>
    let b := c.dst.fmt.bits
    let at_ := (c.dst.row0 + k) * b
    let s := v.zipIdx.foldl (fun s x =>
      s.stripePut q (c.dst.col0 + p.elem + x.2) (c.dst.offset + at_ / 8) (at_ % 8) b x.1 c.dst) s
    s.stackScales q c k ((List.range p.scales).map (p.scale + ·))

/-- The indices of a GATHER or SCATTER as signed values (R220). -/
def State.indexRead (s : State) (q : Squad) (c : Command) : List Nat → State × Except EngStop (List Int)
  | [] => (s, .ok [])
  | j :: js =>
    match s.rowRead q c.scope c.idx (c.idx.row0 + j) c.idx.col0 1 with
    | (s, .error e) => (s, .error e)
    | (s, .ok v) =>
      match s.indexRead q c js with
      | (s, .error e) => (s, .error e)
      | (s, .ok r) => (s, .ok (intOf 32 true (v.headD 0) :: r))

/-- The status that the checks of GATHER and SCATTER give before their indices are read (R220, R222). A 4-bit row at an odd column gets
BOUNDS, here and in a collective: R220 excludes it and R222 names no status for it (DESIGN CHOICE, log 124). -/
def Command.gatherStatus (c : Command) : Nat :=
  let f := c.src.fmt
  let nr := c.nrows
  let nc := c.ncols
  let scatter := decide (c.code = 0x11)
  if !c.dst.linear || !c.src.linear || !c.idx.linear then 3
  else if decide (c.dst.fmtCode ≠ c.src.fmtCode) || f.scaled || decide (c.idx.fmt ≠ .i32) then 4
  else if decide (bits c.shape 63 40 ≠ 0) || !c.idx.holds nr 1 ||
      !(if scatter then c.dst.holdsColumns nc else c.dst.holds nr nc) ||
      !(if scatter then c.src.holds nr nc else c.src.holdsColumns nc) ||
      (decide (f.bits = 4) && (decide (c.dst.col0 % 2 = 1) || decide (c.src.col0 % 2 = 1))) then 5
  else 0

/-- A part of one row of GATHER or SCATTER (R220). -/
def State.gatherRow (s : State) (q : Squad) (c : Command) (ix : List Int) (j : Nat) (p : RowPart) : State × Except EngStop Unit :=
  let r := ix.getD j (-1)
  if r < 0 then (s, .ok ())
  else if c.code = 0x11 then s.moveElems q c (c.src.row0 + j) r.toNat p
  else s.moveElems q c r.toNat (c.dst.row0 + j) p

/-- The indices of a GATHER or SCATTER, read once before its first row (R220, R222). -/
def State.indices (s : State) (q : Squad) (c : Command) : State × Except EngStop (List Int) :=
  match c.index with
  | some ix => (s, .ok ix)
  | none => s.indexRead q c (List.range c.nrows)

/-- A command that has passed its checks ends with no row left, and else asks for the tokens of its next block, or does that block with
them (R264, R415). -/
def State.blockStep (s : State) (q : Squad) (k port i : Nat) (c : Command)
    (step : State → Nat → RowPart → State × Except EngStop Unit) : State :=
  if c.nrows ≤ c.rows then s.endCommand k port i 0 c.rows
  else if s.blockHeld q k port then s.doBlock k port i c step
  else s.askBlock q k port

/-- Run the oldest command of a port that has no record, if its code is the one asked for, after the squad's earlier accesses (R220,
R223). The rows of a block are written while the engine holds its tokens (R264, R415; log 26). -/
def State.runCommand (s : State) (k port code : Nat) : State :=
  let s := s.performAll k
  match s.squads.get? k with
  | none => s
  | some q =>
    match q.nextCommand port with
    | none => s
    | some (i, c) =>
      if c.code ≠ code ∨ c.fault.isSome ∨ q.halted ∨ s.unperformed k none then s
      else
        let limit := s.scratchSize q
        if code = 0x01 then
          if c.copyStatus limit ≠ 0 then s.endCommand k port i (c.copyStatus limit) 0
          else s.blockStep q k port i c fun s r p => s.copyRow q c r p
        else if code = 0x02 then
          if c.stackStatus limit ≠ 0 then s.endCommand k port i (c.stackStatus limit) 0
          else s.blockStep q k port i c fun s r p => s.stackRow q c r p
        else if code = 0x10 ∨ code = 0x11 then
          if c.gatherStatus ≠ 0 then s.endCommand k port i c.gatherStatus 0
          else
            match s.indices q c with
            | (s, .error e) => s.stopCommand k port i c.rows e
            | (s, .ok ix) =>
              let rows := if code = 0x11 then c.dst.rows else c.src.rows
              if ix.any fun r => decide ((rows : Int) ≤ r) then s.endCommand k port i 5 0
              else (s.onCommand k port i fun c => { c with index := some ix }).blockStep q k port i c
                fun s r p => s.gatherRow q c ix r p
        else s

/-! ## Collectives (R220) -/

/-- The teams that take part in a collective of a squad, in index order: gang 0, die 1, package and pod 2 and 3 (R220). Of the
package they are every team of the launch, and of a die those of every gang admitted there; none is given while a gang of them is not
in the machine: the others wait for its command. -/
def State.members (s : State) (q : Squad) (group : Nat) : Option (List Nat) :=
  match s.gangOf q with
  | none => none
  | some g =>
    if group = 0 then some g.teams
    else
      let die := g.cluster / 20
      let gs := (s.gangsOf g.launch).filter fun x => decide (group ≠ 1) || x.2.cluster / 20 == die
      let sorted : Tbl Gang := gs.foldl (fun acc x => Tbl.set acc x.2.index x.2) []
      if group = 1 ∧ ((s.launchOf q).map fun l => l.gone.contains die).getD false then none
      else if group ≠ 1 ∧ sorted.length < ((s.launchOf q).map (·.gangCount)).getD 1 then none
      else some (sorted.map fun (x : Nat × Gang) => x.2.teams).flatten

/-- GROUP and KEY of a collective (R220). -/
def Command.rendezvous (c : Command) : Nat × Nat := (bits c.first 49 48, bits c.first 63 56)

/-- The first collective of a group and key that a team has pushed and that has not met (R220): its squad, its place and the
command; none while an older command of its port stands before it. -/
def State.memberCommand (s : State) (team : Nat) (key : Nat × Nat) : Option (Nat × Nat × Command) :=
  let mine := (s.squads.filter fun e => e.2.team == team && !e.2.halted).flatMap fun e =>
    ((at' e.2.commands 2 []).zipIdx.filter fun x => x.1.record.isNone && x.1.collective.isNone && x.1.rendezvous == key).map
      fun x => (e.1, x.2, x.1)
  let first := mine.foldl (fun (acc : Option (Nat × Nat × Command)) x => match acc with
    | some y => if x.2.2.seq < y.2.2.seq then some x else some y
    | none => some x) none
  first.filter fun x => ((s.squads.get? x.1).bind fun q => (q.nextCommand 2).map (·.1)) == some x.2.1

/-- What the members of a collective must agree on (R220). -/
def Command.agreement (c : Command) : Nat × Nat × Nat × Nat × Nat × Nat :=
  (c.code, bits c.first 51 50, c.nrows, c.ncols, c.src.fmtCode, c.dst.fmtCode)

/-- The status that a member's own checks give (R220, R222). -/
def Command.collectiveStatus (c : Command) (members : Nat) : Nat :=
  let f := c.src.fmt
  let gather := decide (c.code = 0x21)
  let ok := fun (d : Descriptor) => d.valid && (decide (d.space = 0) || decide (d.space = 3))
  if !ok c.dst || !ok c.src then 3
  else if decide (c.dst.fmtCode ≠ c.src.fmtCode) || f.scaled ||
      (!gather && decide (f ≠ .f32) && decide (f ≠ .bf16) && decide (f ≠ .i32)) then 4
  else if decide (bits c.shape 63 40 ≠ 0) || !c.src.holds c.nrows c.ncols ||
      !c.dst.holds (if gather then members * c.nrows else c.nrows) c.ncols ||
      (decide (f.bits = 4) && (decide (c.dst.col0 % 2 = 1) || decide (c.src.col0 % 2 = 1))) then 5
  else 0

/-- The packages that a collective of a group spans (R405). -/
def State.packagesOf (s : State) (q : Squad) (group : Nat) : Nat :=
  if group = 3 then max 1 (((s.launchOf q).map (·.podCount)).getD 1) else 1

/-- What the peers of a pod collective have done (R405), of which the device hears nothing but this: a free value, new at each try. Not
all of them have pushed their commands, or one disagrees, or its launch has other GANGS or `.teams`, or all agree (log 3). -/
inductive Peers where
  | missing | mismatch | agree
  deriving DecidableEq, Repr

/-- What the peers of a collective have done; a collective within the package has none. -/
def State.peersOf (s : State) (q : Squad) (group : Nat) : State × Peers :=
  if s.packagesOf q group ≤ 1 then (s, .agree)
  else (s.spend, if s.free.toNat % 4 = 0 then .missing else if s.free.toNat % 4 = 1 then .mismatch else .agree)

/-- COLLECTIVE_RENDEZVOUS: when every member has pushed its command, they are matched, or all end (R220). With a check
of one member failed, that member gets its status and the others the status of the lowest (log 24). The engine of the die of the squad
whose step matches them runs the collective, wherever its members lie, which R20 and R220 leave open (DESIGN CHOICE, log 24). -/
def State.rendezvous (s : State) (k : Nat) : State :=
  match s.squads.get? k with
  | none => s
  | some q =>
    match q.nextCommand 2 with
    | none => s
    | some (_, c) =>
      if c.collective.isSome then s
      else
        let found := (s.members q c.rendezvous.1).map fun ts => ts.map fun t => s.memberCommand t c.rendezvous
        if (found.map fun l => l.any Option.isNone).getD true then s
        else
          let (s, peers) := s.peersOf q c.rendezvous.1
          if peers = .missing then s else
          let ms := (found.getD []).filterMap id
          let agree := peers == .agree && ms.all fun m => m.2.2.agreement == c.agreement
          let stats := ms.map fun m => m.2.2.collectiveStatus (s.packagesOf q c.rendezvous.1 * ms.length)
          if !agree then ms.foldl (fun s m => s.endCommand m.1 2 m.2.1 6 0) s
          else
            match stats.find? (· ≠ 0) with
            | some low =>
              (ms.zip stats).foldl (fun s m => s.endCommand m.1.1 2 m.1.2.1 (if m.2 = 0 then low else m.2) 0) s
            | none =>
              let s := ms.foldl (fun s m => s.performAll m.1) s
              if ms.any fun m => s.unperformed m.1 none then s
              else
                let id := s.nextId
                let d := dieOf q.core
                let s := ms.foldl (fun s m => s.onCommand m.1 2 m.2.1 fun c => { c with collective := some id, translate := false }) s
                let x := s.die d
                { s.setDie d { x with collectives := x.collectives.set id { code := c.first, members := ms.map (·.1) } } with
                  nextId := id + 1 }

/-- A member's command of a collective: its squad, its place, the squad and the command. -/
def State.collectiveOf (s : State) (id k : Nat) : Option (Nat × Nat × Squad × Command) :=
  (s.squads.get? k).bind fun q =>
    let l := at' q.commands 2 []
    let i := (l.takeWhile fun c => c.collective != some id || c.record.isSome).length
    (l[i]?).map fun c => (k, i, q, c)

/-- Bytes of a row go between a member's die and that of the engine, charged to the context (R20, R220, R328). -/
def State.carryRow (s : State) (q : Squad) (c : Command) (a b : Nat) : State := s.carry (some (s.contextOf q)) a b c.elemBytes

/-- The source regions of members, row by row, read for the engine of a die; or the member that stops. -/
def State.gatherRegions (s : State) (d : Nat) :
    List (Nat × Nat × Squad × Command) → State × Except (Nat × Nat × EngStop) (List (List (List Nat)))
  | [] => (s, .ok [])
  | (k, i, q, c) :: ms =>
    let r := (List.range c.nrows).foldl (fun acc j => match acc with
      | (s, Except.error e) => (s, Except.error e)
      | (s, .ok rows) => match s.rowRead q c.scope c.src (c.src.row0 + j) c.src.col0 c.ncols with
        | (s, .error e) => (s, .error e)
        | (s, .ok v) => (s.carryRow q c (dieOf q.core) d, .ok (rows ++ [v]))) ((s, .ok []) : State × Except EngStop (List (List Nat)))
    match r with
    | (s, .error e) => (s, .error (k, i, e))
    | (s, .ok rows) => match s.gatherRegions d ms with
      | (s, .error e) => (s, .error e)
      | (s, .ok l) => (s, .ok (rows :: l))

/-- The element mode of a collective: nearest-even, no flush, no saturation (R220). -/
def collectiveMode (f : Fmt) : ElemMode :=
  ⟨if f = .f32 then 10 else if f = .bf16 then 9 else 4, ⟨0, false, false⟩, false⟩

/-- The fixed tree of R140 over any number of members: levels until one value is left. -/
def ElemMode.reduceAll (m : ElemMode) (op : Nat) : Nat → List (Option TreeVal) → Option TreeVal
  | 0, l => l.head?.join
  | n + 1, l => if l.length ≤ 1 then l.head?.join else ElemMode.reduceAll m op n (m.level op l)

/-- Combine one element of every member (R140, R220). -/
def combineElem (f : Fmt) (op : Nat) (xs : List Nat) : Nat :=
  let m := collectiveMode f
  ((m.reduceAll op 64 (xs.map fun x => some (m.treeVal x))).map fun v => (m.treeElem v).pat).getD 0

/-- Write rows of a member's region from a row on; its command counts the rows written (R222). -/
def State.putRegion (s : State) (d k i : Nat) (q : Squad) (c : Command) (row : Nat) : List (List Nat) → State × Except EngStop Unit
  | [] => (s, .ok ())
  | v :: vs => match s.rowWrite q c.scope c.dst (c.dst.row0 + row) c.dst.col0 v with
    | (s, .error e) => (s, .error e)
    | (s, .ok _) =>
      ((s.carryRow q c d (dieOf q.core)).onCommand k 2 i fun c => { c with rows := row + 1 }).putRegion d k i q c (row + 1) vs

/-- Write what is left of the result of a collective, from the engine of a die, to every member's destination. -/
def State.putResult (s : State) (d : Nat) (rows : List (List Nat)) : List (Nat × Nat × Squad × Command) →
    State × Option (Nat × Nat × EngStop)
  | [] => (s, none)
  | (k, i, q, c) :: ms => match s.putRegion d k i q c c.rows (rows.drop c.rows) with
    | (s, .error e) => (s, some (k, i, e))
    | (s, .ok _) => s.putResult d rows ms

/-- The die that runs a collective. -/
def State.collectiveDie (s : State) (id : Nat) : Option (Nat × Collective) :=
  s.dies.foldl (fun acc d => match acc with
    | some x => some x
    | none => (d.2.collectives.get? id).map fun c => (d.1, c)) none

/-- A collective is over. -/
def State.dropCollective (s : State) (id : Nat) : State :=
  match s.collectiveDie id with
  | none => s
  | some (d, _) =>
    let y := s.die d
    s.setDie d { y with collectives := y.collectives.erase id }

/-- A collective ends for every member with a status; each record counts the rows that its region has received (R222; log 24). -/
def State.endCollective (s : State) (id status : Nat) : State :=
  match s.collectiveDie id with
  | none => s
  | some (_, x) =>
    let ms := x.members.filterMap fun k => s.collectiveOf id k
    (ms.foldl (fun s m => s.endCommand m.1 2 m.2.1 status m.2.2.2.rows) s).dropCollective id

/-- Free elements: what members of other packages contribute (log 3). -/
def freeRows (fresh nr nc bits : Nat) : List (List Nat) :=
  (List.range nr).map fun r => (List.range nc).map fun n => (Config.freeWord (fresh + r * nc + n)).toNat % 2 ^ bits

/-- The regions of every member of a collective in index order (R405): those of this package at its rank, which is free, as are the
regions of the members of other packages (log 3). -/
def State.allRegions (s : State) (packages : Nat) (c : Command) (regs : List (List (List Nat))) : List (List (List Nat)) :=
  if packages ≤ 1 then regs
  else
    let rank := s.free.toNat % packages
    (List.range packages).flatMap fun p =>
      if p = rank then regs
      else (List.range regs.length).map fun m =>
        freeRows (s.fresh + 1 + (p * regs.length + m) * c.nrows * c.ncols) c.nrows c.ncols c.src.fmt.bits

/-- The rows that a collective writes from the regions of its members (R220). -/
def collectiveRows (code op : Nat) (c : Command) (regs : List (List (List Nat))) : List (List Nat) :=
  if code = 0x20 then
    (List.range c.nrows).map fun r => (List.range c.ncols).map fun n =>
      combineElem c.src.fmt op (regs.map fun g => (g.getD r []).getD n 0)
  else regs.flatten

/-- Whether an earlier collective of a die comes first: they are served in the order in which they met, but for those that wait on a
translation fault (R20, R222). -/
def State.collectiveAhead (s : State) (d id : Nat) : Bool :=
  (s.die d).collectives.any fun e => decide (e.1 < id) &&
    !(e.2.members.any fun k => (s.collectiveOf e.1 k).any fun m => m.2.2.2.fault.isSome)

/-- Run a collective that has met (R220): the sources are read and combined once, then what is left of the result is written. A fault
stops it at the member whose access it is; ACCESS, or an answer FAIL or DENY, ends it for every member (log 24). -/
def State.runCollective (s : State) (id : Nat) (code : Nat) : State :=
  match s.collectiveDie id with
  | none => s
  | some (d, x) =>
    let ms := x.members.filterMap fun k => s.collectiveOf id k
    if bits x.code 7 0 ≠ code ∨ s.collectiveAhead d id ∨ ms.any fun m => m.2.2.2.fault.isSome then s
    else
      let stop := fun (s : State) (e : Nat × Nat × EngStop) => match e.2.2 with
        | .fault va f kind => s.engineFault e.1 2 e.2.1 va f kind
            (((s.collectiveOf id e.1).map fun m => m.2.2.2.rows).getD 0)
        | .access => s.endCollective id 2
        | .held => s
      let write := fun (s : State) (rows : List (List Nat)) => match s.putResult d rows ms with
        | (s, some e) => stop s e
        | (s, none) => s.endCollective id 0
      match x.result, ms.head? with
      | _, none => s.dropCollective id
      | some rows, some _ => write s rows
      | none, some (_, _, q, c) =>
        match s.gatherRegions d ms with
        | (s, .error e) => stop s e
        | (s, .ok regs) =>
          let packages := s.packagesOf q (bits x.code 49 48)
          let rows := collectiveRows code (bits x.code 51 50) c (s.allRegions packages c regs)
          let y := s.die d
          let s := s.setDie d { y with collectives := y.collectives.set id { x with result := some rows } }
          write (if 1 < packages then { s with fresh := s.fresh + 1 + packages * regs.length * c.nrows * c.ncols } else s) rows

/-- A collective runs, after the earlier ones of its die (R20). -/
def State.runInTurn (s : State) (id : Nat) : State :=
  match s.collectiveDie id with
  | none => s
  | some (d, _) => (((s.die d).collectives.map (·.1)).filter fun x => decide (x ≤ id)).foldl
      (fun s x => (s.runCollective x 0x20).runCollective x 0x21) s

/-! ## The steps as instructions -/

/-- COPY (R220). -/
def execCopy (squad : Nat) (s : State) : Host.Outcome State Fault Refusal := .next (s.runCommand squad 0 0x01)

/-- STACK_LOAD (R220). -/
def execStackLoad (squad : Nat) (s : State) : Host.Outcome State Fault Refusal := .next (s.runCommand squad 0 0x02)

/-- GATHER (R220). -/
def execGather (squad : Nat) (s : State) : Host.Outcome State Fault Refusal := .next (s.runCommand squad 1 0x10)

/-- SCATTER (R220). -/
def execScatter (squad : Nat) (s : State) : Host.Outcome State Fault Refusal := .next (s.runCommand squad 1 0x11)

/-- COLLECTIVE_RENDEZVOUS (R220). -/
def execCollectiveRendezvous (squad : Nat) (s : State) : Host.Outcome State Fault Refusal := .next (s.rendezvous squad)

/-- REDUCE (R220). -/
def execReduce (id : Nat) (s : State) : Host.Outcome State Fault Refusal := .next (s.runCollective id 0x20)

/-- ALLGATHER (R220). -/
def execAllgather (id : Nat) (s : State) : Host.Outcome State Fault Refusal := .next (s.runCollective id 0x21)

end Sys2Proof.Machine
end

