-- ==== Sys2Proof/Machine/Ending.lean ====
section
/-! DEFINITION. How lanes, squads, teams, gangs and launches end (R55, R57, R86, R147, R229, R230, R416). -/

namespace Sys2Proof.Machine

/-! ## The save area's directory (R337, R416) -/

/-- First virtual address of the save area of a context's interface (R337). -/
def State.saveBase (s : State) (ctx : Nat) : Nat :=
  bits (s.reg (ifaceBase (contextVf ctx) (contextIface ctx) + 0x8)) 47 12 * 4096

/-- Pages of the save area (R337). -/
def State.savePages (s : State) (ctx : Nat) : Nat :=
  bits (s.reg (ifaceBase (contextVf ctx) (contextIface ctx) + 0x10)) 31 0

/-- Write a directory entry (R416): `page` counts from 1, and 0 marks an unused entry. -/
def State.setDirectory (s : State) (ctx entry launch gang page : Nat) : State :=
  (s.devWrite ctx (s.saveBase ctx + 16 * entry) (leBytes launch 8 ++ leBytes gang 4 ++ leBytes page 4)).1

/-! ## The scratchpad region (R145, R147) -/

/-- Granules of a team's allocation (R146). -/
def granules (scratch : Nat) : Nat := (scratch + 4095) / 4096

/-- The granules that the teams of a core hold, as base and count (R146). -/
def State.allocations (s : State) (core : Nat) : List (Nat × Nat) :=
  (s.teams.filter fun t => t.2.core == core).filterMap fun t =>
    match (s.gangs.get? t.2.gang).bind fun g => s.launches.get? g.launch with
    | none => none
    | some l => if l.scratch = 0 then none else some (t.2.base, granules l.scratch)

/-- The lowest sectors that hold no granule leave the region (R147). Where ways of the core still drain, the region gives back at once the
sectors that nobody needs, and its draining ways are the ones below what is left: R147 and R148 leave this case open (DESIGN CHOICE,
log 107). -/
def State.shrinkRegion (s : State) (core : Nat) : State :=
  let c := s.core core
  let used := s.allocations core
  let low := used.foldl (fun acc a => min acc (a.1 / 16)) 16
  s.setCore core { c with sectors := min c.sectors (16 - low) }

/-! ## Squads (R55, R57) -/

/-- Whether a squad that has ended leaves an operation behind that nothing awaits: a CLAIM between pages, a service call (log 25). -/
def OpKind.abandoned : OpKind → Bool
  | .claim .. => true
  | .svc .. => true
  | _ => false

/-- The outstanding work of a squad that ends: its accesses, tile words and deposits are performed as far as they can be; a CLAIM
stops, and a reply is no longer awaited (R55; log 25). -/
def State.quitWork (s : State) (k : Nat) : State :=
  let s := s.performAll k
  let ids := ((s.squads.get? k).map fun q => (q.ops.filter fun o => !o.finished).map (·.id)).getD []
  let s := ids.foldl (fun s id => (s.perform k id).depositArrival k id) s
  let gone := ((s.squads.get? k).map fun q => (q.ops.filter fun o => !o.finished && o.kind.abandoned).map (·.id)).getD []
  { gone.foldl (fun s id => (s.claimUndo id).finishOp k id) s with services := s.services.filter fun x => x.2.2.1 != k }

/-- Whether a squad has ended and nothing of it is left to be done: its operations and its commands are (R55; log 25). -/
def Squad.settled (q : Squad) : Bool :=
  q.ended && !q.halted && (q.ops.all fun o => o.finished) && q.commands.toList.all fun l => l.all fun c => c.record.isSome

/-- A squad leaves the machine: barriers, queues, requests, walks, fault-buffer entries, tiles. -/
def State.removeSquad (s : State) (k : Nat) : State :=
  match s.squads.get? k with
  | none => s
  | some q =>
    let s := (s.unlockSquad k).leaveBarriers q
    let s := q.splits.foldl (fun s p => (s.dropRequests q.core k p.id).giveTokens q.core p.tokenSum) s
    let s := s.dropRecords q.core k
    let s := (q.ops.map (·.id)).foldl (fun s id => (s.leaveSubs q.core k id).endHolds q.core k id) s
    let s := (s.endBlocks q.core k 0).endBlocks q.core k 1
    let c := s.core q.core
    let s := s.setCore q.core { c with
      faults := c.faults.filter fun x => x.2.squad != k
      tiles := c.tiles.filter fun x => x.2.squad != k }
    let d := dieOf q.core
    let x := s.die d
    let s := s.setDie d { x with walks := x.walks.filter fun w => w.squad != k }
    let s := match s.teams.get? q.team with
      | none => s
      | some t => s.setTeam q.team { t with queues := t.queues.map fun (x : PassQueue) => { x with waiting := x.waiting.filter fun w => w.1 != k } }
    { s with
      squads := s.squads.erase k
      services := s.services.filter fun x => x.2.2.1 != k
      sweeps := s.sweeps.map fun (w : Sweep) => { w with waiting := w.waiting.filter fun x => x.1 != k } }

/-! ## Launches (R230) -/

/-- The wake word and its interrupt (R226, R230). -/
def State.wake (s : State) (l : Launch) (status : Nat) : State :=
  let vf := contextVf l.context
  let iface := contextIface l.context
  let r := if l.wakeAddr.toNat % 8 = 0 then
      s.devWrite l.context l.wakeAddr.toNat (leBytes (status + l.id % 2 ^ 32 * 2 ^ 32) 8) else (s, false)
  match r with
  | (s, false) => s.event2 vf iface (eventRecord evSubmit 0 l.id 0 0 0)
  | (s, true) =>
    if l.wakeIrq then
      let key := (vf * 64 + iface) * 2 ^ 16 + l.vector
      if l.wakeWindow = 0 ∧ (s.wakes.get? key).isNone then { s with out := s.out ++ [.interrupt (2 + vf) l.vector] }
      else { s with wakes := s.wakes.set key (s.wakes.getD key 0 + 1) }
    else s

/-- The reservation of a gang in the save area is released: its directory entry and its freshness entry (R337, R386, R416). -/
def State.releaseSave (s : State) (g : Gang) : State :=
  match s.launches.get? g.launch with
  | none => s
  | some l =>
    let s := s.setDirectory l.context g.directory 0 0 0
    { s with freshness := s.freshness.filter fun (e : Nat × Nat) =>
        !(e.1 / 2 ^ 32 == l.context && decide (g.page ≤ e.1 % 2 ^ 32) && decide (e.1 % 2 ^ 32 < g.page + g.pages)) }

/-- The image place of a cooperative launch is released with its freshness entry (R337, R386). -/
def State.releaseLaunchPlace (s : State) (l : Launch) : State :=
  match l.place with
  | none => s
  | some p => { s with freshness := s.freshness.filter fun (e : Nat × Nat) => e.1 != l.context * 2 ^ 32 + p }

/-- A collective in which a squad combines runs to its end; one that a translation fault holds ends as with an answer FAIL (R224,
R230; log 100). -/
def State.closeCollective (s : State) (k : Nat) : State :=
  match (s.squads.get? k).bind fun q => (q.nextCommand 2).bind fun c => c.2.collective with
  | some id => (s.runInTurn id).endCollective id 1
  | none => s

/-- A gang leaves the machine; what combines runs to its end (R230, R334), and its dirty lines go home first. -/
def State.removeGang (s : State) (gk : Nat) : State :=
  match s.gangs.get? gk with
  | none => s
  | some g =>
    let away := (s.saved.filter fun t => g.teams.contains t.1).flatMap fun t => t.2.squads.map fun e => e.1
    let keys := (s.squads.filter fun e => g.teams.contains e.2.team).map (·.1)
    let s := keys.foldl (fun s k => s.closeCollective k) s
    let s := keys.foldl (fun s k => (s.performAll k).removeSquad k) s
    let cores := (s.teams.filter fun t => t.2.gang == gk).map fun (t : Nat × Team) => t.2.core
    let s := cores.foldl (fun s c => s.flushL1 c) s
    let s := { s with
      teams := s.teams.filter fun t => t.2.gang != gk
      saved := s.saved.filter fun (t : Nat × Saved) => !g.teams.contains t.1
      cores := s.cores.map fun (c : Nat × Core) => (c.1, { c.2 with
        tiles := c.2.tiles.filter fun x => !(keys ++ away).contains x.2.squad
        faults := c.2.faults.filter fun x => !away.contains x.2.squad }) }
    let s := cores.foldl (fun s c => s.shrinkRegion c) s
    let s := s.releaseSave g
    { s with gangs := s.gangs.erase gk }

/-- A launch ends with a status: every write that happens before its end is performed at the home, its gangs are stopped, ENDST is
written, then the wake word (R230, R281). -/
def State.endLaunch (s : State) (lk status : Nat) : State :=
  match s.launches.get? lk with
  | none => s
  | some l =>
    if l.ended.isSome then s
    else
      let gs := (s.gangs.filter fun g => g.2.launch == lk).map (·.1)
      let s := gs.foldl (fun s g => s.removeGang g) (s.publish 0 5)
      let s := match s.launches.get? lk with
        | some l => (s.releaseLaunchPlace l).setLaunch lk { l with ended := some status, claimed := [], place := none }
        | none => s
      let s := (s.devWrite l.context (l.block.toNat + 116) (leBytes (status + 256) 4)).1
      s.wake l status

/-- Add to a 64-bit word of a context's memory, atomically at package scope, after every write of it that stands dirty in an L1
(R295); the old value. -/
def State.devAdd (s : State) (ctx va n : Nat) : State × Option Nat :=
  match (s.devRecall ctx va 8).devWord ctx va with
  | (s, none) => (s, none)
  | (s, some v) => match s.devWrite ctx va (leBytes ((v + n) % 2 ^ 64) 8) with
    | (s, true) => (s, some v)
    | (s, false) => (s, none)

/-- A gang ends: its bit of BITMAP, then DONE, with a release at package scope; the last one ends the launch (R229, R230, R281). -/
def State.endGang (s : State) (gk : Nat) : State :=
  match s.gangs.get? gk with
  | none => s
  | some g =>
    match s.launches.get? g.launch with
    | none => s.removeGang gk
    | some l =>
      let s := (s.publish 0 4).removeGang gk
      let s := s.setLaunch g.launch { (s.launches.getD g.launch l) with gone := g.cluster / 20 :: l.gone }
      let a := l.bitmap.toNat + g.index / 64 * 8
      let s := match (s.devRecall l.context a 8).devWord l.context a with
        | (s, none) => s
        | (s, some v) => (s.devWrite l.context a (leBytes (v ||| 2 ^ (g.index % 64)) 8)).1
      match s.devAdd l.context (l.block.toNat + 248) 1 with
      | (s, none) => s
      | (s, some done) => if done + 1 = l.gangCount then s.endLaunch g.launch 0 else s

/-- A team ends when all its squads have ended: it returns their slots, registers and tiles with its scratchpad and its stack; the
last team of a gang ends the gang (R20, R55). -/
def State.endTeam (s : State) (tk : Nat) : State :=
  let mine := s.squads.filter fun e => e.2.team == tk
  match s.teams.get? tk with
  | none => s
  | some t =>
    if mine.any fun e => !e.2.settled then s
    else
      let s := (mine.foldl (fun s e => s.removeSquad e.1) s).flushL1 t.core
      let s := { s with teams := s.teams.erase tk }.shrinkRegion t.core
      if s.teams.any fun x => x.2.gang == t.gang then s else s.endGang t.gang

/-- A squad has ended: what it left is performed, it leaves its barriers, and it keeps its slot, its registers and its tiles until
its team ends (R55, R308). While an access of it waits, it tries again at the next choice of its quarter. -/
def State.endSquad (s : State) (k : Nat) : State :=
  match s.squads.get? k with
  | none => s
  | some q =>
    let s := s.quitWork k
    if s.unperformed k none then s else (s.leaveBarriers q).endTeam q.team

/-! ## Lanes and splits (R57, R86, R96) -/

/-- A split of a squad ends: its slot frees, bench entries fill it, and a handler that ran in it is over (R57, R96). -/
def State.endSplit (s : State) (k sp : Nat) : State :=
  match s.squads.get? k with
  | none => s
  | some q =>
    let tokens := ((q.split? sp).map Split.tokenSum).getD 0
    let s := (s.dropRequests q.core k sp).giveTokens q.core tokens
    let q' := (q.dropSplit sp).fillSlots
    let q' := if q.active ∧ q.handler = some sp then { q' with active := false, handler := none } else q'
    let s := s.setSquad k q'
    if q'.ended then s.endSquad k else s

/-- The issuing split keeps only some lanes and goes on at a position; without lanes it ends (R86). -/
def State.keepLanes (s : State) (u : Issuer) (keep : Mask) (pos : DWord) : State :=
  if keep = 0 then s.endSplit u.key u.split.id
  else (s.endClause u pos).onSplit u.key u.split.id fun p => { p with mask := keep }

/-- EXIT (R86). -/
def State.exitWord (s : State) (u : Issuer) : Result :=
  let s := (s.countWords u 1).endTurn u.squad
  .takes .ended (s.keepLanes u (u.split.mask &&& ~~~u.lanes) u.split.nextClause)

/-- Take the oldest pending trap in a split that stands at a position (R97). -/
def State.takePending (s : State) (k sp : Nat) (pos : DWord) : State :=
  match s.squads.get? k with
  | none => s
  | some q =>
    match q.pending with
    | [] => s
    | p :: ps => (s.setSquad k { q with pending := ps }).takeTrap k sp p.cause p.value pos

/-- TRET (R96). -/
def State.trapReturn (s : State) (u : Issuer) (w : Instr) : Result :=
  let q := u.squad
  if q.active = false then illop w s
  else
    let m : Mask := (q.tmask.setWidth 32) &&& ((q.tmask >>> 32).setWidth 32) &&& u.split.mask
    let s := (s.countWords u 1).endTurn u.squad
    let s := s.onSquad u.key fun q => { q with active := false, handler := none }
    let s := s.keepLanes u m q.tpc
    .takes .ended (if m = 0 then s else s.takePending u.key u.split.id q.tpc)

end Sys2Proof.Machine
end

