-- ==== Sys2Proof/Machine/Moves.lean ====
section
/-! DEFINITION. Moves, indexed access, release, remote deposit and its wait (R206 to R212). -/

namespace Sys2Proof.Machine

/-- A squad's pops, taken by the word that read them (R80). -/
def Issuer.popped (u : Issuer) (pops : List Nat) : Issuer := { u with squad := u.squad.popAll pops }

/-- The computed name of an indexed word (R207). -/
def indexed (base : BitVec 5) (v : DWord) : Int := (base.toNat : Int) + v.toInt

/-- REGIDX, unless the computed name (and its odd partner, for a pair) is a name of the squad (R207). -/
def State.indexGate (s : State) (q : Squad) (x : Int) : Option Stop :=
  let wide := isWide q.et
  let p := s.regCount q
  if x < 0 ∨ (p : Int) ≤ x ∨ (wide ∧ (x % 2 = 1 ∨ (p : Int) ≤ x + 1)) then some (.trap .regidx (BitVec.ofInt 64 x))
  else none

/-- A port that cannot be read stops a word (R80); an illegal name that the word gives plainly comes before that trap (R413). -/
def nameFirst (p : Nat) (names : List Nat) (e : Stop) : Stop :=
  match e.isTrap, badName p names with
  | true, some n => .trap .regname (BitVec.ofNat 64 n)
  | _, _ => e

/-- VMOVX (R206, R207). An odd destination of a pair comes first; the lower of an illegal destination and an illegal computed name is
reported (R413). -/
def State.moveIndexed (s : State) (u : Issuer) (w : Instr) (d : BitVec 5) (a : VSrc) (b : BitVec 5) : Result :=
  let q := u.squad
  let wide := isWide q.et
  let ds := if wide then [d.toNat, d.toNat + 1] else [d.toNat]
  if wide ∧ d.toNat % 2 = 1 then illop w s
  else
  match a, q.readSlot b.toNat [] with
  | .vec r lr pat, .ok (v, pops) =>
      let x := indexed r v
      let named := match badName (s.regCount q) ds with
        | some n => if (n : Int) ≤ x ∨ (s.indexGate q x).isNone then some (Stop.trap .regname (BitVec.ofNat 64 n)) else none
        | none => none
      match named, s.indexGate q x with
      | some e, _ => .stops e s
      | none, some e => .stops e s
      | none, none =>
        let o := q.operand false (.vec (BitVec.ofNat 5 x.toNat) lr pat)
        s.laneWord (u.popped pops) o.names o.rels d.toNat wide false u.lanes fun i => ⟨o.src.lo i, o.src.hi i, 0⟩
  | _, .error e => .stops (nameFirst (s.regCount q) ds e) s
  | _, _ => illop w s

/-- VMOVXW (R206, R207). -/
def State.moveIndexedTo (s : State) (u : Issuer) (w : Instr) (d a : BitVec 5) (b : VSrc) : Result :=
  let q := u.squad
  let o := q.operand true b
  if o.odd then illop w s
  else
    match q.readSlot a.toNat [] with
    | .error e => .stops (nameFirst (s.regCount q) o.names e) s
    | .ok (v, pops) =>
      let x := indexed d v
      let named := match badName (s.regCount q) o.names with
        | some n => if (n : Int) ≤ x ∨ (s.indexGate q x).isNone then some (Stop.trap .regname (BitVec.ofNat 64 n)) else none
        | none => none
      match named, s.indexGate q x with
      | some e, _ => .stops e s
      | none, some e => .stops e s
      | none, none =>
        s.laneWord (u.popped pops) o.names o.rels x.toNat (isWide q.et) false u.lanes fun i => ⟨o.src.lo i, o.src.hi i, 0⟩

/-- VMOV (R206). -/
def State.moveWord (s : State) (u : Issuer) (w : Instr) (d : BitVec 5) (b : VSrc) : Result :=
  let q := u.squad
  let o := q.operand true b
  if o.odd ∨ (isWide q.et ∧ d.toNat % 2 = 1) then illop w s
  else s.laneWord u o.names o.rels d.toNat (isWide q.et) false u.lanes fun i => ⟨o.src.lo i, o.src.hi i, 0⟩

/-- VFREE (R208). -/
def State.freeWord (s : State) (u : Issuer) (b : SSrc) : Result :=
  let q := u.squad
  match q.readB b [] with
  | .error e => .stops e s
  | .ok (v, pops) =>
    let m : Mask := v.setWidth 32
    match badName (s.regCount q) (lanesIn m) with
    | some n => .stops (.trap .regname (BitVec.ofNat 64 n)) s
    | none =>
      if q.awaited &&& m ≠ 0 then .stops (.wait (.names (q.awaited &&& m))) s
      else .takes .next (s.setSquad u.key ((lanesIn m).foldl Squad.release (q.popAll pops)))

/-- The bits of a deposit's target that must be 0 (R210). -/
def targetReserved : DWord := 0xFFFFFFFFFFFFE0F8#64

/-- The checks of RDEP before that of its encoding: the target, then the names (R210). -/
def State.depositGate (s : State) (q : Squad) (n : BitVec 5) (a : VSrc) (v : DWord) : Option Stop :=
  let teams := ((s.launchOf q).map (·.teams)).getD 0
  let squads := ((s.launchOf q).map (·.squads)).getD 0
  if v &&& targetReserved ≠ 0 ∨ teams ≤ bits v 2 0 ∨ squads ≤ bits v 12 8 then some (.trap .place v)
  else if s.regCount q ≤ n.toNat then some (.trap .regname (BitVec.ofNat 64 (2 ^ 63 + n.toNat)))
  else (badName (s.regCount q) (a.names false)).map fun x => .trap .regname (BitVec.ofNat 64 x)

/-- A slot with a reserved register number gives no value: ILLOP. -/
def illopSlot (w : Instr) : Except Stop (DWord × List Nat) := .error (.trap .illop ((encodeWord w).setWidth 64))

/-- RDEP with a field that must be 0 set: the target and the names are checked first (R210, R413). -/
def State.depositIllop (s : State) (u : Issuer) (w : Instr) (n : BitVec 5) (a : VSrc) (b : SSrc) : Result :=
  let v := match b with
    | .bad c => if c.toNat / 16 ≤ 30 then u.squad.readSlot (c.toNat / 16) [] else illopSlot w
    | b => u.squad.readB b []
  match v with
  | .error e => .stops e s
  | .ok (v, _) => match s.depositGate u.squad n a v with
    | some e => .stops e s
    | none => illop w s

/-- RDEP (R210): its checks in their own order (log 110), then the outstanding deposit with its data. -/
def State.depositWord (s : State) (u : Issuer) (w : Instr) (n : BitVec 5) (a : VSrc) (b : SSrc) : Result :=
  let q := u.squad
  match q.readB b [] with
  | .error e => .stops e s
  | .ok (v, pops) =>
    let team := bits v 2 0
    let sq := bits v 12 8
    match s.depositGate q n a v with
    | some e => .stops e s
    | none =>
      let x := q.src 5 false a
      s.memoryWord u {
        op := { id := 0, instr := w, pos := 0, kind := .deposit n team sq u.lanes (lanesOf x.lo), flag := none,
                path := some 3, loadClass := false, scope := 2
                lanes := [{ lane := 0, va := v, place := .scratch 0 }] }
        names := a.names false
        rels := a.released false
        held := a.names false
        pops } (fun _ => none) false

/-- WAITA (R212). -/
def State.arrivalWord (s : State) (u : Issuer) (a : BitVec 5) : Result :=
  let q := u.squad
  match q.readSlot a.toNat [] with
  | .error e => .stops e s
  | .ok (v, pops) =>
    if q.arrv.toNat < v.toNat then .stops (.wait (.arrival a.toNat)) s
    else .takes .next (s.setSquad u.key (q.popAll pops))

/-- VMOV (R206). -/
def execVmov (d : BitVec 5) (b : VSrc) (s : State) : Host.Outcome State Fault Refusal :=
  issue (.vmov d b) s fun u => s.moveWord u (.vmov d b) d b

/-- VMOVX (R207). -/
def execVmovx (d : BitVec 5) (a : VSrc) (b : BitVec 5) (s : State) : Host.Outcome State Fault Refusal :=
  issue (.vmovx d a b) s fun u => s.moveIndexed u (.vmovx d a b) d a b

/-- VMOVXW (R207). -/
def execVmovxw (d : BitVec 5) (a : BitVec 5) (b : VSrc) (s : State) : Host.Outcome State Fault Refusal :=
  issue (.vmovxw d a b) s fun u => s.moveIndexedTo u (.vmovxw d a b) d a b

/-- VFREE (R208). -/
def execVfree (b : SSrc) (s : State) : Host.Outcome State Fault Refusal :=
  issue (.vfree b) s fun u => s.freeWord u b

/-- RDEP (R210). -/
def execRdep (n : BitVec 5) (a : VSrc) (b : SSrc) (s : State) : Host.Outcome State Fault Refusal :=
  if (Instr.rdep n a b).wf then issue (.rdep n a b) s fun u => s.depositWord u (.rdep n a b) n a b
  else
    match s.issuer with
    | none => .next s
    | some u => .next (State.conclude u (wordsOf (.rdep n a b)) (s.depositIllop u (.rdep n a b) n a b))

/-- WAITA (R212). -/
def execWaita (a : BitVec 5) (s : State) : Host.Outcome State Fault Refusal :=
  issue (.waita a) s fun u => s.arrivalWord u a

end Sys2Proof.Machine
end

