-- ==== Sys2Proof/Machine/Control.lean ====
section
/-! DEFINITION. Control transfers, division of a split, waits, traps and service calls (R56, R81 to R87, R92, R93), and
the words with an unassigned OP (R41). -/

namespace Sys2Proof.Machine

/-! ## Branches (R36, R81) -/

/-- The target of a form-BR word: the header `o` words from the header of its clause (R36). -/
def Split.target (p : Split) (o : BitVec 18) : DWord :=
  position ((BitVec.ofNat 48 (headerOf p.pos) + (o.signExtend 48) * 4#48).toNat) 0

/-- The whole split moves to a position (R82, R83). -/
def State.branchTo (s : State) (u : Issuer) (pos : DWord) : Result := .takes .placed (s.endClause u pos)

/-- The whole split moves to the target, or to the next clause. -/
def State.branchIf (s : State) (u : Issuer) (taken : Bool) (o : BitVec 18) : Result :=
  s.branchTo u (if taken then u.split.target o else u.split.nextClause)

/-- Where the taken lanes of a division go (R56): a split not begun at the target, a bench entry of the target, a new
split placed last, a new bench entry placed last; none when there is no room. -/
def Squad.divide (q : Squad) (self : Nat) (target : DWord) (taken : Mask) : Option Squad :=
  match q.splits.find? fun p => p.id != self && p.pos == target && !p.begun with
  | some p => some (q.setSplit { p with mask := p.mask ||| taken })
  | none =>
    if q.bench.any fun b => b.pos == target then
      some { q with bench := q.bench.map fun b => if b.pos == target then { b with mask := b.mask ||| taken } else b }
    else if q.splits.length < 4 then
      some { q with splits := q.splits ++ [{ id := q.freeSlot, pos := target, mask := taken }] }
    else if q.bench.length < 8 then some { q with bench := q.bench ++ [⟨target, taken⟩] }
    else none

/-- BRL (R56, R83): the split moves as a whole, or is divided; DIVERGE with no room, and for a handler, which is never
divided (R96). -/
def State.branchLanes (s : State) (u : Issuer) (ne : Bool) (p : BitVec 3) (o : BitVec 18) : Result :=
  let x := u.squad.pred p.toNat
  let taken := u.lanes &&& (if ne then x else ~~~x)
  let rest := u.split.mask &&& ~~~taken
  if taken = 0 then s.branchIf u false o
  else if rest = 0 then s.branchIf u true o
  else if u.squad.active then .stops (.trap .diverge u.split.pos) s
  else
    match u.squad.divide u.split.id (u.split.target o) taken with
    | none => .stops (.trap .diverge u.split.pos) s
    | some q =>
      let s := s.setSquad u.key (q.setSplit { u.split with mask := rest })
      .takes .placed (s.endClause { u with split := { u.split with mask := rest } } u.split.nextClause)

/-! ## Waits, traps, service calls -/

/-- A word that waits for a condition, and has no other effect (R87). -/
def holdUnless (free : Bool) (w : Wait) (s : State) : Result := if free then .takes .next s else .stops (.wait w) s

/-- Outstanding service calls of a squad (R93). -/
def Squad.services (q : Squad) : Nat := (q.ops.filter fun o => !o.finished && match o.kind with
  | .svc .. => true
  | _ => false).length

/-- The 32 bytes of a service record (R93). -/
def State.serviceRecord (s : State) (u : Issuer) (code : BitVec 9) (arg : DWord) : List Byte :=
  let q := u.squad
  let t := s.teamOf q
  let g := s.gangOf q
  leBytes (((s.launchOf q).map (·.id)).getD 0) 8 ++
  leBytes ((g.map (·.index)).getD 0 % 2 ^ 32 + (t.map (·.index)).getD 0 % 8 * 2 ^ 32 + q.sq % 32 * 2 ^ 35 +
    code.toNat * 2 ^ 40) 8 ++
  leBytes arg.toNat 8 ++ leBytes u.split.pos.toNat 8

/-- The index that the next record of a device-produced ring takes: those that wait come first (R401). -/
def State.nextIndex (s : State) (r : Ring) : Nat :=
  (bits (s.reg (r.off + 8)) 31 16 + (s.waiting.filter fun w => w.queue == r.off).length) % 65536

/-- SVC (R93). -/
def State.serviceCall (s : State) (u : Issuer) (w : Instr) (d a : BitVec 5) (c : BitVec 9) : Result :=
  let q := u.squad
  if 4 ≤ q.services then .stops (.wait .svc) s
  else
    let ctx := s.contextOf q
    let r := s.ring2 (contextVf ctx) (contextIface ctx) 0x240
    let idx := s.nextIndex r
    let op : Op := { id := 0, instr := w, pos := u.split.pos, kind := .svc d idx (q.sreg a.toNat) none, flag := none, path := none, loadClass := false }
    let bytes := s.serviceRecord u c (q.sreg a.toNat)
    let id := s.nextId
    let s := (s.launchOp u q { op } []).postRecord r bytes
    .takes .next { s with services := s.services ++ [(contextVf ctx * 64 + contextIface ctx, idx, u.key, id)] }

/-- BRA (R81). -/
def execBra (o : BitVec 18) (s : State) : Host.Outcome State Fault Refusal :=
  issue (.bra o) s fun u => s.branchIf u true o

/-- BRS (R81). -/
def execBrs (sc : BitVec 5) (o : BitVec 18) (s : State) : Host.Outcome State Fault Refusal :=
  issue (.brs sc o) s fun u => s.branchIf u (u.squad.sreg sc.toNat != 0) o

/-- BRP (R82). -/
def execBrp (m : BitVec 2) (p : BitVec 3) (o : BitVec 18) (s : State) : Host.Outcome State Fault Refusal :=
  issue (.brp m p o) s fun u => s.branchIf u (voteOf m u.lanes (u.squad.pred p.toNat)) o

/-- BRL (R56). -/
def execBrl (m : BitVec 1) (p : BitVec 3) (o : BitVec 18) (s : State) : Host.Outcome State Fault Refusal :=
  issue (.brl m p o) s fun u => s.branchLanes u (m == 0#1) p o

/-- CALL (R84). -/
def execCall (l : BitVec 5) (o : BitVec 18) (s : State) : Host.Outcome State Fault Refusal :=
  issue (.call l o) s fun u => (s.onSquad u.key fun q => q.setSreg l.toNat u.split.nextClause).branchIf u true o

/-- RET (R85). -/
def execRet (a : BitVec 5) (s : State) : Host.Outcome State Fault Refusal :=
  issue (.ret a) s fun u => 
    let x := u.squad.sreg a.toNat
    if x.toNat / 2 ^ 48 ≠ 0 ∨ x.toNat % 4 ≠ 0 then illop (.ret a) s else s.branchTo u x

/-- JMPI (R85). -/
def execJmpi (a : BitVec 5) (s : State) : Host.Outcome State Fault Refusal :=
  issue (.jmpi a) s fun u => 
    let x := u.squad.sreg a.toNat
    if x.toNat % 4 ≠ 0 then .stops (.trap .align x) s else s.branchTo u (position (x.toNat % 2 ^ 48) 0)

/-- EXIT (R86). -/
def execExit (s : State) : Host.Outcome State Fault Refusal :=
  issue (.exit) s fun u => s.exitWord u

/-- YIELD (R87). -/
def execYield (s : State) : Host.Outcome State Fault Refusal :=
  issue (.yield) s fun _ => .takes .yields s

/-- NOP (R87). -/
def execNop (x : BitVec 23) (s : State) : Host.Outcome State Fault Refusal :=
  issue (.nop x) s fun _ => .takes .next s

/-- WAITF (R87). -/
def execWaitf (m : BitVec 12) (s : State) : Host.Outcome State Fault Refusal :=
  issue (.waitf m) s fun u => holdUnless (u.squad.busy &&& m == 0) (.flags m) s

/-- WAITC (R87). -/
def execWaitc (p : BitVec 3) (a : BitVec 5) (s : State) : Host.Outcome State Fault Refusal :=
  issue (.waitc p a) s fun u => 
    holdUnless (decide (u.squad.path p.toNat ≤ (u.squad.sreg a.toNat).toNat)) (.counter p.toNat a.toNat) s

/-- TRAP (R92). -/
def execTrap (c : BitVec 16) (s : State) : Host.Outcome State Fault Refusal :=
  issue (.trap c) s fun _ => .takes (.traps .soft (c.setWidth 64)) s

/-- BRK (R92). -/
def execBrk (c : BitVec 16) (s : State) : Host.Outcome State Fault Refusal :=
  issue (.brk c) s fun _ => .stops (.trap .brk (c.setWidth 64)) s

/-- TRET (R96). -/
def execTret (s : State) : Host.Outcome State Fault Refusal :=
  issue (.tret) s fun u => s.trapReturn u .tret

/-- SVC (R93). -/
def execSvc (d : BitVec 5) (a : BitVec 5) (c : BitVec 9) (s : State) : Host.Outcome State Fault Refusal :=
  issue (.svc d a c) s fun u => s.serviceCall u (.svc d a c) d a c

/-- UNASSIGNED_OPCODE (R41): ILLOP, whose value is the word. -/
def execUnassignedOpcode (w : Word) (s : State) : Host.Outcome State Fault Refusal :=
  match s.issuer with
  | none => .next s
  | some u => .next (s.trapAt u .illop (w.setWidth 64))

end Sys2Proof.Machine
end

