-- ==== Sys2Proof/Machine/Clause.lean ====
section
/-! DEFINITION. From clause to word: fetching and checking a clause (R22 to R29), readiness (R63), convergence (R58),
token requests (R260), the choice of a quarter (R65), and the word that a chosen split issues. -/

namespace Sys2Proof

/-- The vector source slots of a word. -/
def Instr.slots : Instr → List VSrc
  | .vadd _ x1 x2 => [x1, x2]
  | .vsub _ x1 x2 => [x1, x2]
  | .vmul _ x1 x2 => [x1, x2]
  | .vmulh _ x1 x2 => [x1, x2]
  | .vmad _ x1 x2 => [x1, x2]
  | .vmsb _ x1 x2 => [x1, x2]
  | .vnmad _ x1 x2 => [x1, x2]
  | .vmin _ x1 x2 => [x1, x2]
  | .vmax _ x1 x2 => [x1, x2]
  | .vabs _ x1 => [x1]
  | .vneg _ x1 => [x1]
  | .vand _ x1 x2 => [x1, x2]
  | .vor _ x1 x2 => [x1, x2]
  | .vxor _ x1 x2 => [x1, x2]
  | .vnot _ x1 => [x1]
  | .vshl _ x1 x2 => [x1, x2]
  | .vshr _ x1 x2 => [x1, x2]
  | .vrol _ x1 x2 => [x1, x2]
  | .vclz _ x1 => [x1]
  | .vpopc _ x1 => [x1]
  | .vbrev _ x1 => [x1]
  | .vsel _ x1 x2 => [x1, x2]
  | .vceq _ _ x2 x3 => [x2, x3]
  | .vcne _ _ x2 x3 => [x2, x3]
  | .vclt _ _ x2 x3 => [x2, x3]
  | .vcle _ _ x2 x3 => [x2, x3]
  | .vcgt _ _ x2 x3 => [x2, x3]
  | .vcge _ _ x2 x3 => [x2, x3]
  | .vcun _ _ x2 x3 => [x2, x3]
  | .vaddI _ x1 _ => [x1]
  | .vsubI _ x1 _ => [x1]
  | .vmulI _ x1 _ => [x1]
  | .vmulhI _ x1 _ => [x1]
  | .vmadI _ x1 _ => [x1]
  | .vmsbI _ x1 _ => [x1]
  | .vnmadI _ x1 _ => [x1]
  | .vminI _ x1 _ => [x1]
  | .vmaxI _ x1 _ => [x1]
  | .vandI _ x1 _ => [x1]
  | .vorI _ x1 _ => [x1]
  | .vxorI _ x1 _ => [x1]
  | .vshlI _ x1 _ => [x1]
  | .vshrI _ x1 _ => [x1]
  | .vrolI _ x1 _ => [x1]
  | .vceqI _ _ x2 _ => [x2]
  | .vcneI _ _ x2 _ => [x2]
  | .vcltI _ _ x2 _ => [x2]
  | .vcleI _ _ x2 _ => [x2]
  | .vcgtI _ _ x2 _ => [x2]
  | .vcgeI _ _ x2 _ => [x2]
  | .vcvt _ x1 _ _ => [x1]
  | .vrnd _ x1 => [x1]
  | .vscl _ x1 x2 => [x1, x2]
  | .vrcp _ x1 => [x1]
  | .vrsq _ x1 => [x1]
  | .vsqrt _ x1 => [x1]
  | .vexp2 _ x1 => [x1]
  | .vlog2 _ x1 => [x1]
  | .vsin _ x1 => [x1]
  | .vcos _ x1 => [x1]
  | .vtanh _ x1 => [x1]
  | .vdiv _ x1 x2 => [x1, x2]
  | .vshf _ x1 x2 => [x1, x2]
  | .vrdc _ x1 _ => [x1]
  | .vscn _ x1 _ _ => [x1]
  | .rwalk _ x1 x2 => [x1, x2]
  | .rnext _ _ x2 x3 => [x2, x3]
  | .vsred _ x1 _ _ => [x1]
  | .vmov _ x1 => [x1]
  | .vmovx _ x1 _ => [x1]
  | .vmovxw _ _ x2 => [x2]
  | .rdep _ x1 _ => [x1]
  | .tidset _ _ _ x3 => [x3]
  | .tidget _ _ _ x3 => [x3]
  | .accwr _ _ x2 => [x2]
  | .vldB _ _ _ x3 => [x3]
  | .vldH _ _ _ x3 => [x3]
  | .vldW _ _ _ x3 => [x3]
  | .vldD _ _ _ x3 => [x3]
  | .vldQ _ _ _ x3 => [x3]
  | .vstB _ _ _ x3 => [x3]
  | .vstH _ _ _ x3 => [x3]
  | .vstW _ _ _ x3 => [x3]
  | .vstD _ _ _ x3 => [x3]
  | .vstQ _ _ _ x3 => [x3]
  | .sldB _ _ _ x3 => [x3]
  | .sldH _ _ _ x3 => [x3]
  | .sldW _ _ _ x3 => [x3]
  | .sldD _ _ _ x3 => [x3]
  | .sstB _ _ _ x3 => [x3]
  | .sstH _ _ _ x3 => [x3]
  | .sstW _ _ _ x3 => [x3]
  | .sstD _ _ _ x3 => [x3]
  | .spldB _ _ _ x3 => [x3]
  | .spldH _ _ _ x3 => [x3]
  | .spldW _ _ _ x3 => [x3]
  | .spldD _ _ _ x3 => [x3]
  | .spstB _ _ _ x3 => [x3]
  | .spstH _ _ _ x3 => [x3]
  | .spstW _ _ _ x3 => [x3]
  | .spstD _ _ _ x3 => [x3]
  | .vldb _ _ _ x3 => [x3]
  | .vstb _ _ _ x3 => [x3]
  | .spldb _ _ _ x3 => [x3]
  | .spstb _ _ _ x3 => [x3]
  | .rsld _ _ _ x3 => [x3]
  | .rsst _ _ _ x3 => [x3]
  | .pld _ _ x2 => [x2]
  | .pldc _ _ _ x3 => [x3]
  | .claim _ _ _ x3 => [x3]
  | .cwb _ _ x2 => [x2]
  | .cinv _ _ x2 => [x2]
  | .xq _ _ _ x3 => [x3]
  | .vldaW _ _ _ x3 => [x3]
  | .vldaD _ _ _ x3 => [x3]
  | .vstrW _ _ _ x3 => [x3]
  | .vstrD _ _ _ x3 => [x3]
  | _ => []

/-- The first vector name of the registers that a word reads through a field, whatever the element type, and how many. -/
def Instr.data : Instr → BitVec 5 × Nat
  | .mma _ _ _ t r _ => (t, if r = 1#1 then 16 else 0)
  | .mmaz _ _ _ t r _ => (t, if r = 1#1 then 16 else 0)
  | .mmaw _ _ _ t r _ => (t, if r = 1#1 then 32 else 0)
  | .acas d _ _ _ z => (d, 2 * 2 ^ z.toNat)
  | .vstB d _ _ _ => (d, 1)
  | .vstH d _ _ _ => (d, 1)
  | .vstW d _ _ _ => (d, 1)
  | .vstD d _ _ _ => (d, 2)
  | .vstQ d _ _ _ => (d, 4)
  | .spstB d _ _ _ => (d, 1)
  | .spstH d _ _ _ => (d, 1)
  | .spstW d _ _ _ => (d, 1)
  | .spstD d _ _ _ => (d, 2)
  | .vstb d _ _ _ => (d, 1)
  | .spstb d _ _ _ => (d, 1)
  | .rsst d _ _ _ => (d, 1)
  | .vstrW d _ _ _ => (d, 1)
  | .vstrD d _ _ _ => (d, 2)
  | _ => (0, 0)

/-- The vector names that a word reads, besides its slots and its data, as registers or pairs by the element type: the addend of
VMAD, the operand and the offset of an atomic (R128, R299). -/
def Instr.paired : Instr → List (BitVec 5)
  | .vmad d _ _ => [d]
  | .vmsb d _ _ => [d]
  | .vnmad d _ _ => [d]
  | .vmadI d _ _ => [d]
  | .vmsbI d _ _ => [d]
  | .vnmadI d _ _ => [d]
  | .atom d _ _ o _ => [d, o]
  | .ared d _ _ o _ => [d, o]
  | _ => []

end Sys2Proof

namespace Sys2Proof.Machine

/-! ## The words of a clause -/

/-- The words of a clause from index `i` on, in order, literal words skipped: index, word and instruction. -/
def itemsFrom : Nat → List Word → Nat → List (Nat × Word × Instr)
  | 0, _, _ => []
  | fuel + 1, ws, i =>
    match ws with
    | [] => []
    | w :: _ =>
      let x := match decode ws with
        | .ok (x, _) => x
        | .error _ => .unassignedOpcode w
      let n := if literalTaking w then 2 else 1
      (i, w, x) :: itemsFrom fuel (ws.drop n) (i + n)

/-- The words that a split at index `i` still has to issue; a literal is never one of them (R33). -/
def Clause.items (c : Clause) (i : Nat) : List (Nat × Word × Instr) :=
  (itemsFrom 8 c.words 0).filter fun x => decide (i ≤ x.1)

/-- Control transfers (R25). -/
def transfers (w : Word) : Bool :=
  let op := (opOf w).toNat
  (decide (0x40 ≤ op) && decide (op ≤ 0x47)) || decide (op = 0x4E)

/-- The check of R25: none, or the index of the offending body word (none for a header fault) and the word. -/
def Clause.bad (c : Clause) : Option (Option Nat × Word) :=
  let h := c.header
  let flagBad := fun (f : Nat) => decide (12 ≤ f) && decide (f ≤ 14)
  if fld h 27 5 ≠ 0x1F#5 ∨ fld h 0 2 ≠ 0#2 ∨ flagBad (fld h 8 4).toNat ∨ flagBad (fld h 4 4).toNat then some (none, h)
  else
    let last := c.words.length - 1
    ((c.items 0).find? fun x =>
      decide (0x1F0 ≤ (opOf x.2.1).toNat) || (literalTaking x.2.1 && decide (x.1 = last)) ||
      (transfers x.2.1 && decide (x.1 ≠ last))).map fun x => (some x.1, x.2.1)

/-! ## Fetching (R25, R27, R177) -/

/-- What fetching a clause gives. -/
inductive Fetched where
  | clause (c : Clause)
  | walk (va : Nat)
  | fault (va : Nat) (f : WalkFault)

/-- Fetch words from an address up, as they stand at their homes (R27). Of a word that the running launch has stored to, this is the
model's choice among the old value and the new (log 9). -/
def State.fetchWords (s : State) (u : Issuer) : Nat → Nat → List Word → Fetched
  | 0, _, ws => .clause ⟨ws.headD 0, ws.drop 1⟩
  | n + 1, a, ws =>
    match s.translate u a .fetch with
    | .place (.memory x) => s.fetchWords u n ((a + 4) % 2 ^ 48) (ws ++ [BitVec.ofNat 32 (leNat (s.homeLoad x 4))])
    | .fault f => .fault a f
    | _ => .walk a

/-- Fetch the header at a position, then the body words that it counts; a word that is no header ends the fetch. -/
def State.fetchClause (s : State) (u : Issuer) : Fetched :=
  let a := headerOf u.split.pos
  match s.fetchWords u 1 a [] with
  | .clause c => if fld c.header 27 5 = 0x1F#5 then s.fetchWords u ((fld c.header 24 3).toNat + 2) a [] else .clause c
  | r => r

/-! ## Waits (R63) -/

/-- The tiles bound to accumulator names. -/
def Squad.tilesOf (q : Squad) (n : BitVec 8) : List Nat :=
  ((List.range 8).filter fun i => has n i).filterMap fun i => at' q.accs i none

/-- Whether a wait of a split still holds. -/
def State.waits (s : State) (k : Nat) (q : Squad) (sp : Nat) : Wait → Bool
  | .names n => q.awaited &&& n != 0
  | .flags m => q.busy &&& m != 0
  | .counter p r => decide ((q.sreg r).toNat < q.path p)
  | .full p => decide (63 ≤ q.path p)
  | .pool names => !s.canTake q (q.newFor names)
  | .tile subs => match s.freshSlots k q subs with
    | .ok _ => false
    | .error _ => true
  | .stage sub => decide (2 ≤ ((s.core q.core).subs.getD sub []).length)
  | .tileWords n => q.ops.any fun o => !o.finished && o.kind.tiles.any (q.tilesOf n).contains
  | .firstUse => (s.ownerGate q).isSome
  | .walk _ => (s.die (dieOf q.core)).walks.any fun w => w.squad == k && w.split == sp
  | .faultBuffer => (s.core q.core).freeFault.isNone
  | .record p n => match ((at' q.commands p []).drop (n - 1)).head? with
    | some c => c.record.isNone
    | none => false
  | .command p => decide (16 ≤ (at' q.commands p []).length)
  | .tensor t => q.tensorBusy t
  | .arrival a => match q.readSlot a [] with
    | .ok (v, _) => decide (q.arrv.toNat < v.toNat)
    | .error _ => false
  | .allowance n => match s.teamOf q with
    | some t => (at' t.queues n {}).allowance q.sq == 0
    | none => true
  | .handle n => match s.teamOf q with
    | some t =>
      let x := at' t.queues n {}
      !(decide (0 < x.count) && (x.waiting.isEmpty || x.waiting.head? == some (k, sp)))
    | none => true
  | .barrier c n t => (s.barrier q c n).phase == t
  | .svc => decide (4 ≤ q.services)
  | .releaseLog => decide (64 ≤ (s.core q.core).log.length)
  | .memory => q.ops.any fun o => !o.finished && o.kind.forced && s.heldOp o
  | .topUp => (at' (s.cluster (clusterOf q.core)).queues (q.core % 8) []).any fun r => r.split == some (k, sp)
  | .parked => q.parked.isSome

/-- The waits during which another split may pass a convergence header (R58): barrier, pass queue, path counter,
arrival counter, engine pop. -/
def Wait.apart : Wait → Bool
  | .barrier .. => true
  | .allowance _ => true
  | .handle _ => true
  | .counter .. => true
  | .arrival _ => true
  | .record .. => true
  | .names _ | .flags _ | .full _ | .pool _ | .tile _ | .stage _ | .tileWords _ | .firstUse | .walk _ | .faultBuffer
  | .command _ | .tensor _ | .svc | .releaseLog | .memory | .topUp | .parked => false

/-- The waits for registers or tiles: what the pool then holds for the word stays its own until it takes it (R202, R205). -/
def Wait.claims : Wait → Bool
  | .pool _ => true
  | .tile _ => true
  | _ => false

/-- Whether a squad may issue at all (R63): not halted, not escalated, not parked, its replay packets issued (R335), its resumed
matrix records captured for (R269; log 59). -/
def Squad.runs (q : Squad) : Bool :=
  !q.halted && q.escalation.isNone && q.parked.isNone && q.captured.isNone && q.ops.all fun o => !o.translate && !o.asks

/-- Whether a split of a squad may issue: with a handler running, the handler's split alone (R63, R95). -/
def Squad.mayIssue (q : Squad) (sp : Nat) : Bool := q.runs && (!q.active || q.handler == some sp)

/-- Whether the vector slots of a word hold 32-bit values whatever the element type: the offsets of memory words, and what RDEP and
ACCWR send (R35, R187, R210, R250). -/
def Instr.narrow : Instr → Bool
  | .rdep .. | .tidset .. | .tidget .. | .accwr ..
  | .vldB .. | .vldH .. | .vldW .. | .vldD .. | .vldQ .. | .vstB .. | .vstH .. | .vstW .. | .vstD .. | .vstQ ..
  | .sldB .. | .sldH .. | .sldW .. | .sldD .. | .sstB .. | .sstH .. | .sstW .. | .sstD ..
  | .spldB .. | .spldH .. | .spldW .. | .spldD .. | .spstB .. | .spstH .. | .spstW .. | .spstD ..
  | .vldb .. | .vstb .. | .spldb .. | .spstb .. | .rsld .. | .rsst .. | .pld .. | .pldc .. | .claim .. | .cwb .. | .cinv ..
  | .xq .. | .vldaW .. | .vldaD .. | .vstrW .. | .vstrD .. => true
  | _ => false

/-- The vector names that a word reads through its slots (R26): of VCVT as wide as its source type (R129), of VMOVX none, since the
register that it reads is the one its index names (R207). -/
def Instr.slotNames (wide : Bool) (i : Instr) : List Nat :=
  match i with
  | .vcvt _ a src _ => a.names (isWide src.toNat)
  | .vmovx .. => []
  | _ => i.slots.flatMap fun v => v.names (wide && !Instr.narrow i)

/-- The vector names that a word reads (R26): a pair for a wide type. The offset of ACAS is a pair where its operands are. -/
def Instr.readNames (wide : Bool) (i : Instr) : List Nat :=
  let off := match i with
    | .acas _ _ _ o z => groupNames o.toNat (if z = 0#4 then 1 else 2)
    | _ => []
  Instr.slotNames wide i ++ groupNames i.data.1.toNat i.data.2 ++
    (i.paired.map fun r => groupNames r.toNat (if wide then 2 else 1)).flatten ++ off

/-- The names that the words still to issue read (R26). -/
def Squad.readNames (q : Squad) (c : Clause) (i : Nat) : List Nat :=
  ((c.items i).map fun x => Instr.readNames (isWide q.et) x.2.2).flatten

/-- Whether the first word of a clause to issue waits for values produced before the clause (R26). -/
def Squad.readsAwaited (q : Squad) (c : Clause) (i : Nat) : Bool := q.awaited &&& nameMask (q.readNames c i) != 0

/-- Token prices of the words still to issue (R260). -/
def State.clausePrices (s : State) (q : Squad) (c : Clause) (i : Nat) : List (Nat × Nat) :=
  ((c.items i).map fun x => (x.1, s.price q x.2.2)).filter fun x => x.2 != 0

/-- A request of a split for its clause at its core's stop (R260). -/
def State.request (s : State) (k sp : Nat) (core : Nat) (prices : List (Nat × Nat)) : State :=
  let cl := clusterOf core
  let x := s.cluster cl
  let r : Request := { split := some (k, sp), prices }
  (s.setCluster cl { x with queues := put x.queues (core % 8) (at' x.queues (core % 8) [] ++ [r]) }).tally core perfTokens 1

/-- Whether a split could begin or go on with its clause but for tokens (R23, R26, R63). -/
def Squad.clear (q : Squad) (p : Split) : Bool :=
  p.wait.isNone && !p.held && q.mayIssue p.id &&
  match p.clause with
  | none => false
  | some c =>
    p.begun || (fld c.header 12 12 &&& q.busy == 0#12 && !q.readsAwaited c (indexOf p.pos))

/-- Ready (R63): nothing holds the split, and the tokens of its clause are captured. -/
def State.ready (s : State) (q : Squad) (p : Split) : Bool :=
  q.clear p && (p.begun || p.captured ||
    match p.clause with
    | some c => (s.clausePrices q c (indexOf p.pos)).isEmpty
    | none => false)

/-! ## Preparing the splits of a squad for the choice -/

/-- The words of a clause are read from the homes of their lines, for their context, once a passing home has passed (R27, R320, R321,
R324). -/
def State.reachClause (s : State) (u : Issuer) (header words : Nat) : State :=
  ((List.range (words + 1)).filter fun j => decide (j = 0) || decide ((header + 4 * j) % 128 = 0)).foldl (fun s j =>
    match s.translate u ((header + 4 * j) % 2 ^ 48) .fetch with
    | .place (.memory x) =>
      (s.awaitHome x).reach (dieOf u.squad.core) ((s.awaitHome x).homed x) (min (4 * (words + 1 - j)) (128 - (header + 4 * j) % 128)) false
    | _ => s) s

/-- A split comes to its clause: the words are fetched, and checked (R22 to R29). A written position whose IDX names a literal word is
the model's to settle: the split goes on with the word after the literal, or at the next clause's header where there is none (DESIGN
CHOICE, log 76). -/
def State.enter (s : State) (u : Issuer) : State :=
  let k := u.key
  let p := u.split
  let i := indexOf p.pos
  match s.fetchClause u with
  | .walk va => (s.askWalk u va .fetch).onSplit k p.id fun p => { p with wait := some (.walk va) }
  | .fault va f =>
    match s.park u none .fetch 0 (BitVec.ofNat 64 va) f with
    | .stops (.wait w) s => s.onSplit k p.id fun p => { p with wait := some w }
    | _ => s
  | .clause c =>
    let s := s.reachClause u (headerOf p.pos) c.words.length
    match c.bad with
    | some (j, w) =>
      let pos := if i ≠ 0 then p.pos else match j with
        | some j => position (headerOf p.pos) j
        | none => p.pos
      s.takeTrap k p.id .illhdr (w.setWidth 64) pos
    | none =>
      -- a position past the last word is the next clause's header, and one that names a literal is that of the word after it
      match c.items i with
      | [] => s.onSplit k p.id fun p => p.atHeader (position (headerOf p.pos + 4 * (c.words.length + 1)) 0)
      | x :: _ =>
        let alone := decide (u.squad.splits.length ≤ 1) && u.squad.bench.isEmpty
        s.onSplit k p.id fun p =>
          { p with
            awaiting := false
            pos := if x.1 = i then p.pos else position (headerOf p.pos) x.1
            clause := some c
            held := has c.header 2 && decide (i = 0) && !p.passed && !alone }

/-- A wait at the start of a clause for values produced before it is counted when it begins (R26). -/
def State.countStart (s : State) (k : Nat) (q : Squad) (p : Split) : State :=
  match p.clause with
  | none => s
  | some c =>
    let now := !p.begun && q.readsAwaited c (indexOf p.pos)
    let s := if now && !p.awaiting then s.tally q.core perfOperand 1 else s
    if now = p.awaiting then s else s.onSplit k p.id fun p => { p with awaiting := now }

/-- One split before the choice: a wait that has ended, a pending trap (R97), the fetch of its clause. -/
def State.prepare (s : State) (k sp : Nat) : State :=
  match s.squads.get? k with
  | none => s
  | some q =>
    match q.split? sp with
    | none => s
    | some p =>
      if q.mayIssue sp = false then s
      else if p.begun = false ∧ p.clause.isNone ∧ p.wait.isNone ∧ q.active = false ∧ !q.pending.isEmpty ∧ indexOf p.pos = 0 then
        s.takePending k sp p.pos
      else
        match p.wait with
        | some w =>
          if s.waits k q sp w then s
          else s.onSplit k sp fun p => { p with wait := none, owed := if w.claims then some w else p.owed }
        | none =>
          if p.clause.isNone then
            let s := s.enter ⟨k, q, p⟩
            match (s.squads.get? k).bind fun q => (q.split? sp).map fun p => (q, p) with
            | some (q, p) => s.countStart k q p
            | none => s
          else s.countStart k q p

/-- The request for a clause whose tokens alone are lacking; UNAFF for a price above the capacity (R260). -/
def State.seek (s : State) (k sp : Nat) : State :=
  match s.squads.get? k with
  | none => s
  | some q =>
    match q.split? sp, (q.split? sp).bind (·.clause) with
    | some p, some c =>
      if q.clear p ∧ p.begun = false ∧ p.captured = false then
        let prices := s.clausePrices q c (indexOf p.pos)
        let total := (prices.map (·.2)).sum
        if total = 0 then s
        else if s.cap (clusterOf q.core) < total then s.takeTrap k sp .unaff (BitVec.ofNat 64 total) p.pos
        else if s.waits k q sp .topUp then s
        else s.request k sp q.core prices
      else s
    | _, _ => s

/-- Splits held at one position merge into the earliest of them, which keeps its place (R58); the split of a running handler is apart
from them (R95, R96). -/
def Squad.mergeHeld : Nat → Squad → Squad
  | 0, q => q
  | n + 1, q =>
    let held := q.splits.filter fun p => p.held && !(q.active && q.handler == some p.id)
    match held.find? fun p => held.any fun r => r.pos == p.pos && r.id != p.id with
    | none => q
    | some p =>
      match held.find? fun r => r.pos == p.pos && r.id != p.id with
      | none => q
      | some r => Squad.mergeHeld n { q.setSplit { p with mask := p.mask ||| r.mask } with
          splits := (q.setSplit { p with mask := p.mask ||| r.mask }).splits.filter fun x => x.id != r.id
          lastServed := if q.lastServed == some r.id then some p.id else q.lastServed }

/-- Convergence (R58): with every split held or waiting apart, held splits merge, the bench fills the freed slots, and
those still held are released. -/
def State.converge (s : State) (k : Nat) : State :=
  match s.squads.get? k with
  | none => s
  | some q =>
    let apart := fun (p : Split) => p.held || match p.wait with
      | some w => w.apart && s.waits k q p.id w
      | none => false
    if (q.splits.any (·.held)) && q.splits.all apart then
      let q := (q.mergeHeld 4).fillSlots
      s.setSquad k { q with splits := q.splits.map fun p => if p.held then { p with held := false, passed := true } else p }
    else s

/-- The splits of a squad before a choice of its quarter; of a squad that has ended, the end of its team (R55). -/
def State.prepareSquad (s : State) (k : Nat) : State :=
  let ids := fun (s : State) => ((s.squads.get? k).map fun q => q.splits.map (·.id)).getD []
  if ((s.squads.get? k).map fun q => q.ended && !q.halted).getD false then s.endSquad k
  else
  let s := (ids s).foldl (fun s i => s.prepare k i) s
  let s := s.converge k
  (ids s).foldl (fun s i => s.seek k i) s

/-! ## The choice (R65) -/

/-- The squads of a quarter. -/
def State.quarterSquads (s : State) (core qt : Nat) : List (Nat × Squad) :=
  s.squads.filter fun e => e.2.core == core && e.2.quarter == qt && !e.2.halted

/-- The scheduling class of a squad (R64). -/
def State.classOf (s : State) (q : Squad) : Nat := ((s.launchOf q).map (·.cls)).getD 0

/-- The ready split that follows the one served last in a squad's order (R65). -/
def State.nextSplit (s : State) (q : Squad) : Option Nat :=
  let ids := q.splits.map (·.id)
  let after := match q.lastServed with
    | some l => (ids.dropWhile (· != l)).drop 1
    | none => []
  (after ++ ids).find? fun i => match q.split? i with
    | some p => s.ready q p
    | none => false

/-- The older of two squads, one that is the youngest for this choice last (R65). -/
def State.elder (s : State) (young : Option Nat) (a b : Nat × Squad) : Nat × Squad :=
  let key := fun (x : Nat × Squad) => ((if young = some x.1 then 1 else 0 : Nat), s.age x.2)
  let x := key a
  let y := key b
  if y.1 < x.1 ∨ (y.1 = x.1 ∧ y.2 < x.2) then b else a

/-- Deficit counters before the choice: an idle class keeps no credit; with no credit left, every ready class is
refilled by 8 times its weight (R65). -/
def refilled (dc : Vector Int 4) (ready : List Nat) (weight : Nat → Nat) : Vector Int 4 :=
  let dc : Vector Int 4 := tab 4 fun c => if ready.contains c then at' dc c 0 else min (at' dc c 0) 0
  if ready.any fun c => decide (0 < at' dc c 0) then dc
  else tab 4 fun c => if ready.contains c then at' dc c 0 + 8 * (weight c : Int) else at' dc c 0

/-- Whether a clock switch of its rail keeps a core from issuing (R272). -/
def State.paused (s : State) (core : Nat) : Bool :=
  let x := s.die (dieOf core)
  decide (2 ≤ (at' x.rails (x.railOf.getD (clusterOf core % 20) 0) {}).state)

/-- Whether the split that a quarter has chosen still issues. -/
def State.chosenLive (s : State) (x : Nat × Nat) : Bool :=
  match s.squads.get? x.1 with
  | none => false
  | some q => match q.split? x.2 with
    | none => false
    | some p => q.mayIssue x.2 && p.wait.isNone && p.clause.isSome && !p.held && !s.paused q.core

/-- CLAUSE_CHOICE (R65): the squads of the quarter are prepared; a class, its oldest squad and that squad's next ready
split are chosen; with none ready the next quarter is in turn. -/
def State.choose (s : State) (qt : Nat) : State :=
  let core := qt / 4
  let x := at' (s.core core).quarters (qt % 4) {}
  if (x.chosen.map s.chosenLive).getD false then s
  else
    let s := match x.chosen with
      | some (k, _) => s.onQuarter core (qt % 4) fun x => x.endTurn (((s.squads.get? k).map s.classOf).getD x.ptr)
      | none => s
    let s := ((s.quarterSquads core (qt % 4)).map (·.1)).foldl State.prepareSquad s
    let ready := (s.quarterSquads core (qt % 4)).filter fun e => (s.nextSplit e.2).isSome && !s.paused core
    match ready with
    | [] => if s.turn = qt then { s with turn := s.nextTurn } else s
    | e0 :: _ =>
      let x := at' (s.core core).quarters (qt % 4) {}
      let classes := ready.map fun e => s.classOf e.2
      let ctx := s.context (s.contextOf e0.2)
      let dc := refilled x.dc classes fun c => at' ctx.weights c 1
      let order := (List.range 4).map fun i => (x.ptr + i) % 4
      match order.find? fun c => classes.contains c && decide (0 < at' dc c 0) with
      | none => s
      | some c =>
        match ready.filter fun e => s.classOf e.2 == c with
        | [] => s
        | f :: fs =>
          let q := fs.foldl (s.elder x.youngest) f
          match s.nextSplit q.2 with
          | none => s
          | some sp =>
            let s := s.onQuarter core (qt % 4) fun x =>
              { x with dc, ptr := c, chosen := some (q.1, sp), words := 0, youngest := none }
            s.onSquad q.1 fun q => { q with lastServed := some sp }

/-- CLAUSE_CHOICE (R65). -/
def execClauseChoice (quarter : Nat) (s : State) : Host.Outcome State Fault Refusal := .next (s.choose quarter)

/-! ## The word of a chosen split -/

/-- The instruction at a split's position in its clause. -/
def Split.word? (p : Split) : Option Instr :=
  p.clause.bind fun c => ((c.items (indexOf p.pos)).find? fun x => x.1 == indexOf p.pos).map (·.2.2)

/-- The word that the quarter in turn issues next, with the issuing split put at the cursor. -/
def State.nextWord (s : State) : Option (Instr × State) :=
  match (at' (s.core (s.turn / 4)).quarters (s.turn % 4) {}).chosen with
  | none => none
  | some (k, sp) =>
    if s.chosenLive (k, sp) then
      match ((s.squads.get? k).bind fun q => q.split? sp).bind Split.word? with
      | some i => some (i, { s with cur := ⟨k, sp⟩ })
      | none => none
    else none

end Sys2Proof.Machine
end

