-- ==== Sys2Proof/Machine/Rings.lean ====
section
/-! DEFINITION. The ring of a cluster: tokens pass its stops, requests capture them, holds end (R256 to R266). -/

namespace Sys2Proof.Machine

/-- Positions in a lap (R256). -/
def lap : Nat := 10

/-- The price of a request. -/
def Request.price (r : Request) : Nat := (r.prices.map (·.2)).sum

/-- Tokens that a stop holds but for the capture of its head: holds of issued words and blocks, and complete captures
(R262). -/
def State.heldAt (s : State) (cl stop : Nat) : Nat :=
  (((s.cluster cl).holds.filter fun h => h.2.stop == stop).map (·.2.tokens)).sum +
  ((s.squads.filter fun e => e.2.core == 8 * cl + stop && decide (stop < 8)).map fun (e : Nat × Squad) =>
    (e.2.splits.map Split.tokenSum).sum).sum

/-- A complete capture goes to its split's clause, to its resumed matrix record, or to the engine's block (R261, R264,
R269). -/
def State.grant (s : State) (cl stop : Nat) (r : Request) : State :=
  match r.split with
  | some (k, sp) => s.onSplit k sp fun p => { p with tokens := p.tokens ++ r.prices, captured := true, lapse := 0 }
  | none =>
    let x := s.cluster cl
    match r.record with
    | some (k, id) =>
      { s.setCluster cl { x with holds := x.holds.set s.nextId ⟨stop, r.price, k, some id⟩ } with
        nextId := s.nextId + 1 }.onOp k id fun o => { o with asks := false }
    | none =>
      let k := ((r.prices.map (·.1)).headD 0) / 4
      { s.setCluster cl { x with holds := x.holds.set s.nextId ⟨stop, r.price, k, none⟩ } with nextId := s.nextId + 1 }

/-- A stop gives back the incomplete capture of its head as free tokens at its output, where it asks again (R263). -/
def Cluster.releaseHead (x : Cluster) (stop : Nat) : Cluster :=
  match at' x.queues stop [] with
  | [] => x
  | r :: rest => { x with
      free := put x.free stop (at' x.free stop 0 + r.captured)
      queues := put x.queues stop ({ r with captured := 0, held := 0 } :: rest) }

/-- A stop takes the serve. Every other stop gives back its incomplete capture then, so that the holder's is complete within the
lap that R267 leaves it: R263 alone would let such tokens come too late for the six laps (log 125). -/
def Cluster.takeServe (x : Cluster) (stop : Nat) : Cluster :=
  { ((List.range 10).filter (· != stop)).foldl (fun x k => x.releaseHead k) x with serving := some stop }

/-- Free tokens and the serve pass one stop (R261, R262, R266). -/
def State.passStop (s : State) (cl stop : Nat) : State :=
  let x := s.cluster cl
  match at' x.queues stop [] with
  | [] => s
  | r :: rest =>
    let r := { r with waited := r.waited + 1, held := if 0 < r.captured then r.held + 1 else 0 }
    let back := fun (x : Cluster) (r : Request) => { x with queues := put x.queues stop (r :: rest) }
    let mine := x.serving == some stop
    if s.cap cl < s.heldAt cl stop + r.price ∨ (x.serving.isSome ∧ mine = false) then s.setCluster cl (back x r)
    else
      let takes := x.serving.isNone && x.serve == stop && decide (4 * lap < r.waited)
      let x := if takes then x.takeServe stop else x
      let n := min (r.price - r.captured) (at' x.free stop 0)
      let x := { x with free := put x.free stop (at' x.free stop 0 - n) }
      let r := { r with captured := r.captured + n }
      if r.captured < r.price then s.setCluster cl (back x r)
      else
        let x := if x.serving = some stop then { x with serving := none, serve := stop } else x
        (s.setCluster cl { x with queues := put x.queues stop rest }).grant cl stop r

/-- Free tokens and the serve move one position (R256). -/
def Cluster.turnRing (x : Cluster) : Cluster :=
  { x with
    free := tab 10 fun p => at' x.free ((p + 9) % 10) 0
    serve := if x.serving.isNone then (x.serve + 1) % 10 else x.serve }

/-- Free tokens that pass a stop are withdrawn while the capacity falls (R272). -/
def Cluster.withdrawAt (x : Cluster) (stop : Nat) : Cluster :=
  let w := min x.withdraw (at' x.free stop 0)
  { x with withdraw := x.withdraw - w, free := put x.free stop (at' x.free stop 0 - w) }

/-- A position passes for a clause whose capture is complete and which has not begun (R264). -/
def Split.lapsed (p : Split) : Split := if p.captured && !p.begun then { p with lapse := p.lapse + 1 } else p

/-- A position passes for the captured clauses of a cluster (R264). -/
def State.lapsePass (s : State) (cl : Nat) : State :=
  { s with squads := s.squads.map fun e =>
      if clusterOf e.2.core = cl then (e.1, { e.2 with splits := e.2.splits.map Split.lapsed }) else e }

/-- RING_STEP: one position, then every stop in order. -/
def State.ringStep (s : State) (cl : Nat) : State :=
  (List.range 10).foldl (fun s k => (s.setCluster cl ((s.cluster cl).withdrawAt k)).passStop cl k)
    ((s.lapsePass cl).setCluster cl (s.cluster cl).turnRing)

/-- RING_STEP (R256, R261, R266). -/
def execRingStep (cluster : Nat) (s : State) : Host.Outcome State Fault Refusal := .next (s.ringStep cluster)

/-- A stop gives up a capture that has been incomplete for more than one lap (R263). -/
def State.releaseCapture (s : State) (cl stop : Nat) : State :=
  let x := s.cluster cl
  match at' x.queues stop [] with
  | [] => s
  | r :: _ =>
    if lap < r.held ∧ x.serving ≠ some stop then s.setCluster cl (x.releaseHead stop) else s

/-- CAPTURE_RELEASE (R263). -/
def execCaptureRelease (cluster stop : Nat) (s : State) : Host.Outcome State Fault Refusal :=
  .next (s.releaseCapture cluster stop)

/-- Whether a hold may end on its own: a vector word's, once its cycles have passed (R264). Cycles are timing (R4). -/
def State.holdFree (s : State) (h : Hold) : Bool :=
  decide (h.stop < 8) && match h.op with
    | some id => (s.op? h.squad id).isNone
    | none => true

/-- A vector word's hold ends (R264). -/
def State.endHold (s : State) (cl key : Nat) : State :=
  let x := s.cluster cl
  match x.holds.get? key with
  | none => s
  | some h =>
    if s.holdFree h then s.setCluster cl { x.giveBack h.stop h.tokens with holds := x.holds.erase key } else s

/-- HOLD_END (R264). -/
def execHoldEnd (cluster hold : Nat) (s : State) : Host.Outcome State Fault Refusal := .next (s.endHold cluster hold)

/-- A clause that has not begun within one lap of its capture returns its tokens, and its split asks again at the tail (R264). -/
def State.expireCapture (s : State) (k sp : Nat) : State :=
  match s.squads.get? k with
  | none => s
  | some q =>
    match q.split? sp with
    | none => s
    | some p =>
      if p.captured ∧ p.begun = false ∧ lap < p.lapse then
        ((s.giveTokens q.core p.tokenSum).onSplit k sp fun p => { p with tokens := [], captured := false }).seek k sp
      else s

/-- CAPTURE_EXPIRY (R264). -/
def execCaptureExpiry (squad split : Nat) (s : State) : Host.Outcome State Fault Refusal :=
  .next (s.expireCapture squad split)

end Sys2Proof.Machine
end

