-- ==== Sys2Proof/Machine/Walks.lean ====
section
/-! DEFINITION. Table walks and the answers to fault records (R173 to R182, R222). -/

namespace Sys2Proof.Machine

/-- TABLE_WALK (R173 to R175): the die's oldest walk puts a translation into the core's TLB, or tells the split why
there is none. -/
def State.tableWalk (s : State) (d : Nat) : State :=
  let x := s.die d
  match x.walks with
  | [] => s
  | w :: ws =>
    let s := s.setDie d { x with walks := ws }
    match s.squads.get? w.squad with
    | none => s
    | some q =>
      let ctx := s.contextOf q
      match (s.payWalk ctx d (contextVf ctx) (contextIface ctx) w.va).walk (contextVf ctx) (contextIface ctx) w.va w.kind false with
      | (s, .ok e) => s.tlbPut q.core q.quarter e
      | (s, .error f) => s.onSplit w.squad w.split fun p => { p with walked := some (w.va, f) }

/-- TABLE_WALK (R173). -/
def execTableWalk (die : Nat) (s : State) : Host.Outcome State Fault Refusal := .next (s.tableWalk die)

/-! ## Fault responses (R180) -/

/-- Take an entry out of a core's fault buffer. -/
def State.dropFault (s : State) (core entry : Nat) : State :=
  let c := s.core core
  s.setCore core { c with faults := c.faults.erase entry }

/-- Unpark a squad: its splits that were parked go on (R177, R180). -/
def State.unpark (s : State) (k : Nat) : State :=
  s.onSquad k fun q => { q with
    parked := none
    splits := q.splits.map fun p => if p.wait = some .parked then { p with wait := none } else p }

/-- The pending entry that an owner's response names: the lowest core's, where two cores have sent one FAULTID (log 27). -/
def State.faultNamed (s : State) (who : Agent) (fid : Nat) : Option (Nat × Nat × Fault2) :=
  let e := fid % 64
  ((s.cores.filter fun c => match c.2.faults.get? e with
    | some x => decide (x.owner = who) && decide (x.gen.toNat = fid / 64 % 1024)
    | none => false).head?).bind fun c => (c.2.faults.get? e).map fun x => (c.1, e, x)

/-- The command that waits on an entry: port and place. -/
def Squad.faultedCommand (q : Squad) (port entry : Nat) : Option Nat :=
  ((at' q.commands port []).findIdx? fun c => (c.fault.map (·.1)) == some entry)

/-- The spill of a saved squad's tile has failed: its launch ends (R337, R343). -/
def State.spillFails (s : State) (k : Nat) : State :=
  match ((s.saved.find? fun x => x.2.squads.any fun e => e.1 == k).bind fun x => s.gangs.get? x.2.team.gang) with
  | some g => s.endLaunch g.launch 4
  | none => s

/-- FAIL and DENY (R180, R222): the entry frees; the word traps and has no effect, or the command ends. -/
def State.faultEnds (s : State) (core entry : Nat) (x : Fault2) (deny : Bool) : State :=
  let s := s.dropFault core entry
  if x.split = 9 then s.spillFails x.squad
  else match s.squads.get? x.squad with
  | none => s
  | some q =>
    if x.split = 7 then
      match s.gangOf q with
      | some g => s.endLaunch g.launch 4
      | none => s
    else if x.split = 8 then
      let id := (x.op.map (·.id)).getD 0
      ((s.unpark x.squad).onSquad x.squad fun q => q.pend (if deny then .access else .xlate) x.va).finishOp x.squad id
    else if 4 ≤ x.split then
      let port := x.split - 4
      match q.faultedCommand port entry with
      | none => s
      | some i =>
        let c := (at' q.commands port [])[i]?
        let status := if deny then 2 else 1
        match c.bind (·.collective) with
        | some id =>
          s.endCollective id status
        | none => s.endCommand x.squad port i status ((c.map (·.rows)).getD 0)
    else
      let s := s.unpark x.squad
      match q.split? x.split with
      | none => s
      | some p => s.takeTrap x.squad x.split (if deny then .access else .xlate) x.va p.pos

/-- Translate the lanes of a squad's captured word again (R180): their places, or the lane that stops. -/
def State.retryLanes (s : State) (q : Squad) (ctx : Nat) (kind : AccessKind) :
    List LaneAccess → State × Except (LaneAccess × Option WalkFault) (List LaneAccess)
  | [] => (s, .ok [])
  | l :: ls =>
    let va := l.va.toNat
    let r : State × Except (Option WalkFault) Place :=
      if inPodWindow va then
        match s.podRoute (contextVf ctx) (contextIface ctx) va kind with
        | .ok _ => (s, .ok (.pod va))
        | .error f => (s, .error f)
      else
        match (s.payWalk ctx (dieOf q.core) (contextVf ctx) (contextIface ctx) va).walk (contextVf ctx) (contextIface ctx) va kind false with
        | (s, .ok e) => (s.tlbPut q.core q.quarter e, .ok (.memory (e.xlateFor ctx va)))
        | (s, .error f) => (s, .error (some f))
    match r with
    | (s, .error f) => (s, .error (l, f))
    | (s, .ok p) =>
      match s.retryLanes q ctx kind ls with
      | (s, .ok r) => (s, .ok ({ l with place := p } :: r))
      | (s, .error e) => (s, .error e)

/-- A new record under the same entry, its generation advanced (R180). -/
def State.faultAgain (s : State) (core entry : Nat) (x : Fault2) (ctx lane : Nat) (va : DWord) (f : WalkFault) : State :=
  let c := s.core core
  let gen := c.faultGen.getD entry 0 + 1
  let s := s.setCore core { c with faultGen := c.faultGen.set entry gen }
  s.sendFault core entry { x with lane, va, gen } ctx f x.kind

/-- A lane whose address a replay packet translates again: not finished, and in memory or at a peer. -/
def LaneAccess.remote (l : LaneAccess) : Bool := !l.finished && match l.place with
  | .memory _ => true
  | .pod _ => true
  | .scratch _ => false
  | .window .. => false

/-- The places of a replay packet's lanes are found (R195, R335). -/
def State.replayed (s : State) (k id : Nat) (ls : List LaneAccess) : State :=
  s.onOp k id fun o => { o with
    translate := false
    lanes := o.lanes.map fun l => (ls.find? fun x => x.lane == l.lane).getD l }

/-- A captured word issues from the fault buffer, and its split goes on past it (R177, R180). -/
def State.issueCaptured (s : State) (k : Nat) (q : Squad) (p : Split) (x : Fault2) (o : Op) (ls : List LaneAccess) : State :=
  let id := s.nextId
  let op := { o with id, lanes := ls, writes := nameMask x.dests, gen := q.gen }
  let q := { q.popAll x.pops with ops := q.ops ++ [op] }
  let q := (x.rels.filter fun n => !x.dests.contains n).foldl Squad.release q
  let q := q.bindDests (id + 1) x.dests
  let s := { s.setSquad k q with nextId := id + 1 + x.dests.length }.tallyOp q op
  let n := wordsOf o.instr
  if indexOf p.pos + n < p.length then
    s.onSplit k p.id fun p => { p with pos := p.after n, wait := none, arrived := none, begun := true, walked := none }
  else s.endClause ⟨k, q, p⟩ (p.after n)

/-- A captured word that lacks registers or a tile stays captured, and its squad parked, until it can issue (R202, R205; log 94). -/
def State.keepCaptured (s : State) (k sp : Nat) (x : Fault2) (w : Wait) : State :=
  ((s.unpark k).onSquad k fun q => { q with captured := some x }).onSplit k sp fun p => { p with wait := some w }

/-- A captured word whose lanes have all translated issues with its captured values, once the pool holds its registers and, for
ACCLD, a tile (R177, R180, R202, R205, R251). -/
def State.goOn (s : State) (k : Nat) (p : Split) (x : Fault2) (o : Op) (ls : List LaneAccess) : State :=
  match (s.unpark k).squads.get? k with
  | none => s.unpark k
  | some q =>
    if s.canTake q (q.newFor x.dests) = false then s.keepCaptured k p.id x (.pool x.dests)
    else
      match o.kind with
      | .accLoad t n isInt =>
        match s.ownerGate q, s.freshSlots k q [t / 4] with
        | none, .ok (slot :: _) =>
          ((s.unpark k).issueCaptured k q p x { o with kind := .accLoad slot n isInt } ls).bindTile k n.toNat slot isInt
        | some _, _ => s.keepCaptured k p.id x .firstUse
        | none, _ => s.keepCaptured k p.id x (.tile [t / 4])
      | _ => (s.unpark k).issueCaptured k q p x o ls

/-- RETRY of an entry (R180): a command or a fetch goes on and meets the tables again; a word's lanes are translated
again, and it issues with its captured values. -/
def State.faultRetry (s : State) (core entry : Nat) (x : Fault2) : State :=
  match s.squads.get? x.squad with
  | none => s.dropFault core entry
  | some q =>
    if x.split = 7 then s.dropFault core entry
    else if x.split = 8 then
      let ctx := s.contextOf q
      match x.op with
      | none => (s.dropFault core entry).unpark x.squad
      | some o =>
        match s.retryLanes q ctx x.kind (o.lanes.filter LaneAccess.remote) with
        | (s, .error (l, some f)) => s.faultAgain core entry x ctx l.lane l.va f
        | (s, .error (l, none)) => s.faultEnds core entry { x with va := l.va } true
        | (s, .ok ls) => ((s.dropFault core entry).unpark x.squad).replayed x.squad o.id ls
    else if 4 ≤ x.split then
      let port := x.split - 4
      match q.faultedCommand port entry with
      | none => s.dropFault core entry
      | some i => (s.dropFault core entry).onCommand x.squad port i fun c => { c with fault := none }
    else
      let ctx := s.contextOf q
      match x.op, q.split? x.split with
      | _, none => (s.dropFault core entry).unpark x.squad
      | none, some _ =>
        match s.retryLanes q ctx .fetch [{ lane := 0, va := x.va, place := .pod 0 }] with
        | (s, .ok _) => (s.dropFault core entry).unpark x.squad
        | (s, .error (_, some f)) => s.faultAgain core entry x ctx 0 x.va f
        | (s, .error (_, none)) => s.faultEnds core entry x true
      | some o, some p =>
        match s.retryLanes q ctx x.kind o.lanes with
        | (s, .error (l, some f)) => s.faultAgain core entry x ctx l.lane l.va f
        | (s, .error (l, none)) => s.faultEnds core entry { x with va := l.va } true
        | (s, .ok ls) =>
          (s.dropFault core entry).goOn x.squad p x o ls

/-! ## Replay packets (R182, R195, R335) -/

/-- A record of a restored squad in a free entry of its core's fault buffer, which parks the squad. -/
def State.restoredFault (s : State) (core : Nat) (x : Fault2) (put_ : State → Nat → Fault2 → State) : State :=
  let c := s.core core
  match c.freeFault with
  | none => s
  | some e =>
    let gen := c.faultGen.getD e 0 + 1
    let x := { x with gen }
    let s := s.setCore core { c with faults := c.faults.set e x, faultGen := c.faultGen.set e gen }
    put_ (s.onSquad x.squad fun q => { q with parked := some e }) e x

/-- The next replay packet of a restored squad is translated and issued; the parked word comes after the packets (R182,
R195, R335). -/
def State.replay (s : State) (k : Nat) : State :=
  match s.squads.get? k with
  | none => s
  | some q =>
    let ctx := s.contextOf q
    if q.halted || q.parked.isSome || (q.ops.any fun o => o.asks) then s
    else
      match q.ops.find? fun o => o.translate with
      | some o =>
        let kind := o.kind.access
        match s.retryLanes q ctx kind (o.lanes.filter LaneAccess.remote) with
        | (s, .ok ls) => s.replayed k o.id ls
        | (s, .error (l, some f)) =>
          s.restoredFault q.core
            { squad := k, split := 8, owner := .level0, lane := l.lane, va := l.va, gen := 0, op := some o, kind, bytes := [] }
            fun s e x => s.sendFault q.core e x ctx f kind
        | (s, .error (l, none)) => (s.onSquad k fun q => q.pend .access l.va).finishOp k o.id
      | none =>
        match q.captured with
        | none => s
        | some x =>
          s.restoredFault q.core x fun s e x =>
            ((s.onSquad k fun q => { q with captured := none }).onSplit k x.split fun p =>
              { p with wait := some .parked }).faultRetry q.core e x

/-- The response register of a holder (R180, R399, R400). -/
def responseRegister : Agent → Nat
  | .level0 => packageBase + 0x240
  | .pf1 => packageBase + 0x240
  | .level1 v => partBase v + 0x740
  | .level2 v i => ifaceBase v i + 0x2A0

/-- Whether an agent has the right to answer fault records: stage 2 for level 0 and for PF 1 under FAULT2, XLATE or IMPORT for
levels 1 and 2 (R180, R373, R374). -/
def State.mayAnswer (s : State) : Agent → Bool
  | .level0 => true
  | .pf1 => has (s.reg (packageBase + 0x10)) 1
  | .level1 v => has (s.reg (partBase v)) 0 || has (s.reg (partBase v)) 2
  | .level2 v i => s.delegated v i 0 || s.delegated v i 2

/-- A response (R180): ACTION and FAULTID stay readable in the register, and the pending record that it names is answered; one of
an agent without the right is ignored. -/
def State.answer (s : State) (who : Agent) (action : Nat) (fid : BitVec 16) (f : State → Nat → Nat → Fault2 → State) : State :=
  if s.mayAnswer who then
    let s := s.setReg (responseRegister who) (BitVec.ofNat 64 (action * 2 ^ 16 + fid.toNat))
    match s.faultNamed who fid.toNat with
    | some (c, e, x) => f s c e x
    | none => s
  else s

/-- FAULT_RETRY (R180). -/
def execFaultRetry (who : Agent) (fid : BitVec 16) (s : State) : Host.Outcome State Fault Refusal :=
  .next (s.answer who 0 fid State.faultRetry)

/-- FAULT_FAIL (R180). -/
def execFaultFail (who : Agent) (fid : BitVec 16) (s : State) : Host.Outcome State Fault Refusal :=
  .next (s.answer who 1 fid fun s c e x => s.faultEnds c e x false)

/-- FAULT_DENY (R180). -/
def execFaultDeny (who : Agent) (fid : BitVec 16) (s : State) : Host.Outcome State Fault Refusal :=
  .next (s.answer who 2 fid fun s c e x => s.faultEnds c e x true)

/-- FAULT_TIMEOUT (R181): the device answers FAIL. The timeout runs from the moment the record is appended (R401). -/
def execFaultTimeout (core entry : Nat) (s : State) : Host.Outcome State Fault Refusal :=
  .next (match (s.core core).faults.get? entry with
    | some x => if s.unsent x then s else s.faultEnds core entry x false
    | none => s)

end Sys2Proof.Machine
end

