-- ==== Sys2Proof/Machine/Seats.lean ====
section
/-! DEFINITION. Admission (R50 to R54): the room of a core, where a team's scratchpad, stack share and squads go, the
reservation in the save area (R337, R416), and the creation of a gang. -/

namespace Sys2Proof.Machine

/-! ## Units in service and in the open pool (R18, R21, R354) -/

/-- The units of a class in service on a die (R21). -/
def State.unitsIn (s : State) (cls d : Nat) : List Nat :=
  ((List.range (unitsPerDie cls)).map (d * unitsPerDie cls + ·)).filter fun u =>
    !s.retired.contains (unitKey cls u)

/-- UNITS of a partition's FIXED register for a die (R354). -/
def State.fixedField (s : State) (vf cls d : Nat) : Nat := bits (s.reg (partBase vf + 0x400 + 8 * cls)) (8 * d + 7) (8 * d)

/-- Fixed units of a partition: those of its register, the highest partitions' reduced until all fit the units in service (R354). -/
def State.fixedUnits (s : State) (vf cls d : Nat) : Nat :=
  min (s.fixedField vf cls d) (s.inService cls d - ((List.range vf).map fun v => s.fixedField v cls d).sum)

/-- Units of the open pool (R354). -/
def State.openUnits (s : State) (cls d : Nat) : Nat :=
  s.inService cls d - ((List.range 32).map fun v => s.fixedUnits v cls d).sum

/-! ## Room on a core (R50) -/

/-- What a core has free. -/
structure Room where
  /-- Free slots of each quarter. -/
  slots : List Nat := [16, 16, 16, 16]
  regs : Nat := 2048
  tiles : Nat := 64
  /-- Tile slots taken on each sub-array by the context's own tiles. -/
  subs : List Nat := []
  sectors : Nat := 0
  /-- Ways are draining: the region cannot grow now (R148). -/
  draining : Bool := false
  /-- Granules held, as base and count (R146). -/
  allocs : List (Nat × Nat) := []
  /-- Stripe bytes held, as offset and count (R234). -/
  shares : List (Nat × Nat) := []
  /-- Its ways have drained for the launch at hand (R148). -/
  drained : Bool := false
  deriving DecidableEq, Repr

/-- What a team needs. -/
structure Need where
  squads : Nat
  /-- Σ of the squads' charges (R50, R204). -/
  regs : Nat
  tiles : Nat
  granules : Nat
  share : Nat
  /-- Tile slots needed on named sub-arrays, one entry for each (R253). -/
  subs : List Nat := []
  deriving DecidableEq, Repr

/-- Where a team's memory goes; `grow` sectors must join the region first (R147, R234). -/
structure Seat where
  base : Nat
  stack : Nat
  grow : Nat
  deriving DecidableEq, Repr

/-- Whether a range overlaps none of some ranges. -/
def apartFrom (l : List (Nat × Nat)) (b n : Nat) : Bool := l.all fun a => decide (b + n ≤ a.1) || decide (a.1 + a.2 ≤ b)

/-- The highest base from `lo` on at which `n` granules below `top` are free: the top of the highest run that holds
them (R147). -/
def highestBase (l : List (Nat × Nat)) (lo n top : Nat) : Option Nat :=
  if top < lo + n then none
  else ((List.range (top - n - lo + 1)).map (top - n - ·)).find? fun b => apartFrom l b n

/-- The fewest sectors that let the run at the region's bottom hold `n` granules (R147). -/
def growth (l : List (Nat × Nat)) (sectors n : Nat) : Option Nat :=
  let bottom := (16 - sectors) * 16
  let free := (l.map (·.1)).foldl min 256 - bottom
  (List.range 15).find? fun k => decide (0 < k) && decide (sectors + k ≤ 14) && decide (n ≤ free + 16 * k)

/-- The granule base of a team, and the sectors that must join (R147). -/
def Room.granulesFor (r : Room) (n : Nat) : Option (Nat × Nat) :=
  if n = 0 then some (0, 0)
  else
    match highestBase r.allocs ((16 - r.sectors) * 16) n 256 with
    | some b => some (b, 0)
    | none =>
      if r.draining then none
      else
        match growth r.allocs r.sectors n with
        | none => none
        | some k => (highestBase r.allocs ((16 - r.sectors - k) * 16) n 256).map (·, k)

/-- The lowest stripe offset at which a share is free (R234). -/
def Room.shareFor (r : Room) (n : Nat) : Option Nat :=
  let cand := (0 :: r.shares.map fun a => a.1 + a.2).filter fun b => decide (b + n ≤ 4096) && apartFrom r.shares b n
  if n = 0 then some 0
  else cand.foldl (fun acc b => match acc with
    | none => some b
    | some c => some (min b c)) none

/-- The quarter with the most free slots, the lowest among equals (R52). -/
def bestQuarter (slots : List Nat) : Nat :=
  let m := slots.foldl max 0
  slots.findIdx fun x => x == m

/-- The quarters of `n` squads in order, and the slots left (R52). -/
def placeSquads : Nat → List Nat → List Nat × List Nat
  | 0, slots => ([], slots)
  | n + 1, slots =>
    let b := bestQuarter slots
    let r := placeSquads n (slots.set b (slots.getD b 0 - 1))
    (b :: r.1, r.2)

/-- Seat a team: the room left and the seat, or none (R50). -/
def Room.take (r : Room) (n : Need) : Option (Room × Seat) :=
  let subsOk := (List.range 16).all fun b => decide ((r.subs ++ n.subs).count b ≤ 4)
  if r.slots.sum < n.squads ∨ r.regs < n.regs ∨ r.tiles < n.tiles ∨ subsOk = false then none
  else
    match r.granulesFor n.granules, r.shareFor n.share with
    | some (b, k), some o =>
      some ({ r with
        slots := (placeSquads n.squads r.slots).2
        regs := r.regs - n.regs
        tiles := r.tiles - n.tiles
        subs := r.subs ++ n.subs
        sectors := r.sectors + k
        allocs := if n.granules = 0 then r.allocs else r.allocs ++ [(b, n.granules)]
        shares := if n.share = 0 then r.shares else r.shares ++ [(o, n.share)] }, ⟨b, o, k⟩)
    | _, _ => none

/-- Teams on a core, with the launch of each. -/
def State.teamsOn (s : State) (core : Nat) : List (Team × Launch) :=
  (s.teams.filter fun t => t.2.core == core).filterMap fun t =>
    ((s.gangs.get? t.2.gang).bind fun g => s.launches.get? g.launch).map fun l => (t.2, l)

/-- The room of a core for a context. Registers and tiles of the pool that words wait for are not free to an admission (R202, R205;
log 41). -/
def State.room (s : State) (core ctx : Nat) : Room :=
  let c := s.core core
  let used := fun (q : Nat) => ((s.squadsOn core).filter fun e => e.2.quarter == q).length
  { slots := (List.range 4).map fun q => 16 - used q
    regs := s.pool core - ((s.squadsOn core).map fun e => if e.2.halted then 0 else s.poolClaim e.2).sum
    tiles := s.tilePool core - ((s.squadsOn core).map fun e => if e.2.halted then 0 else s.tileClaim e.1 e.2).sum
    subs := (c.tiles.filter fun t => t.2.context == logContext ctx && t.2.deferred.isNone).map fun (t : Nat × Tile) => t.1 / 4
    sectors := c.sectors
    draining := decide (0 < c.draining)
    allocs := s.allocations core
    shares := ((s.teamsOn core).map fun t => (t.1.stackBase, t.2.stack / 512)).filter fun a => decide (0 < a.2) }

/-- What a team of a launch needs (R50, R205). -/
def Launch.need (l : Launch) : Need where
  squads := l.squads
  regs := l.squads * l.floor
  tiles := if l.accums = 0 then 0 else l.squads
  granules := granules l.scratch
  share := l.stack / 512

/-! ## Clusters (R50, R52, R153, R368, R377) -/

/-- The cores of a cluster that a context may use: those of its place table, in logical order (R377). -/
def State.tableCores (s : State) (ctx cl : Nat) : List Nat :=
  let l := (clusterCores cl).filterMap fun c => (s.logicalCore? ctx c).map fun n => (n, c)
  (l.foldl (fun (t : Tbl Nat) x => Tbl.set t x.1 x.2) []).map (·.2)

/-- Whether a context may seat a gang on a cluster: leased, no other context's team there, and the cluster fused as the
launch asks, or empty (R19, R50, R153, R368). -/
def State.clusterOpen (s : State) (ctx cl : Nat) (fused : Bool) : Bool :=
  let on := (clusterCores cl).flatMap fun c => s.teamsOn c
  s.leaseOf 0 cl == some ctx && on.all fun t => t.2.context == ctx && (s.cluster cl).fused == fused

/-- The clusters that a context leases and its table names, in order of logical die and logical cluster (R227). -/
def State.clustersOf (s : State) (ctx : Nat) : List Nat :=
  let l := (List.range 160).filterMap fun cl =>
    if s.leaseOf 0 cl = some ctx then
      match s.logicalCluster? ctx cl, s.logicalDie? ctx (cl / 20) with
      | some k, some d => some (d * 160 + k, cl)
      | _, _ => none
    else none
  (l.foldl (fun (t : Tbl Nat) x => Tbl.set t x.1 x.2) []).map (·.2)

/-- The place of a core among those that the model tries: those whose ways have drained for the launch come first, then those with most
free slots (R52: the choice is the device's; log 28). -/
def Room.rank (r : Room) : Nat := r.slots.sum + if r.drained then 1000 else 0

/-- Cores in the order in which the model tries them, equal ones in the given order. -/
def byFreeSlots (l : List (Nat × Room)) : List (Nat × Room) :=
  l.foldl (fun acc x =>
    let before := acc.takeWhile fun y => decide (x.2.rank ≤ y.2.rank)
    before ++ x :: acc.drop before.length) []

/-- Seats for equal teams on distinct cores of one cluster (R50): the cores in ascending logical order. -/
def seatEqual (rooms : List (Nat × Room)) (n : Need) (teams : Nat) : Option (List (Nat × Room × Seat)) :=
  let l := ((byFreeSlots rooms).filterMap fun x => (x.2.take n).map fun r => (x.1, r.1, r.2)).take teams
  if l.length = teams then some ((rooms.filterMap fun x => l.find? fun y => y.1 == x.1)) else none

/-- Seats for the teams of a saved gang on distinct cores, each core list in the order of choice (R344). -/
def seatEach : List (Need × List (Nat × Room)) → List Nat → Option (List (Nat × Room × Seat))
  | [], _ => some []
  | (n, rooms) :: more, taken =>
    rooms.foldl (fun acc x => match acc with
      | some r => some r
      | none =>
        if taken.contains x.1 then none
        else match x.2.take n with
          | none => none
          | some (r, t) => (seatEach more (x.1 :: taken)).map ((x.1, r, t) :: ·)) none

/-- The rooms of a cluster's usable cores. -/
def State.rooms (s : State) (ctx cl : Nat) : List (Nat × Room) := (s.tableCores ctx cl).map fun c => (c, s.room c ctx)

/-- Whether a core's ways drain, or have drained, for an admission of a launch (R148). -/
def State.drainsFor (s : State) (l : Launch) (core : Nat) : Bool :=
  ((s.core core).drainFor.bind s.launches.get?).any fun x => x.id == l.id && x.context == l.context

/-- The rooms of a cluster for a launch. -/
def State.roomsFor (s : State) (l : Launch) (cl : Nat) : List (Nat × Room) :=
  (s.rooms l.context cl).map fun x => (x.1, { x.2 with drained := s.drainsFor l x.1 })

/-- Whether the admission of a launch's gang on some clusters still waits for ways to drain (R148): no other core drains for it. -/
def State.drainsOn (s : State) (l : Launch) (clusters : List Nat) : Bool :=
  s.cores.any fun c => decide (0 < c.2.draining) && clusters.contains (clusterOf c.1) && s.drainsFor l c.1

/-! ## The save area (R337, R416) -/

/-- Pages of a team's reservation (R337). -/
def Launch.teamPages (l : Launch) : Nat :=
  let n := 65536 + l.squads * (327680 + 128 * l.regs + 4112 * l.accums) + (if 1 ≤ l.accums then 786432 else 0) +
    4096 * granules l.scratch + l.stack
  (n + 4095) / 4096

/-- Pages of a gang's reservation; a cooperative launch has a page of its own besides (R337; log 29). -/
def Launch.gangPages (l : Launch) : Nat := l.teams * l.teamPages + 1

/-- Pages of the directory (R416). -/
def State.directoryPages (s : State) (ctx : Nat) : Nat := (s.savePages ctx + 4095) / 4096

/-- The gangs whose images lie in one save area (R337). -/
def State.savedIn (s : State) (ctx : Nat) : List (Nat × Gang) :=
  s.gangs.filter fun g => ((s.launches.get? g.2.launch).map fun l => logContext l.context) == some (logContext ctx)

/-- The pages of a save area that are reserved, as first page and count (R337). -/
def State.reserved (s : State) (ctx : Nat) : List (Nat × Nat) :=
  (s.savedIn ctx).map (fun g => (g.2.page, g.2.pages)) ++
    ((s.launches.filter fun l => logContext l.2.context == logContext ctx).filterMap fun l => l.2.place.map (·, 1))

/-- The lowest run of free pages of the save area, besides some pages already taken (R416). -/
def State.placeRun (s : State) (ctx pages : Nat) (also : List (Nat × Nat)) : Option Nat :=
  let held := s.reserved ctx ++ also
  let d := s.directoryPages ctx
  let cand := (d :: held.map fun a => a.1 + a.2).filter fun b =>
    decide (b + pages ≤ s.savePages ctx) && apartFrom held b pages
  cand.foldl (fun acc b => match acc with
    | none => some b
    | some c => some (min b c)) none

/-- A run of pages for a gang's images and the lowest unused directory entry, besides some places already taken (R416). -/
def State.placeImage (s : State) (ctx pages : Nat) (also : List (Nat × Nat)) (entries : List Nat) : Option (Nat × Nat) :=
  let used := (s.savedIn ctx).map (fun g => g.2.directory) ++ entries
  match s.placeRun ctx pages also, (List.range (used.length + 1)).find? fun e => !used.contains e with
  | some b, some e => some (b, e)
  | _, _ => none

/-- Clear a page of memory of a context. -/
def State.clearHeader (s : State) (ctx page : Nat) : State :=
  (s.devWrite ctx (s.saveBase ctx + 4096 * page) (List.replicate 64 0)).1

/-- The page of a team's image place. -/
def Gang.teamPage (g : Gang) (l : Launch) (t : Nat) : Nat := g.page + 1 + t * l.teamPages

/-! ## Creating a gang (R53, R54) -/

/-- The generator of a squad at creation (R110). -/
def rngOf (seed : DWord) (gang team sq : Nat) : DWord :=
  mix (seed ^^^ BitVec.ofNat 64 (gang * 2 ^ 13) ^^^ BitVec.ofNat 64 (team * 2 ^ 8) ^^^ BitVec.ofNat 64 sq)

/-- A new squad (R54). -/
def newSquad (l : Launch) (team gang t sq core quarter : Nat) : Squad where
  team := team
  sq := sq
  core := core
  quarter := quarter
  sregs := tab 28 fun i => if i = 0 then 0 else l.args.getD (i - 1) 0
  tvec := l.trapEntry &&& 0x0000FFFFFFFFFFFC#64
  rng := rngOf l.seed gang t sq
  splits := [{ id := 0, pos := position (headerOf l.entry) 0, mask := 0xFFFFFFFF#32 }]

/-- The tensor table of a new team: the descriptors that TIDMASK names (R215). -/
def State.loadTensors (s : State) (l : Launch) : State × Vector Descriptor 32 :=
  (List.range 32).foldl (fun (acc : State × Vector Descriptor 32) n =>
    if has l.tidMask n then
      match acc.1.devRead l.context (l.tidTab.toNat + 32 * n) 32 with
      | (s, some b) => (s, put acc.2 n (installed (BitVec.ofNat 256 (leNat b)) l.scratch l.stack))
      | (s, none) => (s, acc.2)
    else acc) (s, tab 32 fun _ => 0)

/-- The lowest free squad slot of a quarter (R50). -/
def State.freeSlot (s : State) (core quarter : Nat) : Nat :=
  let used := ((s.squadsOn core).filter fun e => e.2.quarter == quarter).map fun (e : Nat × Squad) => e.2.slot
  ((List.range 16).find? fun n => !used.contains n).getD 0

/-- The generation tag of a squad slot (R335). -/
def State.slotGen (s : State) (core quarter slot : Nat) : BitVec 10 := (s.core core).gens.getD (16 * quarter + slot) 0

/-- A squad takes the lowest free slot of a quarter: what it issues carries the slot's generation tag (R50, R335). -/
def State.seatSquad (s : State) (k : Nat) (q : Squad) (core quarter : Nat) : State :=
  let slot := s.freeSlot core quarter
  let gen := s.slotGen core quarter slot
  s.setSquad k { q with
    core, quarter, slot, gen
    ops := q.ops.map fun o => { o with gen }
    commands := q.commands.map fun l => l.map fun (c : Command) => { c with gen } }

/-- A new team on a core (R52, R54, R146, R162, R306). -/
def State.newTeam (s : State) (gk : Nat) (l : Launch) (index t core : Nat) (seat : Seat) (tensors : Vector Descriptor 32) :
    State :=
  let key := s.nextId
  let quarters := (placeSquads l.squads (s.room core l.context).slots).1
  let sqs := quarters.zipIdx.map fun x => (key + 1 + x.2, newSquad l key index t x.2 core x.1)
  let all := List.range l.squads
  let team : Team := {
    gang := gk, index := t, core, squads := sqs.map (·.1), base := seat.base, stackBase := seat.stack, tensors
    barriers := tab 16 fun _ => { roster := all.map (32 * t + ·) } }
  let s := { s with nextId := key + 1 + l.squads, teams := s.teams.set key team }
  sqs.foldl (fun s e => s.seatSquad e.1 e.2 core e.2.quarter) s

/-- An L1 writes what is dirty home and holds no line any more (R151). -/
def State.emptyL1 (s : State) (core : Nat) : State :=
  let s := s.writeBack core fun _ => true
  s.setCore core { s.core core with lines := [] }

/-- A cluster passes to a context, or takes the first gang while no team is there, and with it a launch's fused mode: its L1s go home,
and the quarters start afresh when the context changes (R65, R151, R153). -/
def State.takeCluster (s : State) (ctx cl : Nat) (fused : Bool) : State :=
  let x := s.cluster cl
  let empty := (clusterCores cl).all fun c => (s.teamsOn c).isEmpty
  if x.last = some ctx ∧ empty = false then s
  else
    let s := (clusterCores cl).foldl (fun s c => s.emptyL1 c) s
    let s := if x.last = some ctx then s else
      (clusterCores cl).foldl (fun s c => s.setCore c { s.core c with
        quarters := (s.core c).quarters.map fun (x : Quarter) => { tlb := x.tlb } }) s
    s.setCluster cl { s.cluster cl with last := some ctx, fused := if empty then fused else x.fused }

/-- The weights that a launch sets (R64). -/
def Context.setWeights (c : Context) (w : BitVec 16) : Context :=
  { c with weights := tab 4 fun i => let x := w.toNat / 2 ^ (4 * i) % 16; if x = 0 then at' c.weights i 1 else x }

/-- The image places of a gang: its own page and its teams'. -/
def Gang.places (g : Gang) (l : Launch) : List Nat := g.page :: ((List.range l.teams).map fun t => g.teamPage l t)

/-- The key of a freshness entry (R386). -/
def freshKeyOf (ctx page : Nat) : Nat := ctx * 2 ^ 32 + page

/-- Image places are reserved: their headers read 0, and a protected context has a freshness entry for each (R386, R416). -/
def State.reservePlaces (s : State) (ctx : Nat) (pages : List Nat) : State :=
  let s := pages.foldl (fun s p => s.clearHeader ctx p) s
  if (s.context ctx).isProtected then
    pages.foldl (fun s p => { s with freshness := s.freshness.set (freshKeyOf ctx p) 0 }) s
  else s

/-- The ticket after one: 0 is none (R53). -/
def ticketAfter (t : Nat) : Nat := if t + 1 < 2 ^ 32 then t + 1 else 1

/-- The first ticket from one on that no gang holds, with fuel for each gang (R53). -/
def freeTicket (held : List Word) : Nat → Nat → Nat
  | 0, t => t
  | n + 1, t => if held.contains (BitVec.ofNat 32 t) then freeTicket held n (ticketAfter t) else t

/-- The tickets that gangs hold, those that a checkpoint can bring back among them (R53, R349). -/
def State.heldTickets (s : State) : List Word :=
  (s.gangs ++ s.parts.flatMap fun p => p.2.snapshots.flatMap (·.gangs)).map fun g => g.2.ticket

/-- The ticket of the next gang (R53). -/
def State.nextTicket (s : State) : Nat := freeTicket s.heldTickets s.heldTickets.length s.tickets

/-- Create a gang on its seats, with its place in the save area (R53, R54, R64, R337, R339, R416). -/
def State.createGang (s : State) (lk : Nat) (l : Launch) (index cl : Nat) (seats : List (Nat × Room × Seat))
    (page entry : Nat) : State :=
  let s := s.takeCluster l.context cl l.fused
  let gk := s.nextId
  let members := (List.range l.teams).flatMap fun t => (List.range l.squads).map (32 * t + ·)
  let ticket := s.nextTicket
  let g : Gang := {
    launch := lk, index, ticket := BitVec.ofNat 32 ticket, age := s.admissions, cluster := cl, teams := []
    barriers := tab 8 fun _ => { roster := members }
    routers := tab 4 fun _ => { roster := members }
    routerDie := cl / 20
    page, pages := l.gangPages, directory := entry }
  let s := { s with
    nextId := gk + 1
    tickets := ticketAfter ticket
    admissions := s.admissions + 1
    gangs := s.gangs.set gk g }
  let s := (seats.zipIdx).foldl (fun s x =>
    match s.loadTensors l with
    | (s, tensors) => s.newTeam gk l index x.2 x.1.1 x.1.2.2 tensors) s
  let teams := (s.teams.filter fun t => t.2.gang == gk).map (·.1)
  let s := s.setGang gk { g with teams }
  let s := s.setDirectory l.context entry l.id index (page + 1)
  let s := s.reservePlaces l.context (g.places l)
  if l.started then s
  else (s.setContext l.context ((s.context l.context).setWeights l.weights)).setLaunch lk { l with started := true }

/-- The cores on which ways have drained for an admission of a launch wait for it no longer: it has come, and the sectors that no
allocation holds leave (R147, R148). -/
def State.endDrains (s : State) (l : Launch) (clusters : List Nat) : State :=
  ((s.cores.map (·.1)).filter fun c => clusters.contains (clusterOf c) && s.drainsFor l c).foldl
    (fun s c => (s.setCore c { s.core c with drainFor := none }).shrinkRegion c) s

/-- Sectors that the seats of a launch's gang need begin to drain (R147, R148). -/
def State.startDrains (s : State) (lk : Nat) (seats : List (Nat × Room × Seat)) : State :=
  seats.foldl (fun s x =>
    let c := s.core x.1
    if 0 < x.2.2.grow ∧ c.draining = 0 then s.setCore x.1 { c with draining := x.2.2.grow, drainFor := some lk } else s) s

/-- Whether the admission for which a core's ways drain is still to come: the launch has not ended and its context still leases the
cluster (R148). -/
def State.drainAwaited (s : State) (core : Nat) : Bool :=
  match (s.core core).drainFor.bind s.launches.get? with
  | some l => l.ended.isNone && s.leaseOf 0 (clusterOf core) == some l.context
  | none => false

/-- SECTOR_JOIN (R148): the lines of a draining way have gone, and its sector, cleared, joins the region; the highest way comes
first (log 107). After the last of an abandoned admission, the sectors that hold no allocation leave again. -/
def State.sectorJoin (s : State) (core : Nat) : State :=
  let c := s.core core
  if c.draining = 0 then s
  else
    let way := 15 - c.sectors
    let s := ((c.lines.filter fun e => e.2.way == way).map (·.1)).foldl (fun s l => s.dropLine core l) s
    let c := s.core core
    let s := s.setCore core { c with sectors := min 14 (c.sectors + 1), draining := c.draining - 1 }
    if (s.core core).draining = 0 ∧ s.drainAwaited core = false then s.shrinkRegion core else s

/-- Sectors that joined for an admission that does not come any more leave (R148). -/
def State.dropDrained (s : State) : State :=
  ((s.cores.filter fun c => decide (c.2.draining = 0) && c.2.drainFor.isSome).map (·.1)).foldl
    (fun s c => if s.drainAwaited c then s else (s.setCore c { s.core c with drainFor := none }).shrinkRegion c) s

/-- SECTOR_JOIN (R148). -/
def execSectorJoin (core : Nat) (s : State) : Host.Outcome State Fault Refusal := .next (s.sectorJoin core)

end Sys2Proof.Machine
end

