-- ==== Sys2Proof/Machine/Launches.lean ====
section
/-! DEFINITION. Launches: the launch block (R225, R226), claiming and admission (R50, R51, R227, R229), the end of a
launch that can never run (R337, R370), and the wake interrupt (R230). -/

namespace Sys2Proof.Machine

/-! ## The launch block (R226) -/

/-- A field of the block, `n` bytes at an offset. -/
def field (b : List Byte) (at_ n : Nat) : Nat := leNat ((b.drop at_).take n)

/-- Bits `hi` to `lo` of a number. -/
def slice (x hi lo : Nat) : Nat := x / 2 ^ lo % 2 ^ (hi + 1 - lo)

/-- The partition and the interface that a fault record names, and the stage of its fault: 2, 1, or 0 for the handle table (R179,
R186). -/
def faultVf (b : List Byte) : Nat := slice (field b 16 8) 40 36
def faultIface (b : List Byte) : Nat := slice (field b 16 8) 35 16
def faultStage (b : List Byte) : Nat :=
  if (field b 16 8).testBit 7 then 2 else if inPodWindow (field b 0 8) then 0 else 1

/-- The launch that a block describes. -/
def parseBlock (ctx id : Nat) (blk : DWord) (b : List Byte) : Launch :=
  let flags := field b 4 4
  let shape := field b 28 4
  let gangs := field b 24 4
  let dw := fun (o : Nat) => BitVec.ofNat 64 (field b o 8)
  { context := ctx, id, block := blk
    coop := flags.testBit 0, fused := flags.testBit 1, wdist := flags.testBit 2, dep := flags.testBit 3
    wakeIrq := flags.testBit 4
    entry := dw 8, trapEntry := dw 16
    gangCount := if gangs = 0 then 2 ^ 32 else gangs
    squads := slice shape 4 0 + 1, teams := slice shape 7 5 + 1, regs := slice shape 12 8 + 1
    floor := slice shape 17 13 + 1, accums := slice shape 21 18, cls := slice shape 23 22
    weights := BitVec.ofNat 16 (field b 32 2)
    scratch := field b 36 4, stack := field b 40 4
    args := (List.range (min 14 (field b 44 4))).map fun k => dw (120 + 8 * k)
    seed := dw 48, tidMask := BitVec.ofNat 32 (field b 56 4), tidTab := dw 64
    tiles := field b 72 4, iters := field b 76 4
    prodBlock := dw 80, depMap := field b 88 4 % 8, depParam := field b 88 4 / 256
    wakeAddr := dw 96, wakeWindow := field b 104 4, vector := field b 108 2
    podTag := field b 112 2, podCount := max 1 (field b 114 1), bitmap := dw 232 }

/-- A clause position with its reserved bits 0 (R28). -/
def cleanPosition (v : Nat) : Bool := decide (v / 2 ^ 51 = 0) && decide (v % 4 = 0)

/-- Whether every field of a block is in range and every reserved one 0 (R226, R229, R405). -/
def blockOk (blk : DWord) (b : List Byte) (l : Launch) : Bool :=
  decide (field b 0 4 = 0x0100) && decide (field b 4 4 < 32) &&
  cleanPosition (field b 8 8) && cleanPosition (field b 16 8) &&
  decide (field b 28 4 < 2 ^ 24) && decide (l.accums ≤ 8) && decide (l.floor ≤ l.regs) &&
  decide (l.squads * l.accums ≤ 64) &&
  decide (field b 34 2 = 0) &&
  decide (l.scratch % 128 = 0) && decide (l.scratch ≤ 917504) &&
  decide (l.stack % 4096 = 0) && decide (l.stack ≤ 2097152) &&
  decide (field b 44 4 ≤ 14) && decide (field b 60 4 = 0) &&
  (!l.wdist || (decide (1 ≤ l.tiles) && decide (l.tiles ≤ 2 ^ 24))) &&
  decide (1 ≤ l.iters) && decide (l.iters < 2 ^ 19) &&
  decide (field b 88 4 / 8 % 32 = 0) && decide (l.depMap ≤ 4) &&
  (decide (l.depParam ≠ 0) || (decide (l.depMap ≠ 3) && decide (l.depMap ≠ 4))) &&
  decide (field b 92 4 = 0) && decide (l.wakeWindow ≤ 1000000) && decide (field b 110 2 = 0) &&
  decide (field b 115 1 = 0) &&
  decide (blk.toNat % 64 = 0) && decide (l.tidTab.toNat % 32 = 0) && decide (l.wakeAddr.toNat % 8 = 0) &&
  decide (l.bitmap.toNat % 8 = 0)

/-! ## Whether a launch could ever run (R337, R370) -/

/-- Teams of a launch that cores can seat, as many as `fuel`, the emptiest cores first: how many gangs fit a cluster. -/
def gangsFit (n : Need) (teams : Nat) : Nat → List (Nat × Room) → Nat
  | 0, _ => 0
  | fuel + 1, rooms =>
    match seatEqual rooms n teams with
    | none => 0
    | some l => 1 + gangsFit n teams fuel (rooms.map fun x => match l.find? fun y => y.1 == x.1 with
      | some y => (x.1, y.2.1)
      | none => x)

/-- Clusters that a partition could lease: its fixed units and the open pool's (R370). -/
def State.leasable (s : State) (vf : Nat) : Nat :=
  ((List.range 8).map fun d => s.fixedUnits vf 0 d + s.openUnits 0 d).sum

/-- NOFIT (R51, R337, R370): a gang that can never fit the save area, or a cooperative launch that the partition's
clusters could never hold. -/
def State.neverFits (s : State) (l : Launch) : Bool :=
  let room := s.savePages l.context - s.directoryPages l.context
  let perCluster := gangsFit l.need l.teams 512 ((List.range 8).map fun c => (c, {}))
  decide (room < l.gangPages) ||
  (l.coop && (decide (perCluster * s.leasable (contextVf l.context) < l.gangCount) ||
    decide (room < l.gangCount * l.gangPages + 1)))

/-! ## The launch entry (R225, R226) -/

/-- A context that is not in the table is created, with the next number of its interface: its usage counters start at 0 (R330, R362,
R369). -/
def State.createContext (s : State) (ctx : Nat) : State :=
  if (s.contexts.get? ctx).isSome then s
  else
    let others := (s.contexts.filter fun (c : Nat × Context) => c.1 / 4 == ctx / 4).map fun (c : Nat × Context) => c.2.number
    { s.setContext ctx { number := others.foldl (fun n x => max n (x + 1)) 0, dies := s.reg (contextBase ctx) } with fabric := { s.fabric with
    usage := s.fabric.usage.filter fun e => e.1 / 256 != ctx } }

/-- What was written before a submission is home, so that the launch's reads and fetches find it (R27, R225). -/
def State.publishAll (s : State) : State := (s.cores.map (·.1)).foldl (fun s c => s.writeBack c fun _ => true) s

/-- LAUNCH: the block is read; the launch starts, or ends at once (R225, R226, R230, R337, R370). -/
def State.submit (s : State) (ctx : Nat) (blk : DWord) : State :=
  let s := (s.createContext ctx).publishAll
  let x := s.context ctx
  let s := s.setContext ctx { x with launches := x.launches + 1 }
  let lk := s.nextId
  let s := { s with nextId := lk + 1 }
  match s.devRead ctx blk.toNat 256 with
  | (s, none) =>
    let s := s.setLaunch lk { context := ctx, id := x.launches, block := blk, ended := some 5 }
    let s := (s.devWrite ctx (blk.toNat + 116) (leBytes (5 + 256) 4)).1
    s.event2 (contextVf ctx) (contextIface ctx) (eventRecord evSubmit 0 x.launches 0 0 0)
  | (s, some b) =>
    let l := parseBlock ctx x.launches blk b
    let s := s.setLaunch lk l
    let r := match s.devRead ctx l.tidTab.toNat 1024 with
      | (s, t) => (s, t.isSome)
    if !blockOk blk b l || !r.2 then r.1.endLaunch lk 5
    else if r.1.neverFits l then r.1.endLaunch lk 2
    else r.1

/-- An entry is performed: of a protected context's queue the one whose number is expected, and the next number is expected then;
none while the queue is halted or exhausted (R389). -/
def State.accept (s : State) (ctx : Nat) : Option State :=
  let x := s.context ctx
  if x.isProtected then x.expect.map fun e => s.setContext ctx { x with expect := if e = 2 ^ 64 - 1 then none else some (e + 1) }
  else some s

/-- LAUNCH (R226): an entry that is performed. An interface that holds a protected context takes entries of that context alone (R400,
R402); a slot is a field of two bits (R402). -/
def execLaunch (vf iface slot : Nat) (blk : DWord) (s : State) : Host.Outcome State Fault Refusal :=
  .next (if slot % 4 ≠ 0 ∧ (s.context (contextKey vf iface 0)).isProtected then s
    else ((s.accept (contextKey vf iface (slot % 4))).map fun s => s.submit (contextKey vf iface (slot % 4)) blk).getD s)

/-! ## Claiming and admission (R50, R51, R204, R227, R229) -/

/-- CKCTL of a partition (R347). -/
def ckCtl (vf : Nat) : Nat := partBase vf + 0x500

/-- Whether a checkpoint with STOP set keeps the contexts of a context's partition halted (R347, R348). -/
def State.stoppedPart (s : State) (ctx : Nat) : Bool := (s.parts.getD (contextVf ctx) {}).stopped

/-- A saved gang that waits only for admission (R204): one whose contexts a checkpoint has stopped stays halted (R347). -/
def State.waitsForAdmission (s : State) (g : Gang) : Bool :=
  g.phase == .saved && !g.refused &&
    match s.launches.get? g.launch with
    | some l => !l.suspended && !s.stoppedPart l.context
    | none => false

/-- Whether a context has a saved gang that waits only for admission: it holds back the context's new gangs (R204). -/
def State.heldBack (s : State) (ctx : Nat) : Bool :=
  s.gangs.any fun g => s.waitsForAdmission g.2 && ((s.launches.get? g.2.launch).map (·.context)) == some ctx

/-- Whether a session lets its context's launches be admitted (R393). -/
def State.sessionOpen (s : State) (ctx : Nat) : Bool :=
  !(s.context ctx).isProtected || bits (s.reg (ifaceBase (contextVf ctx) (contextIface ctx) + 0x030)) 63 62 == 0

/-- Whether a launch may take new gangs. -/
def State.takesGangs (s : State) (l : Launch) : Bool :=
  l.ended.isNone && !l.suspended && !s.heldBack l.context && s.sessionOpen l.context && !s.stoppedPart l.context

/-- A cluster of a die that can seat a gang of a launch, with the seats (R50, R227). -/
def State.findSeats (s : State) (l : Launch) (clusters : List Nat) : Option (Nat × List (Nat × Room × Seat)) :=
  clusters.foldl (fun acc cl => match acc with
    | some r => some r
    | none =>
      if s.clusterOpen l.context cl l.fused then
        (seatEqual (s.roomsFor l cl) l.need l.teams).map (cl, ·)
      else none) none

/-- The clusters that a context holds on a die. -/
def State.clustersOn (s : State) (ctx die : Nat) : List Nat := (s.clustersOf ctx).filter fun c => c / 20 == die

/-- The producer's final status, read from its block: whether it has ended otherwise than OK (R229). -/
def State.producerFailed (s : State) (l : Launch) : State × Bool :=
  match s.devRead l.context (l.prodBlock.toNat + 116) 4 with
  | (s, some b) => (s, (leNat b).testBit 8 && decide (leNat b % 256 ≠ 0))
  | (s, none) => (s, false)

/-- GANG_CLAIM (R227, R229): a die with a cluster that can admit a gang takes the next number. -/
def State.claimGang (s : State) (die lk : Nat) : State :=
  match s.launches.get? lk with
  | none => s
  | some l =>
    if l.coop || !s.takesGangs l || l.closed.contains die || (l.claimed.get? die).isSome ||
        (s.findSeats l (s.clustersOn l.context die)).isNone then s
    else
      match s.devAdd l.context (l.block.toNat + 240) 1 with
      | (s, none) => s
      | (s, some g) =>
        if l.gangCount ≤ g then s.setLaunch lk { l with closed := l.closed ++ [die] }
        else
          let s := s.setLaunch lk { l with claimed := l.claimed.set die g }
          if l.dep then
            match s.producerFailed l with
            | (s, true) => s.endLaunch lk 3
            | (s, false) => s
          else s

/-- GANG_CLAIM (R227). -/
def execGangClaim (die launch : Nat) (s : State) : Host.Outcome State Fault Refusal := .next (s.claimGang die launch)

/-- Whether the producer's gangs that a consumer gang needs have ended (R229). -/
def needed (map param g gangs p : Nat) : Bool :=
  decide (p < gangs) &&
  (if map = 0 then decide (p = g)
   else if map = 1 then true
   else if map = 2 then decide (g ≤ p + param) && decide (p ≤ g + param)
   else if map = 3 then decide (g / param * param ≤ p) && decide (p < g / param * param + param)
   else decide (p % param = g % param))

/-- Whether every word of a bitmap has the bits that a gang needs. -/
def State.bitmapHas (s : State) (ctx bitmap map param g gangs : Nat) : Nat → State × Bool
  | 0 => (s, true)
  | n + 1 =>
    match s.bitmapHas ctx bitmap map param g gangs n with
    | (s, false) => (s, false)
    | (s, true) =>
      let need := (List.range 64).filter fun i => needed map param g gangs (64 * n + i)
      if need.isEmpty then (s, true)
      else
        match s.devWord ctx (bitmap + 8 * n) with
        | (s, some v) => (s, need.all v.testBit)
        | (s, none) => (s, false)

/-- Whether the dependence of a gang is met: its producer's bits, read at package scope (R229). Where the producer's block or its bitmap
cannot be read, which R229 leaves open, the model lets the gang wait (log 131). -/
def State.depMet (s : State) (l : Launch) (g : Nat) : State × Bool :=
  if !l.dep then (s, true)
  else
    match s.devRead l.context l.prodBlock.toNat 256 with
    | (s, none) => (s, false)
    | (s, some b) =>
      let gangs := if field b 24 4 = 0 then 2 ^ 32 else field b 24 4
      -- the words that can hold a needed bit
      let top := if l.depMap = 0 then g + 1 else if l.depMap = 2 then g + l.depParam + 1
        else if l.depMap = 3 then g / l.depParam * l.depParam + l.depParam else gangs
      s.bitmapHas l.context (field b 232 8) l.depMap l.depParam g gangs ((min gangs top + 63) / 64)

/-- Whether freshness entries are left for a protected gang (R386). -/
def State.freshRoom (s : State) (l : Launch) (gangs : Nat) : Bool :=
  !(s.context l.context).isProtected ||
    decide (s.freshness.length + gangs * (l.teams + 1) + (if l.coop then 1 else 0) ≤ 16384)

/-- GANG_ADMISSION (R50): the gang that a die has claimed is admitted on seats, or its sectors begin to drain. -/
def State.admitGang (s : State) (die lk : Nat) : State :=
  match s.launches.get? lk with
  | none => s
  | some l =>
    match l.claimed.get? die with
    | none => s
    | some g =>
      if !s.takesGangs l || !s.freshRoom l 1 || s.drainsOn l (s.clustersOn l.context die) then s
      else
        match s.depMet l g with
        | (s, false) => s
        | (s, true) =>
          match s.findSeats l (s.clustersOn l.context die), s.placeImage l.context l.gangPages [] [] with
          | some (cl, seats), some (page, entry) =>
            if seats.any fun x => decide (0 < x.2.2.grow) then s.startDrains lk seats
            else
              let s := s.setLaunch lk { l with claimed := l.claimed.erase die }
              match s.launches.get? lk with
              | some l => (s.createGang lk l g cl seats page entry).endDrains l (s.clustersOn l.context die)
              | none => s
          | _, _ => s

/-- GANG_ADMISSION (R50). -/
def execGangAdmission (die launch : Nat) (s : State) : Host.Outcome State Fault Refusal :=
  .next (s.admitGang die launch)

/-- Seats for gangs one after another over clusters with their rooms, with fuel for each gang and each cluster: cluster
and seats of each (R227). -/
def seatGangs (n : Need) (teams : Nat) : Nat → Nat → List (Nat × List (Nat × Room)) → List (Nat × List (Nat × Room × Seat))
  | 0, _, _ => []
  | _, 0, _ => []
  | _, _, [] => []
  | fuel + 1, want + 1, (cl, rooms) :: more =>
    match seatEqual rooms n teams with
    | some l =>
      let rooms := rooms.map fun x => match l.find? fun y => y.1 == x.1 with
        | some y => (x.1, y.2.1)
        | none => x
      (cl, l) :: seatGangs n teams fuel want ((cl, rooms) :: more)
    | none => seatGangs n teams fuel (want + 1) more

/-- Image places for as many gangs one after another, besides some places already taken. -/
def State.placeImages (s : State) (l : Launch) : Nat → List (Nat × Nat) → List Nat → Option (List (Nat × Nat))
  | 0, _, _ => some []
  | n + 1, pages, entries =>
    match s.placeImage l.context l.gangPages pages entries with
    | none => none
    | some (p, e) => (s.placeImages l n (pages ++ [(p, l.gangPages)]) (entries ++ [e])).map ((p, e) :: ·)

/-- Gang places in ascending order: the clusters come in order, and within one the lowest core of each gang (R227). -/
def orderPlaces (l : List (Nat × List (Nat × Room × Seat))) (cores : Nat → List Nat) : List (Nat × List (Nat × Room × Seat)) :=
  let low := fun (x : Nat × List (Nat × Room × Seat)) =>
    ((cores x.1).findIdx fun c => (x.2.map (·.1)).contains c)
  l.foldl (fun acc x =>
    let before := acc.takeWhile fun y => y.1 != x.1 || decide (low y ≤ low x)
    before ++ x :: acc.drop before.length) []

/-- COOP_ADMISSION (R51, R227): every gang of a cooperative launch at once, or none. -/
def State.admitAll (s : State) (lk : Nat) : State :=
  match s.launches.get? lk with
  | none => s
  | some l =>
    if !l.coop || l.started || !s.takesGangs l || !s.freshRoom l l.gangCount || s.drainsOn l (s.clustersOf l.context) then s
    else
      let r := if l.dep then s.producerFailed l else (s, false)
      let s := r.1
      if r.2 then s.endLaunch lk 3
      else
        let met := if l.dep then (List.range l.gangCount).foldl (fun (acc : State × Bool) g =>
            if acc.2 then acc.1.depMet l g else acc) (s, true) else (s, true)
        let s := met.1
        let clusters := (s.clustersOf l.context).filter fun cl => s.clusterOpen l.context cl l.fused
        -- no cluster holds more than 512 gangs: its cores have 512 squad slots
        if !met.2 || decide (512 * clusters.length < l.gangCount) then s
        else
          let seats := seatGangs l.need l.teams (l.gangCount + clusters.length) l.gangCount (clusters.map fun cl => (cl, s.roomsFor l cl))
          if seats.length < l.gangCount then s
          else
            match s.placeRun l.context 1 [], (s.placeRun l.context 1 []).bind fun p => s.placeImages l l.gangCount [(p, 1)] [] with
            | some page, some places =>
              if seats.any fun x => x.2.any fun y => decide (0 < y.2.2.grow) then
                seats.foldl (fun s x => s.startDrains lk x.2) s
              else
                match s.devAdd l.context (l.block.toNat + 240) l.gangCount with
                | (s, none) => s
                | (s, some _) =>
                  let s := (s.reservePlaces l.context [page]).setLaunch lk { l with place := some page }
                  let order := orderPlaces seats fun cl => s.tableCores l.context cl
                  (((order.zip places).zipIdx).foldl (fun s x =>
                    match s.launches.get? lk with
                    | some l => s.createGang lk l x.2 x.1.1.1 x.1.1.2 x.1.2.1 x.1.2.2
                    | none => s) s).endDrains l clusters
            | _, _ => s

/-- COOP_ADMISSION (R227). -/
def execCoopAdmission (launch : Nat) (s : State) : Host.Outcome State Fault Refusal := .next (s.admitAll launch)

/-! ## The wake interrupt (R230) -/

/-- The window of a vector ends: one interrupt covers every wake word written since it began (R230). -/
def State.wakeInterrupt (s : State) (vf iface vector : Nat) : State :=
  let key := (vf * 64 + iface) * 2 ^ 16 + vector
  match s.wakes.get? key with
  | none => s
  | some _ => { s with wakes := s.wakes.erase key, out := s.out ++ [.interrupt (2 + vf) vector] }

/-- WAKE_INTERRUPT (R230). -/
def execWakeInterrupt (vf iface vector : Nat) (s : State) : Host.Outcome State Fault Refusal :=
  .next (s.wakeInterrupt vf iface vector)

end Sys2Proof.Machine
end

