-- ==== Sys2Proof/Machine/Image.lean ====
section
/-! DEFINITION. The bytes of save images (R336, R339 to R343, R416). The places of fields that the spec names without an
offset are the model's (log 30). -/

namespace Sys2Proof.Machine

/-- Bytes padded with zeros to a multiple of `n`. -/
def padTo (n : Nat) (b : List Byte) : List Byte := b ++ List.replicate ((n - b.length % n) % n) 0

/-- Bytes cut or padded to exactly `n`. -/
def fitTo (n : Nat) (b : List Byte) : List Byte := (b ++ List.replicate n 0).take n

/-- The bytes of a list of values of one width. -/
def bytesOf {α : Type} (l : List α) (f : α → Nat) (n : Nat) : List Byte := (l.map fun x => leBytes (f x) n).flatten

/-! ## The header (R339) -/

/-- What a header says but for COUNTER and TAG. -/
structure Header where
  kind : Nat
  cause : Nat
  pages : Nat
  launch : Nat
  gang : Nat
  team : Nat := 0
  squads : Nat
  age : Nat
  tiles : Nat := 0
  mats : Nat := 0
  reps : Nat := 0

/-- The first 48 bytes of a header (R339). -/
def Header.bytes (h : Header) (counter : Nat) : List Byte :=
  leBytes (0x0100 + h.kind * 2 ^ 16 + h.cause * 2 ^ 24 + h.pages % 2 ^ 32 * 2 ^ 32) 8 ++
  leBytes counter 8 ++ leBytes h.launch 8 ++
  leBytes (h.gang % 2 ^ 32 + h.team % 8 * 2 ^ 32 + h.squads % 64 * 2 ^ 40) 8 ++
  leBytes h.age 8 ++
  leBytes (h.tiles % 256 + h.mats % 256 * 2 ^ 8 + h.reps % 2 ^ 16 * 2 ^ 16) 8

/-- An image: what its header says, its bytes, and the ranges of them that a commit leaves unwritten (R343). -/
structure Img where
  head : Header
  body : List Byte
  holes : List (Nat × Nat) := []

/-! ## Barriers (R312, R416) -/

/-- A set of members as a bit mask. -/
def memberMask (l : List Nat) (f : Nat → Nat) : Nat := (l.foldl (fun acc m => acc ||| 2 ^ f m) 0)

/-- A team barrier's record (R312). -/
def Barrier.teamRecord (b : Barrier) : List Byte :=
  leBytes (memberMask b.roster (· % 32)) 4 ++ leBytes (memberMask b.arrived (· % 32)) 4 ++
  leBytes (if b.phase then 1 else 0) 8

/-- A gang barrier's record (R416). -/
def Barrier.gangRecord (b : Barrier) : List Byte :=
  leBytes (memberMask b.roster id) 32 ++ leBytes (memberMask b.arrived id) 32 ++ leBytes (if b.phase then 1 else 0) 16

/-! ## Squad records (R341) -/

/-- A split's place in a squad record (R71, R341). -/
def Split.bytes (p : Split) : List Byte := leBytes p.pos.toNat 8 ++ leBytes p.mask.toNat 4 ++ leBytes (if p.held then 1 else 0) 4

/-- The outstanding service calls of a squad. -/
def Squad.calls (q : Squad) : List (Op × Nat × DWord × Option DWord) :=
  q.ops.filterMap fun o => match o.kind with
    | .svc _ r a v => if o.finished then none else some (o, r, a, v)
    | _ => none

/-- The code of a service call's word. -/
def Op.serviceCode (o : Op) : Nat := (encodeWord o.instr).toNat % 512

/-- A squad record (R341). No result is ever owed: a CLAIM, XQ or ACQP that has its result has written it. -/
def squadRecord (t : Team) (g : Gang) (l : Launch) (q : Squad) : List Byte :=
  let bound := memberMask ((List.range 32).filter fun n => (at' q.vregs n none).isSome) id
  let tiles := memberMask ((List.range 8).filter fun n => (at' q.accs n none).isSome) id
  let call := fun (c : Op × Nat × DWord × Option DWord) =>
    leBytes l.id 8 ++
    leBytes (g.index % 2 ^ 32 + t.index % 8 * 2 ^ 32 + q.sq % 32 * 2 ^ 35 + c.1.serviceCode * 2 ^ 40) 8 ++
    leBytes c.2.2.1.toNat 8 ++ leBytes c.1.pos.toNat 8 ++ leBytes ((c.2.2.2.getD 0).toNat) 8 ++
    leBytes (if c.2.2.2.isSome then 1 else 0) 8
  let dep := fun (d : PendingDeposit) => leBytes d.name.toNat 4 ++ leBytes d.lanes.toNat 4 ++ bytesOf d.data.toList BitVec.toNat 4
  fitTo 2048 (
    bytesOf q.sregs.toList BitVec.toNat 8 ++
    bytesOf [q.tvec, q.tpc, q.tcauseWord, q.tval, q.tmask] BitVec.toNat 8 ++
    leBytes q.mode.toNat 4 ++ leBytes q.xp.toNat 4 ++ leBytes q.fstat.toNat 8 ++ leBytes q.arrv.toNat 8 ++
    leBytes q.rng.toNat 8 ++ leBytes bound 4 ++ leBytes tiles 1 ++ leBytes q.splits.length 1 ++
    leBytes q.bench.length 1 ++ leBytes q.calls.length 1 ++ bytesOf q.preds.toList BitVec.toNat 4 ++
    leBytes q.busy.toNat 4 ++ leBytes (((List.range 5).map fun p => q.path p % 64 * 2 ^ (6 * p)).sum) 8 ++
    fitTo 64 ((q.splits.map Split.bytes).flatten) ++
    fitTo 128 ((q.bench.map fun b => leBytes b.pos.toNat 8 ++ leBytes b.mask.toNat 8).flatten) ++
    leBytes 0 8 ++ fitTo 192 ((q.calls.map call).flatten) ++ fitTo 408 ((q.deposits.map dep).flatten))

/-! ## Replay packets (R335, R336) -/

/-- The data of a lane in a packet: 4, 8, 16 or 32 bytes, or none (R336). -/
def laneBytes (b : List Byte) : List Byte := if b.isEmpty then [] else fitTo (max 4 b.length) b

/-- The address of each lane, and the data that an operation still has to write or send, lane by lane. A tile's words have one address,
their first element's, and their elements come from memory or from the tile (R251; log 30). -/
def Op.payload (o : Op) : List Byte :=
  match o.kind with
  | .deposit _ _ _ lanes data =>
    leBytes ((o.lanes.head?.map fun l => l.va.toNat).getD 0) 8 ++ ((lanesIn lanes).map fun i => leBytes (lane data i).toNat 4).flatten
  | .accLoad .. => leBytes ((o.lanes.head?.map fun l => l.va.toNat).getD 0) 8
  | .accStore _ => leBytes ((o.lanes.head?.map fun l => l.va.toNat).getD 0) 8
  | _ => (o.lanes.map fun l => leBytes l.va.toNat 8).flatten ++ (o.lanes.map fun l => laneBytes l.data).flatten

/-- The lanes that an operation acts on, as a packet says them (R336). -/
def Op.lanesField (o : Op) : Nat :=
  match o.kind with
  | .deposit _ _ _ lanes _ => lanes.toNat
  | .accRead _ _ _ lanes => lanes.toNat
  | .accWrite _ _ lanes _ => lanes.toNat
  | .accLoad .. => 1
  | .accStore _ => 1
  | _ => o.lanes.foldl (fun acc l => if l.lane < 32 then acc ||| 2 ^ l.lane else acc) 0

/-- The replay packet of an operation (R336). -/
def Op.packet (o : Op) (sq : Nat) : List Byte :=
  let data := o.payload
  let lanes := o.lanesField
  padTo 32 (leBytes o.pos.toNat 8 ++ leBytes (encodeWord o.instr).toNat 4 ++ leBytes ((literalOf o.instr).getD 0).toNat 4 ++
    leBytes (o.path.getD 7) 1 ++ leBytes (o.flag.getD 15) 1 ++
    leBytes ((if o.translate then 1 else 0) + (if o.loadClass then 2 else 0)) 1 ++ leBytes sq 1 ++
    leBytes lanes 4 ++ leBytes o.gen.toNat 4 ++ leBytes data.length 4 ++ data)

/-- The packet of an engine command: its words, its descriptors and its rows done (R336). -/
def Command.packet (c : Command) (sq : Nat) : List Byte :=
  let data := bytesOf c.words BitVec.toNat 8 ++ bytesOf [c.dst, c.src, c.idx] BitVec.toNat 32 ++ leBytes c.rows 8
  padTo 32 (leBytes c.pos.toNat 8 ++ leBytes c.word.toNat 4 ++ leBytes c.lit.toNat 4 ++ leBytes 4 1 ++ leBytes 15 1 ++
    leBytes (if c.translate then 1 else 0) 1 ++ leBytes sq 1 ++ leBytes 0 4 ++ leBytes c.gen.toNat 4 ++
    leBytes data.length 4 ++ data)

/-- Whether an operation is a matrix operation, saved as a record of its own (R342). -/
def OpKind.isMma : OpKind → Bool
  | .mma .. => true
  | _ => false

/-- Whether an operation becomes a replay packet: not a matrix word, nor a service call (R335, R341, R342). -/
def OpKind.isPacket : OpKind → Bool
  | .mma .. => false
  | .svc .. => false
  | _ => true

/-- The parked word of a halted squad as an operation: it was not issued, and is translated first (R182). -/
def Squad.parkedOp (q : Squad) : Option Op :=
  (q.captured.bind (·.op)).map fun o => { o with translate := true, gen := q.gen - 1 }

/-- Commands without a record, in the order in which they were pushed. -/
def Squad.openCommands (q : Squad) : List Command :=
  ((q.commands.toList.flatten.filter fun c => c.record.isNone).foldl (fun (t : Tbl Command) c => Tbl.set t c.seq c) []).map (·.2)

/-- What a replay packet holds: an outstanding operation, the parked word, or an engine command (R182, R335). -/
inductive Packet where
  | op (o : Op)
  | parked (o : Op)
  | command (c : Command)

/-- The path of a packet. -/
def Packet.path : Packet → Option Nat
  | .op o => o.path
  | .parked o => o.path
  | .command _ => some 4

/-- The bytes of a packet (R336). -/
def Packet.bytes (sq : Nat) : Packet → List Byte
  | .op o => o.packet sq
  | .parked o => o.packet sq
  | .command c => c.packet sq

/-- What a squad saves as packets: by path, then in issue order, the parked word last of its path, and those of no path last (R340). -/
def Squad.packetOrder (q : Squad) : List Packet :=
  let l := ((q.ops.filter fun o => !o.finished && o.kind.isPacket).map Packet.op) ++ q.parkedOp.toList.map Packet.parked ++
    q.openCommands.map Packet.command
  [some 0, some 1, some 2, some 3, some 4, none].flatMap fun p => l.filter fun x => x.path == p

/-- The packets of a squad (R340). -/
def Squad.packets (q : Squad) : List (List Byte) := q.packetOrder.map (Packet.bytes q.sq)

/-! ## Tiles and matrix operations (R342, R343) -/

/-- The status word of a saved tile (R243): no operation runs on it. -/
def Tile.status (t : Tile) (slot : Nat) : DWord :=
  BitVec.ofNat 64 (2 ^ 63 + slot / 4 % 16 * 2 ^ 12 + slot % 4 * 2 ^ 10 + (if t.isInt then 2 ^ 8 else 0) + (if t.ovf then 1 else 0))

/-- A tile record (R343); the elements of one with DEFER set are not written. -/
def tileRecord (name sq slot : Nat) (defer : Bool) (t : Tile) : List Byte :=
  leBytes (name + sq * 2 ^ 8 + (if defer then 2 ^ 16 else 0)) 8 ++ leBytes (t.status slot).toNat 8 ++
  (if defer then List.replicate 4096 0 else bytesOf t.words BitVec.toNat 4)

/-- Elements of one width, packed. -/
def packBits (bits : Nat) (l : List Nat) : List Byte :=
  leBytes ((l.zipIdx.map fun x => x.1 % 2 ^ bits * 2 ^ (bits * x.2)).sum) ((l.length * bits + 7) / 8)

/-- The operand snapshot of a matrix record (R239, R342). -/
def Operands.bytes (o : Operands) : List Byte :=
  packBits o.fmtA.bits o.a.flatten ++ bytesOf o.blkA.flatten id 1 ++ bytesOf o.bandA id 2 ++
  packBits o.fmtB.bits o.b.flatten ++ bytesOf o.blkB.flatten id 1 ++ bytesOf o.bandB id 2

/-- The fields of a part in a matrix record (R342). -/
def MmaPart.fields (p : MmaPart) : List Byte :=
  leBytes ((if p.finished then 2 ^ 9 else p.steps % 32 + (if p.ran then 2 ^ 8 else 0)) + p.sub % 16 * 2 ^ 12) 4

/-- CELLS of a part (R342): zero but for a part that was running (log 31). -/
def MmaPart.cellBytes (p : MmaPart) : List Byte :=
  if p.ran && !p.finished then (p.cells.map fun v => leBytes (v % 2 ^ 128).toNat 16).flatten else List.replicate 16384 0

/-- A matrix record (R342). -/
def Op.matrixRecord (o : Op) : List Byte :=
  match o.kind with
  | .mma ops ftz sat parts =>
    let n := parts.length
    let acc := ((encodeWord o.instr).toNat / 2 ^ 18) % 8
    let info := acc + (if ftz then 8 else 0) + (if sat then 16 else 0) + (if ops.fmtA.isInt then 32 else 0)
    fitTo 4096 (leBytes o.pos.toNat 8 ++ leBytes (encodeWord o.instr).toNat 4 ++ leBytes info 1 ++ leBytes n 1 ++ leBytes 0 2 ++
      (parts.map MmaPart.fields).flatten) ++
    fitTo (if n = 1 then 8192 else 16384) ops.bytes ++ (parts.map MmaPart.cellBytes).flatten
  | _ => []

/-! ## Images (R340, R416) -/

/-- The bytes of a team's queue ports in the header page: words of partly written commands, then records (R219, R340). -/
def Squad.portBytes (q : Squad) : List Byte :=
  ((List.range 3).map fun p => bytesOf (at' q.assembly p []) BitVec.toNat 8 ++
    bytesOf ((at' q.commands p []).filterMap (·.record)) BitVec.toNat 8).flatten

/-- The tiles of a team: squad, name, slot, tile and whether it is still in its slot (R343). -/
def State.savedTiles (s : State) (x : Saved) : List (Squad × Nat × Nat × Tile × Bool) :=
  (x.squads.map fun e => (List.range 8).filterMap fun n =>
    match at' e.2.accs n none with
    | none => none
    | some slot =>
      match x.tiles.find? fun t => t.1 == e.1 && t.2.1 == n with
      | some t => some (e.2, n, slot, t.2.2, false)
      | none => (s.tile x.team.core slot).map fun (t : Tile) => (e.2, n, slot, t, true)).flatten

/-- The sections of a team image before its tile records (R340). -/
def imageFront (g : Gang) (l : Launch) (x : Saved) : List Byte :=
  let t := x.team
  let queue := fun (p : PassQueue) => leBytes p.head 1 ++ leBytes p.tail 1 ++ leBytes p.count 6
  let page := List.replicate 64 0 ++ List.replicate 960 0 ++ bytesOf t.tensors.toList BitVec.toNat 32 ++
    (t.barriers.toList.map Barrier.teamRecord).flatten ++ (t.queues.toList.map queue).flatten ++
    (t.queues.toList.map fun p => (List.range 32).map fun i => BitVec.ofNat 8 (p.allowance i)).flatten ++
    leBytes 0 8 ++ leBytes (t.work.getD 0) 8 ++ (x.squads.map fun e => e.2.portBytes).flatten
  let regs := (x.squads.map fun e => (e.2.vregs.toList.filterMap id).map fun (b : Binding) => bytesOf b.lanes.toList BitVec.toNat 4).flatten.flatten
  fitTo 4096 page ++ padTo 4096 ((x.squads.map fun e => squadRecord t g l e.2).flatten) ++ padTo 4096 regs

/-- A team image, its header without COUNTER and TAG apart (R340). -/
def State.teamImage (s : State) (g : Gang) (l : Launch) (x : Saved) : Img :=
  let t := x.team
  let tiles := s.savedTiles x
  let mats := (x.squads.map fun e => e.2.ops.filter fun o => !o.finished && o.kind.isMma).flatten
  let packs := (x.squads.map fun e => e.2.packets).flatten
  let front := imageFront g l x
  let body := front ++
    padTo 4096 ((tiles.map fun y => tileRecord y.2.1 y.1.sq y.2.2.1 y.2.2.2.2 y.2.2.2.1).flatten) ++
    padTo 4096 ((mats.map Op.matrixRecord).flatten) ++ padTo 4096 packs.flatten ++
    readBytes t.scratch 0 (4096 * granules l.scratch) ++ padTo 4096 (readBytes t.stack 0 l.stack)
  { head := { kind := 1, cause := g.cause, pages := body.length / 4096, launch := l.id, gang := g.index, team := t.index,
              squads := l.squads, age := g.age, tiles := tiles.length, mats := mats.length, reps := packs.length }
    body
    holes := (tiles.zipIdx.filter fun y => y.1.2.2.2.2).map fun y => (front.length + 4112 * y.2 + 16, 4096) }

/-- A gang image (R416). -/
def State.gangImage (s : State) (g : Gang) (l : Launch) : Img :=
  let base := s.saveBase l.context
  let body := List.replicate 64 0 ++
    fitTo 64 (bytesOf ((List.range l.teams).map fun t => base + 4096 * g.teamPage l t) id 8) ++
    leBytes g.ticket.toNat 8 ++ leBytes ((l.place.map fun p => base + 4096 * p).getD 0) 8 ++ List.replicate 112 0 ++
    (g.barriers.toList.map Barrier.gangRecord).flatten ++ (g.routers.toList.map Barrier.gangRecord).flatten
  { head := { kind := 2, cause := g.cause, pages := 1, launch := l.id, gang := g.index, squads := l.squads, age := g.age }
    body := fitTo 4096 body }

/-- A launch image (R312, R340): for each router barrier its scope, then members, arrivals and phase of each instance. -/
def launchImage (g : Gang) (l : Launch) : Img :=
  let one := fun (r : RouterBarrier) =>
    leBytes (r.scope.getD 0) 8 ++ ((List.range 9).map fun i =>
      let b := r.instances.getD i {}
      leBytes b.roster.length 4 ++ leBytes b.arrived.length 4 ++ leBytes (if b.phase then 1 else 0) 8).flatten
  { head := { kind := 3, cause := g.cause, pages := 1, launch := l.id, gang := 0, squads := l.squads, age := g.age }
    body := fitTo 4096 (List.replicate 64 0 ++ (l.routers.toList.map one).flatten) }

/-- The ranges of a body that a write covers, from an offset to its end, with the holes left out; `holes` rises. -/
def writtenRanges (from_ last : Nat) : List (Nat × Nat) → List (Nat × Nat)
  | [] => if from_ < last then [(from_, last - from_)] else []
  | (h, n) :: more =>
    if h ≤ from_ then writtenRanges (max from_ (h + n)) last more
    else (from_, h - from_) :: writtenRanges (h + n) last more

/-- The bytes of an image as they are written: its body after the header, and the header with COUNTER and TAG. A protected
context's body is encrypted (R339, R385). -/
def State.sealed (s : State) (ctx counter : Nat) (img : Img) : List Byte × List Byte :=
  let x := s.context ctx
  let counter := if x.isProtected then counter else 0
  let head := img.head.bytes counter
  let body := img.body.drop 64
  if x.isProtected then
    let r := Config.gcmEncrypt x.contextKey counter head body
    (r.1, head ++ fitTo 16 r.2)
  else (body, head ++ List.replicate 16 0)

/-- Write the sections of images before their headers, the first under save counter `counter`: the pages and the headers still to
be written, or why the writes stop (R338). -/
def State.writeBodies (s : State) (ctx : Nat) : Nat → List (Nat × Img) → State × Except EngStop (List (Nat × Nat × List Byte))
  | _, [] => (s, .ok [])
  | counter, (page, img) :: more =>
    let va := s.saveBase ctx + 4096 * page
    let (body, head) := s.sealed ctx counter img
    let ranges := writtenRanges 64 img.body.length img.holes
    match s.spansWrite ctx deviceCore 4 (ranges.flatMap fun r => pageSpans (va + r.1) r.2)
        (ranges.flatMap fun r => (body.drop (r.1 - 64)).take r.2) with
    | (s, .error e) => (s, .error e)
    | (s, .ok _) =>
      match s.writeBodies ctx (counter + 1) more with
      | (s, .error e) => (s, .error e)
      | (s, .ok l) => (s, .ok ((page, counter, head) :: l))

/-- Write headers, each of which commits its image: a protected context's freshness entry then holds its counter (R338, R386). -/
def State.writeHeaders (s : State) (ctx : Nat) : List (Nat × Nat × List Byte) → State × Except EngStop Unit
  | [] => (s, .ok ())
  | (page, counter, head) :: more =>
    match s.spansWrite ctx deviceCore 4 (pageSpans (s.saveBase ctx + 4096 * page) 64) head with
    | (s, .error e) => (s, .error e)
    | (s, .ok _) =>
      let x := s.context ctx
      (if x.isProtected then
        { s.setContext ctx { x with counter } with freshness := s.freshness.set (freshKeyOf ctx page) counter } else s).writeHeaders
        ctx more

/-- Commit images at pages of the save area: every section of all of them before the first header, so that a write that stops
commits none (R337, R338). -/
def State.commitImages (s : State) (ctx : Nat) (l : List (Nat × Img)) : State × Except EngStop Unit :=
  match s.writeBodies ctx ((s.context ctx).counter + 1) l with
  | (s, .error e) => (s, .error e)
  | (s, .ok heads) => s.writeHeaders ctx heads

end Sys2Proof.Machine
end

