-- ==== Sys2Proof/Machine/Unpack.lean ====
section
/-! DEFINITION. What a restore reads back from the bytes of a committed image (R340, R341, R343, R344, R416): the state that the
spec gives a place in the image. What has no place in it, and what a packet's word is, come from what the image was written from
(log 32). -/

namespace Sys2Proof.Machine

/-! ## Records -/

/-- The members that a bit mask names. -/
def maskMembers (m n : Nat) : List Nat := (List.range n).filter fun i => m.testBit i

/-- A team barrier from its record (R312); one whose record is as it was written is kept. -/
def Barrier.ofTeamRecord (b : Barrier) (team : Nat) (r : List Byte) : Barrier :=
  if r = b.teamRecord then b
  else
    { roster := (maskMembers (field r 0 4) 32).map (32 * team + ·)
      arrived := (maskMembers (field r 4 4) 32).map (32 * team + ·)
      phase := (field r 8 1).testBit 0 }

/-- A gang barrier, or a sub-barrier, from its record (R416). -/
def Barrier.ofGangRecord (b : Barrier) (r : List Byte) : Barrier :=
  if r = b.gangRecord then b
  else
    { roster := maskMembers (field r 0 32) 256, arrived := maskMembers (field r 32 32) 256, phase := (field r 64 1).testBit 0 }

/-- The cells of bytes that are not 0, from address 0 up. -/
def cellsOf (b : List Byte) : List Host.Cell := (b.zipIdx.filter fun x => x.1 != 0).map fun x => (x.2, x.1)

/-- A pass queue from its pointers and allowances in the header page (R162, R340). -/
def PassQueue.ofBytes (p : PassQueue) (ptrs allow : List Byte) : PassQueue :=
  { p with
    head := field ptrs 0 1 % 64
    tail := field ptrs 1 1 % 64
    count := min 64 (field ptrs 2 1)
    allow := if allow = ((List.range 32).map fun i => BitVec.ofNat 8 (p.allowance i)) then p.allow
      else (allow.zipIdx.filter fun x => x.1 != 0).map fun x => (x.2, min 64 x.1.toNat) }

/-! ## Squads (R341) -/

/-- A clause position with its reserved bits 0 (R7, R28). -/
def positionOf (v : Nat) : DWord := BitVec.ofNat 64 (v / 2 ^ 48 % 8 * 2 ^ 48 + v % 2 ^ 48 / 4 * 4)

/-- Split `i` of a squad record. -/
def Squad.splitFrom (q : Squad) (r : List Byte) (i : Nat) : Split :=
  let at_ := 344 + 16 * i
  let old := q.splits.getD i
    { id := ((List.range 4).filter fun n => q.splits.all fun p => p.id != n).getD (i - q.splits.length) i, pos := 0, mask := 0 }
  { old with pos := if old.supplied then old.pos else positionOf (field r at_ 8), mask := BitVec.ofNat 32 (field r (at_ + 8) 4), held := (field r (at_ + 12) 1).testBit 0 }

/-- The vector names bound, and the lanes of each: `regs` are the bytes from the squad's first register on, and a name that was
not bound takes a register of the name `token + n` (R214). -/
def bindingsFrom (old : Vector (Option Binding) 32) (mask token : Nat) (regs : List Byte) : Vector (Option Binding) 32 :=
  tab 32 fun n =>
    if mask.testBit n then
      let i := ((List.range n).filter fun m => mask.testBit m).length
      let lanes := lanesOf fun k => BitVec.ofNat 32 (field regs (128 * i + 4 * k) 4)
      some { token := ((at' old n none).map (·.token)).getD (token + n), lanes }
    else none

/-- A pending deposit from its place in a squad record (R213, R341). -/
def PendingDeposit.ofRecord (r : List Byte) (i : Nat) : PendingDeposit :=
  let at_ := 736 + 136 * i
  { name := BitVec.ofNat 5 (field r at_ 4), lanes := BitVec.ofNat 32 (field r (at_ + 4) 4)
    data := lanesOf fun k => BitVec.ofNat 32 (field r (at_ + 8 + 4 * k) 4) }

/-- A pending service call with the reply that its place in a squad record holds (R93, R341). -/
def Op.withReply (o : Op) (r : List Byte) (i : Nat) : Op :=
  let at_ := 544 + 48 * i
  match o.kind with
  | .svc d idx _ _ =>
    let reply := if (field r (at_ + 40) 1).testBit 0 then some (BitVec.ofNat 64 (field r (at_ + 32) 8)) else none
    { o with kind := .svc d idx (BitVec.ofNat 64 (field r (at_ + 16) 8)) reply }
  | _ => o

/-- The operations of a squad with the calls of its record. -/
def Squad.callsFrom (q : Squad) (r : List Byte) : List Op :=
  let ids := q.calls.map fun c => c.1.id
  q.ops.map fun o => match ids.findIdx? (· == o.id) with
    | some i => o.withReply r i
    | none => o

/-- A squad from its record and its registers (R341). A reserved MODE value and a count out of range leave what was written. R341 gives
no place to the split that was served last: the model keeps its own, so that the round of R65 goes on after it (log 32). -/
def Squad.ofRecord (q : Squad) (r regs : List Byte) (token : Nat) : Squad :=
  let count := field r 301 1
  let splits := if 1 ≤ count ∧ count ≤ 4 then (List.range count).map (q.splitFrom r) else q.splits
  let active := (field r 240 8).testBit 63
  let mode : BitVec 32 := BitVec.ofNat 32 (field r 264 4)
  { q with
    sregs := tab 28 fun n => if n = 0 then at' q.sregs 0 0 else BitVec.ofNat 64 (field r (8 * n) 8)
    tvec := BitVec.ofNat 64 (field r 224 8) &&& 0x0000FFFFFFFFFFFC#64
    tpc := positionOf (field r 232 8)
    tcause := BitVec.ofNat 6 (field r 240 1)
    active
    tval := BitVec.ofNat 64 (field r 248 8)
    tmask := BitVec.ofNat 64 (field r 256 8)
    mode := if modeLegal mode then mode else q.mode
    xp := xpWrite (BitVec.ofNat 32 (field r 268 4))
    fstat := BitVec.ofNat 5 (field r 272 1)
    arrv := BitVec.ofNat 64 (field r 280 8)
    rng := BitVec.ofNat 64 (field r 288 8)
    vregs := bindingsFrom q.vregs (field r 296 4) token regs
    preds := tab 7 fun n => BitVec.ofNat 32 (field r (304 + 4 * n) 4)
    splits
    bench := if field r 302 1 ≤ 8 then (List.range (field r 302 1)).map fun i =>
        { pos := positionOf (field r (408 + 16 * i) 8), mask := BitVec.ofNat 32 (field r (416 + 16 * i) 4) }
      else q.bench
    deposits := (List.range q.deposits.length).map (PendingDeposit.ofRecord r)
    ops := q.callsFrom r
    handler := if active then some (q.handler.getD ((splits.head?.map (·.id)).getD 0)) else none }

/-- The number of vector names that a squad record binds. -/
def boundIn (r : List Byte) : Nat := (maskMembers (field r 296 4) 32).length

/-- Squads from their records, in order, with the bytes of the vector section from the first squad's registers on. -/
def squadsFrom (records regs : List Byte) (token : Nat) : List (Nat × Squad) → List (Nat × Squad)
  | [] => []
  | (k, q) :: l =>
    let r := records.take 2048
    (k, q.ofRecord r regs token) :: squadsFrom (records.drop 2048) (regs.drop (128 * boundIn r)) (token + 32) l

/-! ## Matrix records and packets (R336, R342) -/

/-- Elements of one width, unpacked: `n` of them. -/
def unpackBits (bits n : Nat) (b : List Byte) : List Nat :=
  let v := leNat (b.take ((n * bits + 7) / 8))
  (List.range n).map fun i => v / 2 ^ (bits * i) % 2 ^ bits

/-- A flat list cut into rows as another list has them. -/
def likeRows : List (List Nat) → List Nat → List (List Nat)
  | [], _ => []
  | r :: rs, l => l.take r.length :: likeRows rs (l.drop r.length)

/-- One region of an operand snapshot from its bytes, and what follows it: elements, block scales, band scales (R239, R342). -/
def regionFrom (bits : Nat) (e k : List (List Nat)) (band : List Nat) (b : List Byte) :
    (List (List Nat) × List (List Nat) × List Nat) × List Byte :=
  let n := e.flatten.length
  let kb := b.drop ((n * bits + 7) / 8)
  let bb := kb.drop k.flatten.length
  ((likeRows e (unpackBits bits n b), likeRows k (unpackBits 8 k.flatten.length kb), unpackBits 16 band.length bb), bb.drop (2 * band.length))

/-- An operand snapshot from its bytes (R239, R342). -/
def Operands.ofBytes (o : Operands) (b : List Byte) : Operands :=
  let x := regionFrom o.fmtA.bits o.a o.blkA o.bandA b
  let y := regionFrom o.fmtB.bits o.b o.blkB o.bandB x.2
  { o with a := x.1.1, blkA := x.1.2.1, bandA := x.1.2.2, b := y.1.1, blkB := y.1.2.1, bandB := y.1.2.2 }

/-- A matrix operation from its record: its operands, and the progress and the cells of its parts (R252, R342). -/
def Op.ofMatrixRecord (o : Op) (r : List Byte) : Op :=
  match o.kind with
  | .mma ops ftz sat parts =>
    let cells := 4096 + if parts.length = 1 then 8192 else 16384
    { o with kind := .mma (ops.ofBytes (r.drop 4096)) ftz sat (parts.zipIdx.map fun x =>
        let f := field r (16 + 4 * x.2) 4
        { x.1 with
          steps := if f.testBit 9 then x.1.steps else f % 32
          ran := f.testBit 8
          finished := f.testBit 9
          cells := if f.testBit 8 ∧ f.testBit 9 = false then
            (List.range 1024).map fun e => (BitVec.ofNat 128 (field r (cells + 16384 * x.2 + 16 * e) 16)).toInt else [] }) }
  | _ => o

/-- Lanes with the addresses and the data that a packet holds for them; `n` is where the next lane's data lie (R336). -/
def lanesFrom (r : List Byte) : Nat → Nat → List LaneAccess → List LaneAccess
  | _, _, [] => []
  | i, n, l :: ls =>
    { l with va := BitVec.ofNat 64 (field r (32 + 8 * i) 8), data := (r.drop n).take l.data.length } ::
      lanesFrom r (i + 1) (n + (laneBytes l.data).length) ls

/-- An operation from its packet, if the packet has its length (R336). -/
def Op.ofPacket (o : Op) (r : List Byte) : Op :=
  if field r 28 4 ≠ o.payload.length then o
  else
    let o := { o with gen := BitVec.ofNat 10 (field r 24 4), translate := (field r 18 1).testBit 0 }
    match o.kind with
    | .deposit n t q lanes data =>
      let at_ := fun (k : Nat) => 40 + 4 * ((lanesIn lanes).filter fun j => decide (j < k)).length
      { o with kind := .deposit n t q lanes (lanesOf fun k => if has lanes k then BitVec.ofNat 32 (field r (at_ k) 4) else lane data k) }
    | .accLoad .. => o
    | .accStore _ => o
    | _ => { o with lanes := lanesFrom r 0 (32 + 8 * o.lanes.length) o.lanes }

/-- An engine command from its packet, if the packet has its length (R336). -/
def Command.ofPacket (c : Command) (r : List Byte) : Command :=
  let n := 8 * c.words.length
  if field r 28 4 ≠ n + 104 then c
  else
    { c with
      words := (List.range c.words.length).map fun i => BitVec.ofNat 64 (field r (32 + 8 * i) 8)
      dst := BitVec.ofNat 256 (field r (32 + n) 32), src := BitVec.ofNat 256 (field r (64 + n) 32)
      idx := BitVec.ofNat 256 (field r (96 + n) 32), rows := field r (128 + n) 8
      gen := BitVec.ofNat 10 (field r 24 4), translate := (field r 18 1).testBit 0 }

/-- One packet of a squad is read back. -/
def Squad.takePacket (q : Squad) (r : List Byte) : Packet → Squad
  | .op o => { q with ops := q.ops.map fun y => if y.id = o.id then y.ofPacket r else y }
  | .parked _ => { q with captured := q.captured.map fun x => { x with op := x.op.map fun y => y.ofPacket r } }
  | .command c => { q with commands := q.commands.map fun l => l.map fun y => if y.seq = c.seq ∧ y.record.isNone then y.ofPacket r else y }

/-- The packets of a squad are read back, and the bytes that follow them (R335, R340). -/
def Squad.packetsFrom (q : Squad) (b : List Byte) : Squad × List Byte :=
  q.packetOrder.foldl (fun acc p =>
    let n := (field acc.2 28 4 + 63) / 32 * 32
    (acc.1.takePacket (acc.2.take n) p, acc.2.drop n)) (q, b)

/-- The matrix records of a squad are read back, and the bytes that follow them (R342). -/
def Squad.matsFrom (q : Squad) (b : List Byte) : Squad × List Byte :=
  (q.ops.filter fun o => !o.finished && o.kind.isMma).foldl (fun acc o =>
    let n := o.matrixRecord.length
    ({ acc.1 with ops := acc.1.ops.map fun y => if y.id = o.id then y.ofMatrixRecord (acc.2.take n) else y }, acc.2.drop n)) (q, b)

/-- Something of each squad is read back from one section after another. -/
def eachFrom (f : Squad → List Byte → Squad × List Byte) : List (Nat × Squad) → List Byte → List (Nat × Squad)
  | [], _ => []
  | (k, q) :: l, b => (k, (f q b).1) :: eachFrom f l (f q b).2

/-! ## Images (R340) -/

/-- A tile that its image holds, from its record (R343). -/
def Tile.ofRecord (t : Tile) (r : List Byte) : Tile :=
  { t with words := (List.range 1024).map fun i => BitVec.ofNat 32 (field r (16 + 4 * i) 4)
           isInt := (field r 9 1).testBit 0, ovf := (field r 8 1).testBit 0 }

/-- The bound accumulator names of a saved team in the order of its tile records (R343). -/
def Saved.tileOrder (x : Saved) : List (Nat × Nat) :=
  (x.squads.map fun e => ((List.range 8).filter fun n => (at' e.2.accs n none).isSome).map fun n => (e.1, n)).flatten

/-- A saved team from the bytes of its image (R340, R344). -/
def Saved.ofImage (x : Saved) (l : Launch) (b : List Byte) (tileBase token : Nat) : Saved :=
  let t := x.team
  let records := b.drop 4096
  let regs := records.drop ((2048 * x.squads.length + 4095) / 4096 * 4096)
  let stackBytes := (l.stack + 4095) / 4096 * 4096
  let scratchAt := b.length - stackBytes - 4096 * granules l.scratch
  let team : Team := { t with
    tensors := tab 32 fun n => BitVec.ofNat 256 (field b (0x400 + 32 * n) 32)
    barriers := tab 16 fun n => (at' t.barriers n {}).ofTeamRecord t.index ((b.drop (0x800 + 16 * n)).take 16)
    queues := tab 8 fun n =>
      (at' t.queues n {}).ofBytes ((b.drop (0x900 + 8 * n)).take 8) ((b.drop (0x940 + 32 * n)).take 32)
    work := if field b 0xA48 8 = t.work.getD 0 then t.work else some (field b 0xA48 8)
    scratch := cellsOf ((b.drop scratchAt).take l.scratch)
    stack := cellsOf ((b.drop (b.length - stackBytes)).take l.stack) }
  let mats := b.drop (tileBase + (4112 * x.tileOrder.length + 4095) / 4096 * 4096)
  let packs := mats.drop ((x.squads.map fun e => ((e.2.ops.filter fun o => !o.finished && o.kind.isMma).map fun o => o.matrixRecord.length).sum).sum)
  { team
    squads := eachFrom Squad.packetsFrom (eachFrom Squad.matsFrom (squadsFrom records regs token x.squads) mats) packs
    kept := x.kept
    tiles := x.tiles.map fun y =>
      let i := x.tileOrder.findIdx fun e => e == (y.1, y.2.1)
      (y.1, y.2.1, y.2.2.ofRecord ((b.drop (tileBase + 4112 * i)).take 4112)) }

/-- A saved team as a restore finds it (R344): read from its image, or, with a protected context or an image that cannot be read,
as the image was written. -/
def State.readTeam (s : State) (g : Gang) (l : Launch) (x : Saved) : State × Saved :=
  if (s.context l.context).isProtected then (s, x)
  else
    let va := s.saveBase l.context + 4096 * g.teamPage l x.team.index
    let tileBase := (imageFront g l x).length
    match s.devRead l.context va 8 with
    | (s, none) => (s, x)
    | (s, some h) =>
      if field h 0 2 ≠ 0x0100 ∨ field h 2 1 ≠ 1 ∨ field h 4 4 * 4096 < tileBase then (s, x)
      else
        match s.devRead l.context va (4096 * field h 4 4) with
        | (s, none) => (s, x)
        | (s, some b) => ({ s with nextId := s.nextId + 32 * x.squads.length }, x.ofImage l b tileBase s.nextId)

/-- Saved teams one after another. -/
def State.readTeams (s : State) (g : Gang) (l : Launch) : List (Nat × Saved) → State × List (Nat × Saved)
  | [] => (s, [])
  | (k, x) :: more =>
    match s.readTeam g l x with
    | (s, x) => match s.readTeams g l more with
      | (s, r) => (s, (k, x) :: r)

/-- The gang's ticket, barriers and sub-barriers from its image (R344, R416). -/
def State.readGang (s : State) (g : Gang) (l : Launch) : State × Gang :=
  if (s.context l.context).isProtected then (s, g)
  else
    match s.devRead l.context (s.saveBase l.context + 4096 * g.page) 1216 with
    | (s, none) => (s, g)
    | (s, some b) =>
      if field b 0 2 ≠ 0x0100 ∨ field b 2 1 ≠ 2 then (s, g)
      else (s, { g with
        ticket := BitVec.ofNat 32 (field b 128 4)
        barriers := tab 8 fun n => (at' g.barriers n {}).ofGangRecord ((b.drop (256 + 80 * n)).take 80)
        routers := tab 4 fun n => (at' g.routers n {}).ofGangRecord ((b.drop (896 + 80 * n)).take 80) })

end Sys2Proof.Machine
end

