-- ==== Sys2Proof/Machine/Halt.lean ====
section
/-! DEFINITION. Halting a gang, committing its image, spilling tiles and restoring it (R203, R204, R252, R255, R313,
R332 to R346, R387). What a restore takes from the bytes of an image, and what from what the image was written from, is said
in Unpack.lean (log 32); of a protected image the header and the tag are read back. -/

namespace Sys2Proof.Machine

/-! ## Spilling tiles (R255, R343) -/

/-- A write of the save area has met a translation fault: a record goes to its owner, and what writes waits (R337). -/
def State.writeFault (s : State) (core ctx k split va : Nat) (f : WalkFault) (kind : AccessKind) : State :=
  let c := s.core core
  match c.freeFault with
  | none => s
  | some e =>
    let gen := c.faultGen.getD e 0 + 1
    let x : Fault2 := { squad := k, split, owner := .level0, lane := 0, va := BitVec.ofNat 64 va, gen, op := none, kind, bytes := [] }
    (s.setCore core { c with faults := c.faults.set e x, faultGen := c.faultGen.set e gen }).sendFault core e x ctx f kind

/-- Whether a write of a squad's save area waits for an answer to its record. -/
def State.writeWaits (s : State) (core split : Nat) (keys : List Nat) : Bool :=
  (s.core core).faults.any fun f => f.2.split == split && keys.contains f.2.squad

/-- A deferred tile is written to its record, which loses DEFER, and leaves its slot (R343); it stays while the write waits for an
answer, and an answer FAIL or ACCESS ends the launch (R337). -/
def State.spillTile (s : State) (core slot : Nat) : State :=
  match s.tile core slot with
  | none => s
  | some t =>
    match t.deferred with
    | none => s
    | some n =>
      let c := s.core core
      let gone := s.setCore core { c with tiles := c.tiles.erase slot }
      match s.saved.find? fun x => x.2.squads.any fun e => e.1 == t.squad with
      | none => gone
      | some (tk, x) =>
        match (s.gangs.get? x.team.gang), (s.gangs.get? x.team.gang).bind fun g => s.launches.get? g.launch with
        | some g, some l =>
          if s.writeWaits core 9 [t.squad] then s
          else
            let i := (s.savedTiles x).findIdx fun y => y.2.2.1 == slot && y.2.1 == n
            let sq := ((x.squads.find? fun e => e.1 == t.squad).map fun e => e.2.sq).getD 0
            let va := s.saveBase l.context + 4096 * g.teamPage l x.team.index + (imageFront g l x).length + 4112 * i
            let t' := { t with deferred := none }
            match s.spansWrite l.context deviceCore 4 (pageSpans va 4112) (tileRecord n sq slot false t') with
            | (s, .ok _) =>
              { s.setCore core { s.core core with tiles := (s.core core).tiles.erase slot } with
                saved := s.saved.set tk { x with tiles := x.tiles ++ [(t.squad, n, t')] } }
            | (s, .error (.fault va f kind)) => s.writeFault core l.context t.squad 9 va f kind
            | (s, .error _) => s.endLaunch g.launch 4
        | _, _ => gone

/-- Spill the deferred tiles of a core that satisfy a test. -/
def State.spillTiles (s : State) (core : Nat) (p : Nat → Tile → Bool) : State :=
  ((s.core core).tiles.filter fun t => t.2.deferred.isSome && p t.1 t.2).foldl (fun s t => s.spillTile core t.1) s

/-- FIRST_USE_EVENT: the tiles of another context than that of a squad which waits are spilled, and AOWN names the new
context (R255). -/
def State.firstUse (s : State) (core : Nat) : State :=
  match (s.squadsOn core).find? fun e => e.2.splits.any fun p => p.wait == some .firstUse with
  | none => s
  | some (_, q) =>
    let ctx := s.contextOf q
    let s := s.spillTiles core fun _ t => t.context != logContext ctx
    if (s.core core).tiles.any fun t => t.2.context != logContext ctx then s
    else s.setCore core { s.core core with aown := ownerWord ctx }

/-- FIRST_USE_EVENT (R255). -/
def execFirstUseEvent (core : Nat) (s : State) : Host.Outcome State Fault Refusal := .next (s.firstUse core)

/-- The full sub-arrays on which a squad of a core waits for a slot. -/
def State.fullSubs (s : State) (core : Nat) : List Nat :=
  (((s.squadsOn core).filter fun e => !e.2.halted).flatMap fun e => e.2.splits.flatMap fun p => match p.wait with
    | some (.tile l) => l
    | _ => []).filter fun b => ((s.core core).slots [b] []).isNone

/-- A squad that waits for a slot on a full sub-array gets one that a deferred tile of its own context holds (R343). -/
def State.yieldSlot (s : State) (core : Nat) : State :=
  let subs := s.fullSubs core
  match (s.core core).tiles.find? fun t => t.2.deferred.isSome && subs.contains (t.1 / 4) with
  | some (slot, _) => s.spillTile core slot
  | none => s

/-! ## Halting (R333 to R335) -/

/-- The squads of a gang. -/
def State.gangSquads (s : State) (gk : Nat) : List (Nat × Squad) :=
  s.squads.filter fun e => ((s.teams.get? e.2.team).map (·.gang)) == some gk

/-- The tokens and requests of a squad return (R269, R333). -/
def State.dropTokens (s : State) (k : Nat) (q : Squad) : State :=
  let s := q.splits.foldl (fun s p => (s.dropRequests q.core k p.id).giveTokens q.core p.tokenSum) s
  let s := ((s.dropRecords q.core k).endBlocks q.core k 0).endBlocks q.core k 1
  let x := s.cluster (clusterOf q.core)
  let mine := x.holds.filter fun h => h.2.squad == k
  let y := mine.foldl (fun y h => Cluster.giveBack y h.2.stop h.2.tokens) x
  if mine.isEmpty then s else s.setCluster (clusterOf q.core) { y with holds := x.holds.filter fun h => h.2.squad != k }

/-- A split of a halted squad: stalled words are halted unissued, and its clause is fetched again (R71, R76, R333). -/
def Split.halted (p : Split) : Split :=
  { p with clause := none, begun := false, tokens := [], captured := false, wait := none, walked := none, owed := none,
           supplied := false, awaiting := false }

/-- Whether a fault-buffer entry belongs to a collective that combines, which a halt does not touch (R224, R334). -/
def Squad.combines (q : Squad) (entry : Nat) (x : Fault2) : Bool :=
  x.split == 6 && (at' q.commands 2 []).any fun c => c.collective.isSome && (c.fault.map (·.1)) == some entry

/-- Issue stops on a squad: tokens, walks, fault-buffer entries, the locks of its CLAIMs and waiting pops go (R182, R185, R195, R333). An
entry of a command becomes the mark that its packet is translated first; a command stops at a row boundary, so that a row of which only
some blocks are written is written again (R224, R415). -/
def State.stopSquad (s : State) (k : Nat) : State :=
  match s.squads.get? k with
  | none => s
  | some q =>
    let s := (s.unlockSquad k).dropTokens k q
    let x := s.die (dieOf q.core)
    let s := s.setDie (dieOf q.core) { x with walks := x.walks.filter fun w => w.squad != k }
    let c := s.core q.core
    let kept := c.faults.filter fun f => f.2.squad == k && decide (f.2.split < 4) && f.2.op.isSome
    let s := s.setCore q.core { c with faults := c.faults.filter fun f => f.2.squad != k || q.combines f.1 f.2 }
    let s := match s.teams.get? q.team with
      | none => s
      | some t => s.setTeam q.team { t with
          queues := t.queues.map fun (x : PassQueue) => { x with waiting := x.waiting.filter fun w => w.1 != k } }
    s.onSquad k fun q => { q with
      splits := q.splits.map Split.halted
      parked := none
      captured := ((kept.head?).map fun (f : Nat × Fault2) => f.2).or q.captured
      commands := q.commands.map fun l => l.map fun (c : Command) =>
        if c.collective.isSome then c else { c with fault := none, translate := c.translate || c.fault.isSome, blocks := 0, upto := 0 } }

/-- Whether an operation is a queued ACCWR: it has its full effect before a halt (R250, R253). -/
def OpKind.isRowWrite : OpKind → Bool
  | .accWrite .. => true
  | _ => false

/-- A window access of a squad that halts is carried to its target, after the squad's earlier accesses but for those that wait at a
memory controller or at a passing home (R161). -/
def State.carryWindow (s : State) (k id : Nat) : State := (s.performInOrder k id).perform k id

/-- The lanes of an ACCLD whose elements a later ACCWR writes need no load: they hold what it writes (R242, R253). -/
def Op.overwritten (o : Op) (row : Nat) (m : Mask) (data : Lanes) : Op :=
  { o with lanes := o.lanes.map fun l =>
      if l.lane / 32 = row ∧ has m (l.lane % 32) then { l with result := elementBytes (lane data (l.lane % 32)), finished := true } else l }

/-- A queued ACCWR of a squad that halts takes effect after what precedes it on its tile: a matrix record that asks for tokens asks no
longer, and an ACCLD that waits keeps what the word writes over what it will load (R250, R253; log 31). -/
def State.carryRowWrite (s : State) (k id : Nat) : State :=
  match s.squads.get? k with
  | none => s
  | some q =>
    let asking := (q.ops.filter (·.asks)).map (·.id)
    let s := s.onSquad k fun q => { q with ops := q.ops.map fun o => { o with asks := false } }
    let s := (s.perform k id).onSquad k fun q => { q with ops := q.ops.map fun o => { o with asks := asking.contains o.id } }
    match s.op? k id with
    | none => s
    | some (q, o) =>
      let before := q.earlierOnTiles id o.kind.tiles
      let waits := fun (x : Op) => match x.kind with
        | .accLoad .. => s.heldOp x
        | _ => false
      match o.kind, before.getLast? with
      | .accWrite _ row m data, some b =>
        if q.ops.all fun x => !before.contains x.id || waits x then (s.onOp k b fun x => x.overwritten row m data).finishOp k id else s
      | _, _ => s

/-- Window accesses are carried to their targets, and queued ACCWRs take effect after what precedes them on their tiles (R161, R167,
R253, R333). -/
def State.carryWindows (s : State) (k : Nat) : State :=
  match s.squads.get? k with
  | none => s
  | some q =>
    let s := ((q.ops.filter fun o => !o.finished && o.isWindow).map (·.id)).foldl (fun s id => s.carryWindow k id) s
    ((q.ops.filter fun o => !o.finished && o.kind.isRowWrite).map (·.id)).foldl (fun s id => s.carryRowWrite k id) s

/-- A combining collective of a squad runs on, whatever the halt (R224, R334). -/
def State.carryCollective (s : State) (k : Nat) : State :=
  match (s.squads.get? k).bind fun q => (q.nextCommand 2).bind fun c => c.2.collective with
  | none => s
  | some id => s.runInTurn id

/-- Whether a squad takes part in a collective that combines. -/
def State.combining (s : State) (k : Nat) : Bool :=
  ((s.squads.get? k).bind fun q => (q.nextCommand 2).bind fun c => c.2.collective).isSome

/-- One deposit at a halt: applied, pending at its target while that holds fewer than three, or left with its sender as
every later one of the sender to the target is (R213). `left` holds the targets that have refused one (true), or hold one
pending (false). One that an earlier access of its sender keeps from leaving is left with it. -/
def State.carryDeposit (acc : State × List (Nat × Nat × Bool)) (k id : Nat) : State × List (Nat × Nat × Bool) :=
  let (s, left) := acc
  match s.op? k id with
  | none => acc
  | some (q, o) =>
    match o.kind with
    | .deposit n team sq lanes data =>
      if left.contains (team, sq, true) then acc
      else
        let s := if left.contains (team, sq, false) then s.depositLeaves k id else s.depositOne k id
        match s.op? k id with
        | none => (s, left)
        | some (_, o) =>
          let pend := ((s.depositTarget q team sq).bind (·.2)).bind fun t => (s.squads.get? t).map fun x => (t, x)
          match pend with
          | none => (s.depositOne k id, left)
          | some (t, x) =>
            if o.performed ∧ x.deposits.length < 3 then
              ((s.onSquad t fun x => { x with deposits := x.deposits ++ [⟨n, lanes, data⟩] }).finishOp k id, left ++ [(team, sq, false)])
            else (s, left ++ [(team, sq, true)])
    | _ => acc

/-- The deposits of a squad at a halt (R213). -/
def State.carryDeposits (s : State) (k : Nat) : State :=
  let ids := ((s.squads.get? k).map fun q => (q.ops.filter fun o => !o.finished).map (·.id)).getD []
  (ids.foldl (fun acc id => State.carryDeposit acc k id) (s, [])).1

/-- A running part stops at a k-step boundary, with the exact sums of its cells there (R252). Which boundary is free (log 31). -/
def MmaPart.stopped (p : MmaPart) (o : Operands) (t : Tile) (v : Nat) : MmaPart :=
  let kb := o.fmtA.kb
  let n := p.steps + v % (32 - p.steps)
  { p with ran := true, steps := n
           cells := (List.range 1024).map fun e =>
             o.partialSum kb (p.rowBase + e / 32) (p.colBase + e % 32) (n * (kb / 32)) (p.incoming t e) }

/-- The sub-arrays on which an operation of a squad runs: it stands first there (R232). -/
def Core.runsOn (c : Core) (k id : Nat) : List Nat :=
  (c.subs.filter fun e => (e.2.head?.map fun x => (x.1, x.2.1)) == some (k, id)).map (·.1)

/-- The first part on a sub-array that is not done stops. -/
def stopParts (o : Operands) (tile : Nat → Option Tile) (v : Nat) (sub : Nat) (l : List MmaPart) : List MmaPart :=
  match l.findIdx? fun p => p.sub == sub && !p.finished with
  | none => l
  | some i => l.zipIdx.map fun x => if x.2 = i then ((tile x.1.tile).map fun t => x.1.stopped o t v).getD x.1 else x.1

/-- What a matrix operation is when its squad has halted: its running parts have stopped (R252); of a record that still asks for tokens
none runs (R269, R342). -/
def Op.stopRunning (o : Op) (c : Core) (k : Nat) (v : Nat → Nat) : Op :=
  match o.kind with
  | .mma ops ftz sat parts =>
    if o.asks then { o with asks := false }
    else { o with kind := .mma ops ftz sat ((c.runsOn k o.id).foldl (fun l b => stopParts ops c.tiles.get? (v b) b l) parts) }
  | _ => o

/-- A CLAIM starts over after a halt: pages that it has moved then count as home (R185). -/
def Op.restart (o : Op) : Op :=
  match o.kind with
  | .claim d _ last _ _ _ => { o with kind := .claim d ((o.lanes.head?.map fun l => l.va.toNat).getD 0) last 0 0 0 }
  | _ => o

/-- A squad's matrix words stop and leave their sub-arrays, what is outstanding becomes packets, and the generation tag of its slot
advances: from now on no return of what it issued is taken (R252, R335). -/
def State.packSquad (s : State) (k : Nat) : State :=
  match s.squads.get? k with
  | none => s
  | some q =>
    let c := s.core q.core
    let v := fun (b : Nat) => (Config.freeWord (s.fresh + b)).toNat
    let ops := ((settled q.ops []).map fun o => { o with reads := [] }).map fun o => (o.stopRunning c k v).restart
    let s := (q.ops.map (·.id)).foldl (fun s id => s.leaveSubs q.core k id) { s with fresh := s.fresh + 16 }
    let c := s.core q.core
    let s := s.setCore q.core { c with gens := c.gens.set (16 * q.quarter + q.slot) (q.gen + 1) }
    s.onSquad k fun q => { q with gen := q.gen + 1, halted := true, retired := [], ops }

/-- The first-use spills that members wait for complete (R334, R346). -/
def State.carrySpills (s : State) (keys : List Nat) : State :=
  (distinct ((s.squads.filter fun e => keys.contains e.1 && e.2.splits.any fun p => p.wait == some .firstUse).map
    fun (e : Nat × Squad) => e.2.core)).foldl State.firstUse s

/-- Halt one running gang (R333, R334). -/
def State.haltOne (s : State) (gk cause : Nat) : State :=
  let keys := (s.gangSquads gk).map (·.1)
  let s := (s.routerPending.filter fun r => r.1 == gk).foldl (fun s r => s.routeArrival r.1 r.2) s
  let s := (keys.foldl (fun s k => s.carryCollective k) s).carrySpills keys
  let s := keys.foldl (fun s k => s.stopSquad k) s
  let s := keys.foldl (fun s k => s.carryWindows k) s
  let s := keys.foldl (fun s k => s.carryDeposits k) s
  let s := keys.foldl (fun s k => s.packSquad k) s
  match s.gangs.get? gk with
  | none => s
  | some g => { s.setGang gk { g with phase := .halted, cause, haltOrder := s.halts } with halts := s.halts + 1 }

/-- The context of a gang's launch. -/
def State.gangContext (s : State) (g : Gang) : Nat := ((s.launches.get? g.launch).map (·.context)).getD 0

/-- Whether a gang is the lowest-numbered one left of its launch, whose images the launch image goes with (R340). -/
def State.leads (s : State) (g : Gang) : Bool := (s.gangsOf g.launch).all fun x => decide (g.index ≤ x.2.index)

/-- The image places of a gang: of its teams that have not ended, its own and, of the gang that leads a cooperative launch, the
launch's: page, kind and team. -/
def State.imagePlaces (s : State) (g : Gang) (l : Launch) : List (Nat × Nat × Nat) :=
  (g.teams.filterMap fun t => (s.saved.get? t).map fun x => (g.teamPage l x.team.index, 1, x.team.index)) ++ (g.page, 2, 0) ::
    (if s.leads g then l.place.toList.map (·, 3, 0) else [])

/-- CAUSE of a committed image takes a lower code (R332, R346). A protected context's image is sealed again with it, under the next
value of its save counter, if its COUNTER is that of the freshness entry and its tag holds (R385 to R387; log 108). -/
def State.recause (s : State) (ctx page cause : Nat) : State :=
  let va := s.saveBase ctx + 4096 * page
  let x := s.context ctx
  if x.isProtected then
    match s.devRead ctx va 64 with
    | (s, none) => s
    | (s, some h) =>
      match s.devRead ctx (va + 64) (4096 * field h 4 4 - 64) with
      | (s, none) => s
      | (s, some body) =>
        if s.freshness.getD (freshKeyOf ctx page) 0 ≠ field h 8 8 then s else
        match Config.gcmDecrypt x.contextKey (field h 8 8) (h.take 48) body (h.drop 48) with
        | none => s
        | some text =>
          let counter := x.counter + 1
          let head := h.take 3 ++ leBytes cause 1 ++ (h.drop 4).take 4 ++ leBytes counter 8 ++ (h.drop 16).take 32
          let r := Config.gcmEncrypt x.contextKey counter head text
          let s := (s.devWrite ctx (va + 64) r.1).1
          match s.writeHeaders ctx [(page, counter, head ++ fitTo 16 r.2)] with
          | (s, _) => s
  else (s.devWrite ctx (va + 3) (leBytes cause 1)).1

/-- A halt request of one gang: a running one halts, a halted or saved one takes the lower cause (R332, R346). -/
def State.requestHalt (s : State) (gk cause : Nat) : State :=
  match s.gangs.get? gk with
  | none => s
  | some g =>
    match g.phase with
    | .running => s.haltOne gk cause
    | .halted => s.setGang gk { g with cause := min g.cause cause }
    | .saved =>
      if g.cause ≤ cause then s
      else
        let s := s.setGang gk { g with cause }
        match s.launches.get? g.launch with
        | none => s
        | some l => (s.imagePlaces g l).foldl (fun s p => s.recause l.context p.1 cause) s
    | .ended => s

/-- GANG_HALT: a halt takes the whole gang, and of a cooperative launch the whole launch (R332). -/
def State.haltGang (s : State) (gk cause : Nat) : State :=
  match s.gangs.get? gk with
  | none => s
  | some g =>
    if ((s.launches.get? g.launch).map (·.coop)).getD false then
      (s.gangsOf g.launch).foldl (fun s x => s.requestHalt x.1 cause) s
    else s.requestHalt gk cause

/-- GANG_HALT (R333). -/
def execGangHalt (gang cause : Nat) (s : State) : Host.Outcome State Fault Refusal := .next (s.haltGang gang cause)

/-- The cores that hold teams of a gang. -/
def State.gangCores (s : State) (gk : Nat) : List Nat :=
  (s.teams.filter fun t => t.2.gang == gk).map fun (t : Nat × Team) => t.2.core

/-- RELEASE_LOG_DRAIN: the context's entries on a core with a halted team are promoted (R290). -/
def State.drainHalted (s : State) (core ctx : Nat) : State :=
  if s.gangs.any fun g => g.2.phase == .halted && (s.gangCores g.1).contains core &&
      logContext (s.gangContext g.2) == logContext ctx then s.promoteContext core (logContext ctx)
  else s

/-- RELEASE_LOG_DRAIN (R290). -/
def execReleaseLogDrain (core ctx : Nat) (s : State) : Host.Outcome State Fault Refusal := .next (s.drainHalted core ctx)

/-! ## Committing the image (R337, R338, R343) -/

/-- The tiles with no name that a squad's outstanding words still touch (R241). -/
def State.keptTiles (s : State) (k : Nat) (q : Squad) : List (Nat × Nat × Tile) :=
  (distinct ((q.ops.filter fun o => !o.finished).flatMap fun o => o.kind.tiles)).filterMap fun slot =>
    ((s.tile q.core slot).filter fun (t : Tile) => t.retired).map fun (t : Tile) => (k, slot, t)

/-- A halted gang's team as it is saved; a protected one takes its tiles with it, since its image is written once. -/
def State.savedTeam (s : State) (t : Team) (own : Bool) : Saved :=
  let squads := s.squads.filter fun e => t.squads.contains e.1
  { team := t, squads
    tiles := if own then (squads.map fun e => (List.range 8).filterMap fun n =>
        match at' e.2.accs n none with
        | none => none
        | some slot => (s.tile t.core slot).map fun (x : Tile) => (e.1, n, x)).flatten else []
    kept := squads.flatMap fun e => s.keptTiles e.1 e.2 }

/-- The images of a gang with the pages they go to: teams, the gang, and with the gang that leads a cooperative launch the launch's
(R340, R416). -/
def State.gangImages (s : State) (g : Gang) (l : Launch) (teams : List Saved) : List (Nat × Img) :=
  (teams.map fun x => (g.teamPage l x.team.index, s.teamImage g l x)) ++
    (g.page, s.gangImage g l) :: (if s.leads g then l.place.toList.map fun p => (p, launchImage g l) else [])

/-- The accumulator name that a saved squad binds to a slot. -/
def nameOfSlot (teams : List (Nat × Saved)) (k slot : Nat) : Option Nat :=
  ((teams.map fun (x : Nat × Saved) => x.2.squads).flatten.find? fun e => e.1 == k).bind fun e =>
    (List.range 8).find? fun n => at' e.2.accs n none == some slot

/-- No tile of a protected context stays in a core after its save: AOWN names it no more (R384). -/
def Core.disown (c : Core) (ctx : Nat) : Core :=
  if has c.aown 63 && withBits c.aown 55 48 0 == ownerWord ctx then { c with aown := withBits c.aown 63 63 0 } else c

/-- The gang becomes saved: its squads and teams leave their cores, and tiles not written stay in their slots (R343, R384). -/
def State.leaveCores (s : State) (gk : Nat) (g : Gang) (teams : List (Nat × Saved)) (own : Bool) : State :=
  let cores := s.gangCores gk
  let ctx := s.gangContext g
  let keys := (s.gangSquads gk).map (·.1)
  let mark := fun (t : Nat × Tile) =>
    if keys.contains t.2.squad then (t.1, { t.2 with deferred := nameOfSlot teams t.2.squad t.1 }) else t
  let s := { s with
    saved := teams.foldl (fun (t : Tbl Saved) (x : Nat × Saved) => Tbl.set t x.1 x.2) s.saved
    teams := s.teams.filter fun t => t.2.gang != gk
    squads := s.squads.filter fun e => !keys.contains e.1
    cores := s.cores.map fun (c : Nat × Core) => (c.1, { c.2 with
      tiles := (c.2.tiles.filter fun (t : Nat × Tile) => !(keys.contains t.2.squad && (own || t.2.retired))).map mark }) }
  let s := cores.foldl (fun s c => (if own then s.setCore c ((s.core c).disown ctx) else s).shrinkRegion c) s
  s.setGang gk { g with phase := .saved }

/-- IMAGE_COMMIT (R338): once the context's release-log entries on the member cores are drained and no collective of a member
combines, the images are written, every header after every section, and the gang is saved. Dirty bytes of the member cores go home
then: the model's choice (log 10). -/
def State.commitGang (s : State) (gk : Nat) : State :=
  match s.gangs.get? gk with
  | none => s
  | some g =>
    match s.launches.get? g.launch with
    | none => s
    | some l =>
      let cores := s.gangCores gk
      let keys := (s.gangSquads gk).map (·.1)
      if g.phase ≠ .halted || (cores.any fun c => (s.core c).log.any fun e => e.context == logContext l.context) ||
          (cores.any fun c => s.writeWaits c 7 keys) || keys.any s.combining then s
      else
        -- the members' dirty lines go home at the commit (log 10)
        let s := cores.foldl (fun s c => s.flushL1 c) s
        let own := (s.context l.context).isProtected
        let teams := (s.teams.filter fun t => t.2.gang == gk).map fun (t : Nat × Team) => (t.1, s.savedTeam t.2 own)
        match s.commitImages l.context (s.gangImages g l (teams.map (·.2))) with
        | (s, .ok _) => s.leaveCores gk g teams own
        | (s, .error (.fault va f kind)) =>
          match (s.gangSquads gk).head? with
          | some (k, q) => s.writeFault q.core l.context k 7 va f kind
          | none => s.endLaunch g.launch 4
        | (s, .error _) => s.endLaunch g.launch 4

/-- IMAGE_COMMIT (R338). -/
def execImageCommit (gang : Nat) (s : State) : Host.Outcome State Fault Refusal := .next (s.commitGang gang)

/-! ## Restoring (R204, R344, R345, R387) -/

/-- Whether an earlier halted gang of the context waits for admission (R204); a cooperative launch comes as a whole. -/
def State.laterThanOther (s : State) (gk : Nat) (g : Gang) : Bool :=
  let whole := ((s.launches.get? g.launch).map (·.coop)).getD false
  s.gangs.any fun x => x.1 != gk && !(whole && x.2.launch == g.launch) && s.waitsForAdmission x.2 &&
    s.gangContext x.2 == s.gangContext g && decide (x.2.haltOrder < g.haltOrder)

/-- The reason for which a protected image is refused, 0 for none: 1 FORMAT, 2 COUNTER, 3 TAG (R387). -/
def State.imageReason (s : State) (ctx page kind : Nat) (l : Launch) (g : Gang) (team : Nat) : State × Nat × Nat :=
  let va := s.saveBase ctx + 4096 * page
  match s.devRead ctx va 64 with
  | (s, none) => (s, 1, 0)
  | (s, some h) =>
    let counter := field h 8 8
    let pages := field h 4 4
    if field h 0 2 ≠ 0x0100 ∨ field h 2 1 ≠ kind ∨ field h 16 8 ≠ l.id ∨ field h 24 4 ≠ (if kind = 3 then 0 else g.index) ∨
        field h 28 1 % 8 ≠ team ∨ field h 29 1 % 64 ≠ l.squads then (s, 1, counter)
    else if s.freshness.getD (freshKeyOf ctx page) 0 ≠ counter then (s, 2, counter)
    else
      match s.devRead ctx (va + 64) (4096 * pages - 64) with
      | (s, none) => (s, 3, counter)
      | (s, some body) =>
        if (Config.gcmDecrypt (s.context ctx).contextKey counter (h.take 48) body (h.drop 48)).isSome then (s, 0, counter)
        else (s, 3, counter)

/-- The first refused image of a protected gang: its reason, team and COUNTER. -/
def State.refusedImage (s : State) (l : Launch) (g : Gang) : List (Nat × Nat × Nat) → State × Option (Nat × Nat × Nat)
  | [] => (s, none)
  | (page, kind, team) :: more =>
    match s.imageReason l.context page kind l g team with
    | (s, 0, _) => s.refusedImage l g more
    | (s, r, c) => (s, some (r, team, c))

/-- Physical registers that the pending deposits of a saved squad bind at its restore (R213). -/
def Squad.owedRegisters (q : Squad) : Nat := (distinct ((q.deposits.map fun d => d.name.toNat).filter q.needsNew)).length

/-- What a saved team needs (R204, R253, R344). The registers that its pending deposits will bind count with its footprint, so that the
pool holds them: R204 does not say so (DESIGN CHOICE, log 118). -/
def Launch.needSaved (l : Launch) (x : Saved) : Need :=
  let held := fun (e : Nat × Squad) =>
    e.2.accs.toList.filterMap (fun (x : Option Nat) => x) ++
      (x.kept.filter fun t => t.1 == e.1).map fun (t : Nat × Nat × Tile) => t.2.1
  { l.need with
    squads := x.squads.length
    regs := (x.squads.map fun e => max (e.2.footprint + e.2.owedRegisters) l.floor).sum
    tiles := (x.squads.map fun e => max (held e).length (if l.accums = 0 then 0 else 1)).sum
    subs := (x.squads.map fun e => (held e).map (· / 4)).flatten }

/-- Seats for the saved teams of a gang on a cluster; the cores they were saved from come first (R344). -/
def State.savedSeats (s : State) (l : Launch) (teams : List Saved) (cl : Nat) : Option (Nat × List (Nat × Room × Seat)) :=
  if s.clusterOpen l.context cl l.fused then
    let rooms := s.roomsFor l cl
    let free := byFreeSlots rooms
    (seatEach (teams.map fun x =>
      (l.needSaved x, (rooms.filter fun r => r.1 == x.team.core) ++ free.filter fun r => r.1 != x.team.core)) []).map (cl, ·)
  else none

/-- The seats of a saved gang: on its own cluster if that can admit it, else on the first that can (R344). -/
def State.restoreSeats (s : State) (l : Launch) (g : Gang) (teams : List Saved) : Option (Nat × List (Nat × Room × Seat)) :=
  let mine := s.clustersOf l.context
  ((mine.filter (· == g.cluster)) ++ mine.filter (· != g.cluster)).foldl (fun acc cl => match acc with
    | some r => some r
    | none => s.savedSeats l teams cl) none

/-- Rename the tile slots of an operation. -/
def OpKind.moveTiles (f : Nat → Nat) : OpKind → OpKind
  | .mma ops ftz sat parts => .mma ops ftz sat (parts.map fun p => { p with tile := f p.tile })
  | .accRead d t row m => .accRead d (t.map f) row m
  | .accWrite t row m data => .accWrite (f t) row m data
  | .accLoad t n i => .accLoad (f t) n i
  | .accStore t => .accStore (t.map f)
  | k => k

/-- A free slot on a sub-array for a tile that is loaded: what other contexts have deferred on the core is spilled first, and a
deferred tile of the sub-array gives up its slot if there is no other (R255, R343, R345). None while a spill waits. -/
def State.clearSlot (s : State) (core ctx sub : Nat) : State × Option Nat :=
  let s := s.spillTiles core fun _ t => t.context != logContext ctx
  let s := if ((s.core core).slots [sub] []).isSome then s else
    match (s.core core).tiles.find? fun t => t.2.deferred.isSome && t.1 / 4 == sub with
    | some (x, _) => s.spillTile core x
    | none => s
  if (s.core core).tiles.any fun t => t.2.context != logContext ctx then (s, none)
  else (s, ((s.core core).slots [sub] []).bind (·.head?))

/-- Load a tile into a slot of a core, whose AOWN then names the context (R345). -/
def State.loadTile (s : State) (core ctx slot : Nat) (t : Tile) : State :=
  let c := s.core core
  s.setCore core { c with tiles := c.tiles.set slot { t with deferred := none }, aown := ownerWord ctx }

/-- Bind one saved tile of a squad on its new core: in place, or in a fresh slot of its sub-array after a spill (R345); its new
slot, or none while a spill waits. -/
def State.bindSaved (s : State) (tk ctx core was k n slot : Nat) : State × Option Nat :=
  let here := fun (s : State) (c : Nat) => match s.tile c slot with
    | some t => if t.squad = k ∧ t.deferred = some n then some t else none
    | none => none
  match if core = was then here s core else none with
  | some t => (s.setTile core slot { t with deferred := none }, some slot)
  | none =>
    let s := if (here s was).isSome then s.spillTile was slot else s
    match s.clearSlot core ctx (slot / 4), (s.saved.get? tk).bind fun x => x.tiles.find? fun t => t.1 == k && t.2.1 == n with
    | (s, some x), some t => (s.loadTile core ctx x t.2.2, some x)
    | (s, _), _ => (s, none)

/-- Bind the tiles of a restored squad, those of its names and those that its words keep, and rename them in its operations; whether
every one has its slot. -/
def State.bindTiles (s : State) (tk ctx core was k : Nat) (kept : List (Nat × Nat × Tile)) : State × Bool :=
  let named := (List.range 8).foldl (fun (acc : State × Option (List (Nat × Nat))) n =>
    match acc.2, (acc.1.squads.get? k).bind fun q => at' q.accs n none with
    | some l, some slot =>
      match acc.1.bindSaved tk ctx core was k n slot with
      | (s, some x) => (s.onSquad k fun q => { q with accs := put q.accs n (some x) }, some (l ++ [(slot, x)]))
      | (s, none) => (s, none)
    | _, _ => acc) (s, some [])
  let all := (kept.filter fun t => t.1 == k).foldl (fun (acc : State × Option (List (Nat × Nat))) t =>
    match acc.2 with
    | none => acc
    | some l =>
      match acc.1.clearSlot core ctx (t.2.1 / 4) with
      | (s, some x) => (s.loadTile core ctx x t.2.2, some (l ++ [(t.2.1, x)]))
      | (s, none) => (s, none)) named
  match all with
  | (s, none) => (s, false)
  | (s, some l) =>
    let go := fun (y : Nat) => ((l.find? fun e => e.1 == y).map (·.2)).getD y
    (s.onSquad k fun q => { q with ops := q.ops.map fun o => { o with kind := o.kind.moveTiles go } }, true)

/-- Whether a service call holds its reply. -/
def Op.heldReply (o : Op) : Option (BitVec 5 × DWord) :=
  match o.kind with
  | .svc d _ _ (some v) => some (d, v)
  | _ => none

/-- Step 5 of a restore for one squad: pending deposits, then held replies (R213, R344). The registers that the deposits need were
counted at the admission (log 118). -/
def State.settleSquad (s : State) (k : Nat) : State :=
  match s.squads.get? k with
  | none => s
  | some q =>
    let s := q.deposits.foldl (fun s d =>
      { s.onSquad k fun q => { q.bindName s.nextId d.name.toNat d.lanes fun i => lane d.data i with arrv := q.arrv + 1 } with
        nextId := s.nextId + 1 }) s
    let s := s.onSquad k fun q => { q with deposits := [] }
    q.ops.foldl (fun s o => match o.heldReply with
      | some (d, v) => (s.onSquad k fun q => q.setSreg d.toNat v).finishOp k o.id
      | none => s) s

/-- The price of a matrix record's word, from its own formats (R257, R269): MMAW, which has four tiles, costs twice. -/
def OpKind.recordPrice : OpKind → Nat
  | .mma o _ _ parts =>
    let code := fun (f : Fmt) => ((List.range 13).find? fun c => fmtOf c == some f).getD 31
    (if 1 < parts.length then 2 else 1) * classPrice (pairClass (code o.fmtA) (code o.fmtB))
  | _ => 0

/-- A resumed matrix record asks for its price at its core's stop, after the requests that wait there (R260, R269). -/
def State.askRecord (s : State) (core k : Nat) (o : Op) : State :=
  let cl := clusterOf core
  let x := s.cluster cl
  let r : Request := { split := none, record := some (k, o.id), prices := [(o.id, o.kind.recordPrice)] }
  if o.kind.recordPrice = 0 then s
  else
    (s.setCluster cl { x with queues := put x.queues (core % 8) (at' x.queues (core % 8) [] ++ [r]) }).onOp k o.id
      fun o => { o with asks := true }

/-- XQ asks the tables again when its packet is issued (R194, R195). -/
def State.queryAgain (s : State) (ctx : Nat) (o : Op) : Op :=
  match o.kind, o.lanes.head? with
  | .query d _, some l => { o with kind := .query d (BitVec.ofNat 64 (s.queryValue ctx l.va)) }
  | _, _ => o

/-- Step 6: matrix words go to their sub-arrays and ask for their prices, and packets are to be translated (R252, R269,
R335). -/
def State.reissueSquad (s : State) (k : Nat) : State :=
  match s.squads.get? k with
  | none => s
  | some q =>
    let s := q.ops.foldl (fun s o => match o.kind with
      | .mma _ _ _ parts =>
        ((parts.filter fun p => !p.finished).map (·.sub)).eraseDups.foldl (fun s b =>
          let c := s.core q.core
          s.setCore q.core { c with subs := c.subs.set b (c.subs.getD b [] ++ [(k, o.id, 0)]) }) s
      | _ => s) s
    let ctx := s.contextOf q
    let s := s.onSquad k fun q => { q with ops := q.ops.map fun o =>
      { s.queryAgain ctx o with translate := o.lanes.any LaneAccess.remote } }
    (q.ops.filter fun o => !o.finished && o.kind.isMma).foldl (fun s o => s.askRecord q.core k o) s

/-- Steps 1 to 5 for one team on its seat (R344); whether its tiles could be bound. -/
def State.restoreTeam (s : State) (tk : Nat) (x : Saved) (l : Launch) (core : Nat) (seat : Seat) : State × Bool :=
  let quarters := (placeSquads x.squads.length (s.room core l.context).slots).1
  let s := { s with saved := s.saved.set tk x }.setTeam tk { x.team with core, base := seat.base, stackBase := seat.stack }
  let s := (x.squads.zip quarters).foldl (fun s e => s.seatSquad e.1.1 { e.1.2 with halted := false } core e.2) s
  let keys := x.squads.map (·.1)
  let r := keys.foldl (fun (acc : State × Bool) k =>
    if acc.2 then acc.1.bindTiles tk l.context core x.team.core k x.kept else acc) (s, true)
  let s := keys.foldl (fun s k => s.settleSquad k) r.1
  ({ s with saved := s.saved.erase tk }, r.2)

/-- Teams one after another. -/
def State.restoreTeams (s : State) (l : Launch) : List ((Nat × Saved) × (Nat × Room × Seat)) → State × Bool
  | [] => (s, true)
  | (x, seat) :: more =>
    match s.restoreTeam x.1 x.2 l seat.1 seat.2.2 with
    | (s, true) => s.restoreTeams l more
    | (s, false) => (s, false)

/-- The ways that drain on any core after an attempt drain on. -/
def State.keepDrains (s t : State) : State :=
  t.cores.foldl (fun s c => if (s.core c.1).draining < c.2.draining then
    s.setCore c.1 { s.core c.1 with draining := c.2.draining, drainFor := c.2.drainFor } else s) s

/-- The spills that an attempt has made, or whose records it has sent, are made: the deferred tiles that it took from their
slots, or for which it waits. -/
def State.keepSpills (s t : State) : State :=
  s.cores.foldl (fun s c => (c.2.tiles.filter fun x => x.2.deferred.isSome &&
      (((t.tile c.1 x.1).map (·.squad)) != some x.2.squad || t.writeWaits c.1 9 [x.2.squad])).foldl
    (fun s x => s.spillTile c.1 x.1) s) s

/-- Restore one gang, if it can be seated and its tiles have their slots; sectors that it needs begin to drain, and tiles that stand
in its way are spilled (R344). The gang keeps its instances of die-scope router barriers (R312; log 109). A first gang restored on a die to which the migration
engine has moved a unit is noted (R352). -/
def State.restoreOne (s : State) (gk : Nat) : State × Bool :=
  match s.gangs.get? gk with
  | none => (s, false)
  | some g =>
    match s.launches.get? g.launch with
    | none => (s, false)
    | some l =>
      let (s, teams) := s.readTeams g l (g.teams.filterMap fun t => (s.saved.get? t).map fun x => (t, x))
      let (s, g) := s.readGang g l
      match s.restoreSeats l g (teams.map (·.2)) with
      | none => (s, false)
      | some (cl, seats) =>
        if s.drainsOn l (s.clustersOf l.context) then (s, false)
        else if seats.any fun x => decide (0 < x.2.2.grow) then (s.startDrains g.launch seats, false)
        else
          match (s.takeCluster l.context cl l.fused).restoreTeams l (teams.zip seats) with
          | (t, false) => (s.keepSpills t, false)
          | (t, true) =>
            -- a spill of another gang's tile has ended the launch
            if ((t.launches.get? g.launch).bind (·.ended)).isSome then (s.keepSpills t, false) else
            let x := t.context l.context
            let d := cl / 20
            let t := if x.movedTo.contains d then
                t.setContext l.context { x with movedTo := x.movedTo.filter (· != d), arrived := x.arrived ++ [d] } else t
            let fixed := l.routers.toList.any fun r => r.scope == some 3
            let t := t.setGang gk { g with phase := .running, cluster := cl, routerDie := if fixed then g.routerDie else cl / 20 }
            let keys := (t.gangSquads gk).map (·.1)
            (keys.foldl (fun s k => (s.reissueSquad k).replay k) (t.endDrains l [cl]), true)

/-- Restore gangs, all or none. -/
def State.restoreAll (s : State) : List Nat → State × Bool
  | [] => (s, true)
  | g :: gs =>
    match s.restoreOne g with
    | (s, false) => (s, false)
    | (s, true) => s.restoreAll gs

/-- GANG_RESTORE (R204, R344, R387): a saved gang, or a whole cooperative launch, is restored when its turn comes and it
can be seated; a protected one is refused with an event when an image fails its checks. -/
def State.restoreGang (s : State) (gk : Nat) : State :=
  match s.gangs.get? gk with
  | none => s
  | some g =>
    match s.launches.get? g.launch with
    | none => s
    | some l =>
      let gangs := if l.coop then s.gangsOf g.launch else [(gk, g)]
      if (gangs.any fun x => !s.waitsForAdmission x.2) || !s.sessionOpen l.context || s.laterThanOther gk g then s
      else
        let bad := if (s.context l.context).isProtected then
            gangs.foldl (fun (acc : State × Option (Nat × Gang × Nat × Nat × Nat)) x =>
              match acc.2 with
              | some _ => acc
              | none => match acc.1.refusedImage l x.2 (s.imagePlaces x.2 l) with
                | (s, r) => (s, r.map fun r => (x.1, x.2, r))) (s, none)
          else (s, none)
        match bad with
        | (s, some (bk, b, reason, team, counter)) =>
          (s.setGang bk { b with refused := true }).eventBoth (contextVf l.context) (contextIface l.context)
            (eventRecord evImage reason l.id b.index team counter)
        | (s, none) =>
          let r := s.restoreAll (gangs.map (·.1))
          -- a cooperative launch is restored as a whole: of an attempt that failed only drains and spills are kept
          if r.2 then r.1 else if l.coop then (s.keepDrains r.1).keepSpills r.1 else r.1

/-- GANG_RESTORE (R344). -/
def execGangRestore (gang : Nat) (s : State) : Host.Outcome State Fault Refusal := .next (s.restoreGang gang)

/-! ## Starvation (R203) -/

/-- Whether a deposit that has left its sender waits for a register at a squad (R211). -/
def State.depositLacks (s : State) (k : Nat) (q : Squad) : Bool :=
  s.squads.any fun e => e.2.ops.any fun o => !o.finished && o.performed && match o.kind with
    | .deposit n team sq _ _ => ((s.depositTarget e.2 team sq).bind (·.2)) == some k &&
        !has q.awaited n.toNat && q.needsNew n.toNat && !s.canTake q 1
    | _ => false

/-- Whether a squad waits for registers or tiles that the core lacks, at a word or for a deposit (R202, R205, R211). -/
def State.lacks (s : State) (k : Nat) (q : Squad) : Bool :=
  ((q.runs || (q.captured.isSome && !q.halted)) && q.splits.any fun p => match p.wait with
    | some (.pool n) => !s.canTake q (q.newFor n)
    | some (.tile b) => s.waits k q p.id (.tile b)
    | _ => false) || (!q.halted && s.depositLacks k q)

/-- STARVATION: on a core where a squad waits for registers or tiles and no word can issue, the gang of the youngest team is
suspended if another gang is resident there too (R203). That 256 cycles pass is timing (R4). -/
def State.starve (s : State) (core : Nat) : State :=
  let on := s.squadsOn core
  let gangs := (s.teams.filter fun t => t.2.core == core).filterMap fun t =>
    (s.gangs.get? t.2.gang).bind fun g => if g.phase = .running then some (t.2.gang, g.age) else none
  if (on.any fun e => s.lacks e.1 e.2) && (on.all fun e => (s.nextSplit e.2).isNone) then
    match gangs with
    | [] => s
    | g :: gs =>
      let y := gs.foldl (fun a b => if a.2 < b.2 then b else a) g
      if gangs.any fun x => x.1 != y.1 then s.haltGang y.1 6 else s
  else s

/-- STARVATION (R203). -/
def execStarvation (core : Nat) (s : State) : Host.Outcome State Fault Refusal := .next (s.starve core)

end Sys2Proof.Machine
end

