-- ==== Sys2Proof/Machine/Rails.lean ====
section
/-! DEFINITION. Rails and HBM states (R270 to R273, R411), and the place tables when a unit leaves service (R21). -/

namespace Sys2Proof.Machine

/-! ## Rails (R270 to R272) -/

/-- A rail of a die. -/
def State.rail (s : State) (d r : Nat) : Rail := at' (s.die d).rails r {}

/-- Replace a rail. -/
def State.setRail (s : State) (d r : Nat) (x : Rail) : State :=
  let y := s.die d
  s.setDie d { y with rails := put y.rails r x }

/-- The clusters tied to a rail (R270). -/
def State.railClusters (s : State) (d r : Nat) : List Nat :=
  ((List.range 20).filter fun c => (s.die d).railOf.getD c 0 == r).map (20 * d + ·)

/-- A ring passes from one capacity to another: tokens enter, or are to be withdrawn (R272). R272 does not say where tokens enter: the
model lets them enter at position 0, as at the start (log 5). -/
def Cluster.resize (x : Cluster) (old new : Nat) : Cluster :=
  if old < new then
    let w := min x.withdraw (new - old)
    { x with withdraw := x.withdraw - w, free := put x.free 0 (at' x.free 0 0 + (new - old - w)) }
  else { x with withdraw := x.withdraw + (old - new) }

/-- Requests above the capacity in effect release their tokens, and the serve if it held it: a split's raises UNAFF, an engine's
waits (R268, R272). -/
def State.dropUnaffordable (s : State) (cl : Nat) : State :=
  (List.range 10).foldl (fun s stop =>
    (at' (s.cluster cl).queues stop []).foldl (fun s r =>
      if r.price ≤ s.cap cl then s
      else
        match r.split with
        | some (k, sp) =>
          match (s.squads.get? k).bind fun q => (q.split? sp).map fun p => (q, p) with
          | none => s
          | some (_, p) => s.takeTrap k sp .unaff (BitVec.ofNat 64 r.price) p.pos
        | none =>
          let x := s.cluster cl
          let heads := ((at' x.queues stop []).head?.map fun y => y.split.isNone && y.prices == r.prices) == some true
          let x := { x with
            queues := put x.queues stop ((at' x.queues stop []).map fun (y : Request) =>
              if y.split.isNone && y.prices == r.prices then { y with captured := 0, held := 0 } else y)
            serving := if heads && x.serving == some stop then none else x.serving }
          s.setCluster cl (x.giveBack stop r.captured)) s) s

/-- RAILCTL and RAILMAP of a die (R399). -/
def railCtl (d : Nat) : Nat := dieBase d + 0x08
def railMap (d : Nat) : Nat := dieBase d + 0x00

/-- CURRENT shows the state in effect on a rail (R271). -/
def State.showRail (s : State) (d r : Nat) : State :=
  s.setReg (railCtl d) (withBits (s.reg (railCtl d)) (2 * r + 9) (2 * r + 8) (s.rail d r).effect)

/-- A state takes effect on a rail: capacity and prices, which CURRENT shows (R271, R272). -/
def State.railEffect (s : State) (d r new : Nat) : State :=
  let x := s.rail d r
  let cls := s.railClusters d r
  let s := (s.setRail d r { x with effect := new }).showRail d r
  let s := cls.foldl (fun s c => s.setCluster c ((s.cluster c).resize (capacity x.effect) (capacity new))) s
  cls.foldl (fun s c => s.dropUnaffordable c) s

/-- The state that a rail should take: its TARGET, lowered while the die is too hot (R271, R411). -/
def State.railGoal (s : State) (d r : Nat) : Nat := min 3 (bits (s.reg (railCtl d)) (2 * r + 1) (2 * r) + (s.rail d r).thermal)

/-- Whether a die that was held back by heat is 10 °C below its limit at a boundary: a free bit (R411, log 68). -/
def State.cooled (s : State) : Bool := s.free.getLsbD 0

/-- A change of a rail begins at the boundary (R271, R272). R271 does not say what becomes of a TARGET while a change of the rail is
under way: the model takes it at the first boundary that finds none (log 126). -/
def State.beginRail (s : State) (d r : Nat) (cool : Bool) : State :=
  let s := s.setRail d r { s.rail d r with
    thermal := if (s.die d).hot then min 3 ((s.rail d r).thermal + 1) else if cool then (s.rail d r).thermal - 1 else (s.rail d r).thermal }
  let x := s.rail d r
  let goal := s.railGoal d r
  if x.state ≠ 0 ∨ goal = x.effect then s
  else if x.effect < goal then
    let s := s.railEffect d r goal
    s.setRail d r { s.rail d r with state := 1, change := goal }
  else s.setRail d r { x with state := 2, change := goal }

/-- A cluster passes to the rail that RAILMAP names once nothing leases it (R270). -/
def State.tieCluster (s : State) (d c : Nat) : State :=
  let new := bits (s.reg (railMap d)) (2 * c + 1) (2 * c)
  let y := s.die d
  let old := y.railOf.getD c 0
  if old = new ∨ (s.leaseOf 0 (20 * d + c)).isSome then s
  else
    let s := s.setDie d { y with railOf := y.railOf.set c new }
    s.setCluster (20 * d + c) ((s.cluster (20 * d + c)).resize (capacity (s.rail d old).effect) (capacity (s.rail d new).effect))

/-- A stack begins to retrain for a new TARGET (R273). -/
def State.beginRetrain (s : State) (stack : Nat) : State :=
  let v := s.reg (hbmCtl stack)
  if bits v 1 0 = bits v 3 2 then s else s.setReg (hbmCtl stack) (withBits (withBits v 3 2 (bits v 1 0)) 4 4 1)

/-- What an interval boundary of some dies does to their rails and stacks (R270, R271, R273, R411). -/
def State.railsAtBoundary (s : State) (on : Nat → Bool) : State :=
  let s := ((List.range 8).filter on).foldl (fun s d =>
    let s := (List.range 20).foldl (fun s c => s.tieCluster d c) s
    let cool := s.cooled
    let s := (List.range 4).foldl (fun s r => s.beginRail d r cool) s.spend
    if (s.die d).hot then s.setDie d { s.die d with hot := false } else s) s
  ((List.range 16).filter fun x => on (x / 2)).foldl (fun s x => s.beginRetrain x) s

/-- RAIL_CLOCK_LOWER: with the excess tokens withdrawn, the clock switch of a fall begins (R272). -/
def State.lowerClock (s : State) (d r : Nat) : State :=
  let x := s.rail d r
  if x.state = 1 ∧ (s.railClusters d r).all (fun c => (s.cluster c).withdraw == 0) then s.setRail d r { x with state := 3 } else s

/-- RAIL_CLOCK_LOWER (R272). -/
def execRailClockLower (die rail : Nat) (s : State) : Host.Outcome State Fault Refusal := .next (s.lowerClock die rail)

/-- CLOCK_SWITCH_END: issue resumes; after a raise the new capacity takes effect (R272). -/
def State.switchEnd (s : State) (d r : Nat) : State :=
  let x := s.rail d r
  let s := if x.state = 2 then s.railEffect d r x.change else s
  if x.state < 2 then s else s.setRail d r { s.rail d r with state := 0 }

/-- CLOCK_SWITCH_END (R272). -/
def execClockSwitchEnd (die rail : Nat) (s : State) : Host.Outcome State Fault Refusal := .next (s.switchEnd die rail)

/-- HBM_RETRAIN_END (R273). -/
def execHbmRetrainEnd (stack : Nat) (s : State) : Host.Outcome State Fault Refusal := .next ((s.retrainEnd stack).resumed s)

/-- THERMAL_LIMIT: the rails fall by a state at the next boundary, and level 0 hears of it (R411). -/
def State.thermalLimit (s : State) (d : Nat) : State :=
  (s.setDie d { s.die d with hot := true }).event0 (eventRecord evThermal 0 0 0 0 d)

/-- THERMAL_LIMIT (R411). -/
def execThermalLimit (die : Nat) (s : State) : Host.Outcome State Fault Refusal := .next (s.thermalLimit die)

/-- POWER_INPUT_FAULT: the power stage shuts down, and the next start reports REASON 0x07 (R411). -/
def execPowerInputFault (s : State) : Host.Outcome State Fault Refusal := .next { s with powered := false }

/-! ## Place tables and retired units (R21, R377) -/

/-- A cluster that a context leases and that none of its valid entries names; of several the lowest (R21; log 101). -/
def State.spareCluster (s : State) (ctx : Nat) : Option Nat :=
  (List.range 160).find? fun u => s.leaseOf 0 u == some ctx && !s.retired.contains (unitKey 0 u) &&
    (List.range 160).all fun k => !has (s.plcl ctx k) 63 || bits (s.plcl ctx k) 7 0 != u

/-- Entries that name a cluster that leaves get another, or lose V; banks that leave, leave PLBK. The gangs there are halted, so the
writes are taken (R21, R378). -/
def State.remapContext (s : State) (ctx : Nat) (units : List Nat) : State :=
  let s := (List.range 160).foldl (fun s k =>
    let e := s.plcl ctx k
    let u := bits e 7 0
    if has e 63 && units.contains (unitKey 0 u) then
      match s.spareCluster ctx with
      | some x => s.setReg (contextBase ctx + 8 + 8 * k) (withBits e 7 0 x)
      | none => s.setReg (contextBase ctx + 8 + 8 * k) (withBits e 63 63 0)
    else s) s
  (List.range 8).foldl (fun s l =>
    let a := contextBase ctx + 0x508 + 8 * l
    let v := s.reg a
    match s.physDie? ctx l with
    | none => s
    | some d =>
      let w := (List.range 64).foldl (fun v b => if units.contains (unitKey 1 (64 * d + b)) then withBits v b b 0 else v) v
      if w = v then s else s.setReg a w) s

/-- The context slots of which a register has been written, whether or not a context stands in them (R377, R400). -/
def State.placeSlots (s : State) : List Nat :=
  distinct (s.regs.filterMap fun (e : Nat × DWord) =>
    if isIface e.1 ∧ 0x4000 ≤ inIface e.1 then
      some (contextKey (ifaceOf e.1).1 (ifaceOf e.1).2 ((inIface e.1 - 0x4000) / 0x3000 % 4)) else none)

/-- The Damyo controller rewrites every place table that names a unit which leaves service (R21). -/
def State.remapTables (s : State) (units : List Nat) : State :=
  if units.isEmpty then s else s.placeSlots.foldl (fun s c => s.remapContext c units) s

end Sys2Proof.Machine
end

