-- ==== Sys2Proof/Machine/Market.lean ====
section
/-! DEFINITION. The market (R353 to R371): purses, bid close, clearing, notices, the interval boundary with its lapses, and
the migration engine (R351, R352). -/

namespace Sys2Proof.Machine

/-! ## Purses (R355, R356) -/

/-- Units in a lot (R353). -/
def lotSize : Nat → Nat
  | 0 => 1 | 1 => 4 | 2 => 1 | 3 => 4 | _ => 8

/-- Where a partition's purse lies, and an interface's (R399): BALANCE, and 8 bytes on RATE and CAP. -/
def pursePart (vf : Nat) : Nat := partBase vf + 0x4C0
def purseIface (vf i : Nat) : Nat := ifaceBase vf i + 0x20

/-- The purses with a register that has been written. -/
def State.purses (s : State) : List Nat :=
  distinct (s.regs.filterMap fun (e : Nat × DWord) =>
    if isIface e.1 then (if inIface e.1 = 0x20 then some e.1 else if inIface e.1 = 0x28 then some (e.1 - 8) else none)
    else if isPart e.1 then (if inPart e.1 = 0x4C0 then some e.1 else if inPart e.1 = 0x4C8 then some (e.1 - 8) else none)
    else none)

/-- BALANCE of a purse. -/
def State.balance (s : State) (purse : Nat) : Nat := bits (s.reg purse) 31 0

/-- Every purse is refilled (R356). -/
def State.refill (s : State) : State :=
  s.purses.foldl (fun s p =>
    let ctl := s.reg (p + 8)
    s.setReg p (BitVec.ofNat 64 (min (bits ctl 63 32) (s.balance p + bits ctl 31 0)))) s

/-- A purse pays; what it lacks is counted (R356). -/
def State.debit (s : State) (purse pay : Nat) : State :=
  if pay = 0 then s
  else
    let b := s.balance purse
    let s := s.setReg purse (BitVec.ofNat 64 (b - pay))
    if pay ≤ b then s
    else { s with market := { s.market with shortfall := s.market.shortfall.set purse (s.market.shortfall.getD purse 0 + (pay - b)) } }

/-! ## Bid close (R361, R362) -/

/-- The quantity fields of a BID value in order (R357). -/
def lotsOf (v : DWord) : List Nat := (List.range 8).map fun d => if d = 7 then bits v 62 60 else bits v (35 + 4 * d) (32 + 4 * d)

/-- Units that a bid asks for over all dies. -/
def Bid.units (b : Bid) : Nat := b.lots.sum * lotSize b.cls

/-- A bidder's bids clamped against a balance, classes in order: the bids and what is left (R362). -/
def clampBids (bidder : Nat) (bids : List DWord) (h : Nat) : List Bid × Nat :=
  (bids.zipIdx).foldl (fun acc x =>
    let b : Bid := { bidder, cls := x.2, price := bits x.1 31 0, lots := lotsOf x.1, aon := has x.1 63 }
    if b.units = 0 then (acc.1 ++ [{ b with price := 0 }], acc.2)
    else
      let p := min b.price (acc.2 / b.units)
      (acc.1 ++ [{ b with price := p }], acc.2 - p * b.units)) ([], h)

/-- The quantities of a context's bid by physical die: those of the logical dies that name it, added (R417). -/
def State.physLots (s : State) (ctx : Nat) (lots : List Nat) : List Nat :=
  (List.range 8).map fun d => ((lots.zipIdx).map fun x => if s.physDie? ctx x.2 = some d then x.1 else 0).sum

/-- The contexts of an interface in order of their number (R362). -/
def State.contextsIn (s : State) (vf i : Nat) : List Nat :=
  let l : Tbl Nat := (List.range 4).foldl (fun (t : Tbl Nat) k => match s.contexts.get? (contextKey vf i k) with
    | some x => t.set (4 * x.number + k) (contextKey vf i k)
    | none => t) []
  l.map (·.2)

/-- Interfaces that hold a context. -/
def State.interfaces (s : State) : List (Nat × Nat) :=
  distinct (s.contexts.map fun (e : Nat × Context) => (contextVf e.1, contextIface e.1))

/-! ### The migration engine (R350 to R352) -/

/-- The migration policy of an interface (R350). -/
def State.migpol (s : State) (ctx : Nat) : DWord := s.reg (ifaceBase (contextVf ctx) (contextIface ctx) + 0x18)

/-- SPOT of class CLU on a logical die that is valid (R351, R417). -/
def State.cluPrice (s : State) (ctx l : Nat) : Nat :=
  ((s.physDie? ctx l).map fun d => (s.market.spot.getD (contextVf ctx * 40 + d) (0, 0)).1).getD 0

/-- The ordered pairs of valid logical dies of a context (R351, R417; log 38). -/
def State.diePairs (s : State) (ctx : Nat) : List (Nat × Nat) :=
  ((List.range 64).map fun x => (x / 8, x % 8)).filter fun x => (s.physDie? ctx x.1).isSome && (s.physDie? ctx x.2).isSome

/-- The pairs of dies whose counter has come to N, and that the quantities allow: the best pair (R351). -/
def bestMove (pairs : List (Nat × Nat)) (p : Nat → Nat) (q : List Nat) (c : Tbl Nat) (n : Nat) : Option (Nat × Nat) :=
  let ok := pairs.filter fun x => x.1 != x.2 && decide (n ≤ c.getD (8 * x.1 + x.2) 0) && decide (0 < q.getD x.1 0) &&
    decide (q.getD x.2 0 < if x.2 = 7 then 7 else 15)
  ok.foldl (fun acc x => match acc with
    | none => some x
    | some y => if (p y.1 : Int) - p y.2 < (p x.1 : Int) - p x.2 then some x else acc) none

/-- Moves of the engine: quantities, counters and the moves made (R351). -/
def moveLots (pairs : List (Nat × Nat)) (p : Nat → Nat) (n : Nat) : Nat → List Nat × Tbl Nat × List (Nat × Nat) → List Nat × Tbl Nat × List (Nat × Nat)
  | 0, x => x
  | m + 1, (q, c, done) =>
    match bestMove pairs p q c n with
    | none => (q, c, done)
    | some (a, b) =>
      moveLots pairs p n m ((q.set a (q.getD a 0 - 1)).set b (q.getD b 0 + 1), c.set (8 * a + b) 0, done ++ [(a, b)])

/-- The BID value with other quantities. -/
def withLots (v : DWord) (q : List Nat) : DWord :=
  (List.range 8).foldl (fun v d => if d = 7 then withBits v 62 60 (q.getD 7 0) else withBits v (35 + 4 * d) (32 + 4 * d) (q.getD d 0)) v

/-- The engine acts on a context with EN = 1 before the bid close (R351). -/
def State.migrate (s : State) (ctx : Nat) : State :=
  let pol := s.migpol ctx
  let x := s.context ctx
  if has pol 63 = false ∨ bits pol 47 32 < 0x0100 ∨ bits pol 31 28 = 0 then s.setContext ctx { x with movedFrom := [] }
  else
    let p := s.cluPrice ctx
    let pairs := s.diePairs ctx
    let c : Tbl Nat := pairs.foldl (fun (t : Tbl Nat) x =>
      let a := x.1
      let b := x.2
      let i := 8 * a + b
      if a = b then t
      else if bits pol 47 32 * p b ≤ p a * 256 ∧ p b < p a then t.set i (t.getD i 0 + 1) else t.set i 0) x.moves
    let bid := at' x.bids 0 0
    match moveLots pairs p (bits pol 31 28) (bits pol 27 24) (lotsOf bid, c, []) with
    | (q, c, done) =>
      s.setContext ctx { x with
        moves := c
        bids := put x.bids 0 (withLots bid q)
        movedFrom := distinct (done.filterMap fun m => s.physDie? ctx m.1)
        movedTo := distinct (x.movedTo ++ done.filterMap fun m => s.physDie? ctx m.2) }

/-- BID_CLOSE: the migration engine acts, then bids, balances, FIXED and PSLOTS are sampled, and bids clamped (R361,
R362). -/
def State.bidClose (s : State) : State :=
  if !s.market.running || s.market.closed || !s.market.late.isEmpty then s
  else
    let s := (s.contexts.map (·.1)).foldl (fun s c => s.migrate c) s
    let s1 := ((List.range 32).map fun v =>
      (clampBids v ((List.range 5).map fun c => s.reg (partBase v + 0x440 + 8 * c)) (s.balance (pursePart v))).1).flatten
    let s2 := (s.interfaces.map fun vi =>
      ((s.contextsIn vi.1 vi.2).foldl (fun (acc : List Bid × Nat) c =>
        let r := clampBids c (s.context c).bids.toList acc.2
        (acc.1 ++ r.1.map fun b => { b with lots := s.physLots c b.lots }, r.2)) ([], s.balance (purseIface vi.1 vi.2))).1).flatten
    let fixed : Tbl DWord := (List.range 160).filterMap fun i =>
      let r := s.reg (partBase (i / 5) + 0x400 + 8 * (i % 5))
      if r = 0 then none else some (i, r)
    { s with market := { s.market with
        closed := true
        sampled1 := s1.filter fun b => decide (0 < b.price)
        sampled2 := s2.filter fun b => decide (0 < b.price)
        fixed
        pslots := (List.range 32).map fun v => (v, bits (s.reg (partBase v + 0x4D0)) 6 0)
        leaving := s.retiring } }

/-- BID_CLOSE (R361). -/
def execBidClose (s : State) : Host.Outcome State Fault Refusal := .next s.bidClose

/-! ## Clearing (R363 to R366) -/

/-- A bid in one clearing. -/
structure Offer where
  bidder : Nat
  slot : Nat
  number : Nat
  price : Nat
  units : Nat
  aon : Bool
  incumbent : Bool
  deriving DecidableEq, Repr

/-- Whether a bid comes before another (R365). -/
def Offer.before (ptr m : Nat) (a b : Offer) : Bool :=
  let rot := fun (o : Offer) => (o.slot + m - ptr % m) % m
  if a.price ≠ b.price then decide (b.price < a.price)
  else if a.incumbent ≠ b.incumbent then a.incumbent
  else if rot a ≠ rot b then decide (rot a < rot b)
  else decide (a.number < b.number)

/-- Bids in the order of R365. -/
def ordered (ptr m : Nat) (l : List Offer) : List Offer :=
  l.foldl (fun acc x => (acc.filter fun y => !x.before ptr m y) ++ x :: acc.filter fun y => x.before ptr m y) []

/-- What the bids win in order: units left, the highest losing price, and what each won (R365). -/
def award : List Offer → Nat → Nat → Nat × List (Offer × Nat)
  | [], _, lose => (lose, [])
  | b :: bs, left, lose =>
    let won := if b.units ≤ left then b.units else if b.aon then 0 else left
    let r := award bs (left - won) (if b.units ≤ left then lose else max lose b.price)
    (r.1, (b, won) :: r.2)

/-- One clearing: the price, and won and paid of each bid in order (R365). -/
def clear (k reserve ptr m : Nat) (bids : List Offer) : Nat × List (Offer × Nat × Nat) :=
  let l := ordered ptr m (bids.filter fun b => decide (0 < b.units) && decide (0 < b.price) && decide (reserve ≤ b.price))
  let r := award l k 0
  let p := max reserve r.1
  (p, r.2.map fun x => (x.1, x.2, x.2 * min p x.1.price))

/-- Units of a class on a die that the clearing sells: those in service that do not leave at the boundary (R21). -/
def State.sellable (s : State) (cls d : Nat) : List Nat :=
  (s.unitsIn cls d).filter fun u => !s.market.leaving.contains (unitKey cls u)

/-- Fixed units as sampled, reduced from the highest partition down until they fit (R354). -/
def State.fixedSampled (s : State) (cls d : Nat) : Nat → Nat
  | vf =>
    let raw := fun (v : Nat) => bits (s.market.fixed.getD (v * 5 + cls) 0) (8 * d + 7) (8 * d)
    let below := ((List.range vf).map raw).sum
    min (raw vf) ((s.sellable cls d).length - below)

/-- Key of a partition's results for a class and die. -/
def spotKey (vf cls d : Nat) : Nat := (vf * 5 + cls) * 8 + d

/-- A bid's offer for a class on a die. -/
def Bid.offer (b : Bid) (d slot : Nat) (incumbent : Bool) : Offer :=
  { bidder := b.bidder, slot, number := b.bidder, price := b.price, units := b.lots.getD d 0 * lotSize b.cls, aon := b.aon, incumbent }

/-- Level 1 of a class on a die (R363). -/
def State.clearOpen (s : State) (cls d : Nat) : Nat × List (Offer × Nat × Nat) :=
  let k := (s.sellable cls d).length - ((List.range 32).map fun v => s.fixedSampled cls d v).sum
  clear k (bits (s.reg (packageBase + 0x40 + 8 * cls)) 31 0) s.market.ptr1 32
    ((s.market.sampled1.filter fun b => b.cls == cls).map fun b =>
      b.offer d b.bidder (decide (0 < s.market.open1.getD (spotKey b.bidder cls d) 0)))

/-- Level 2 of a partition, class and die with its units (R363, R364). -/
def State.clearPart (s : State) (vf cls d k : Nat) : Nat × List (Offer × Nat × Nat) :=
  let m := max 1 (s.market.pslots.getD vf 64)
  clear k (bits (s.reg (partBase vf + 0x480 + 8 * cls)) 31 0) (s.market.ptr2.getD vf 0) m
    ((s.market.sampled2.filter fun b => b.cls == cls && contextVf b.bidder == vf && decide (contextIface b.bidder < m)).map fun b =>
      { b.offer d (contextIface b.bidder) (decide (0 < s.unitsHeld b.bidder cls d)) with number := (s.context b.bidder).number })

/-- The units that winners keep and take on a die, in order: unit and context (R366). -/
def State.assign (s : State) (cls d : Nat) (won : List (Nat × Nat)) : List (Nat × Nat) :=
  let units := s.sellable cls d
  let kept := (won.map fun w => ((units.filter fun u => s.leaseOf cls u == some w.1).take w.2).map fun u => (u, w.1)).flatten
  let free := units.filter fun u => (kept.map (·.1)).all (· != u)
  (won.foldl (fun (acc : List (Nat × Nat) × List Nat) w =>
    let n := w.2 - (kept.filter fun x => x.2 == w.1).length
    (acc.1 ++ (acc.2.take n).map (·, w.1), acc.2.drop n)) (kept, free)).1

/-- The package's error counters; the spec gives their block and not their places (log 33). -/
def errorCounter (n : Nat) : Nat := packageBase + 0x8000 + 8 * n
def errFixed : Nat := 0
def errSlots : Nat := 1
def errCircuit : Nat := 2
def errPlace : Nat := 3
def errAuth : Nat := 4
def errIndex : Nat := 5
def errReserve : Nat := 6
/-- Intervals that a leased cluster without a core in the table has idled (R377). -/
def errIdle : Nat := 7
/-- Link retries of a die (R411). -/
def errRetry (d : Nat) : Nat := 16 + d
/-- SECDED and HBM corrections of a die (R411). -/
def errCorrect (d : Nat) : Nat := 24 + d

/-- The clearing of one class on one die. -/
def State.clearDie (s : State) (cls d : Nat) : State :=
  match s.clearOpen cls d with
  | (price, open_) =>
    let won1 := fun (v : Nat) => ((open_.find? fun x => x.1.bidder == v).map fun x => x.2.1).getD 0
    let s := open_.foldl (fun s x => (s.debit (pursePart x.1.bidder) x.2.2).count (partBase x.1.bidder + 0x2000 + 0x28 * d + 8 * cls) x.2.2) s
    let m := s.market
    let s := { s with market := { m with
      pricesNext := m.pricesNext.set (8 * cls + d) price
      open1Next := open_.foldl (fun (t : Tbl Nat) (x : Offer × Nat × Nat) => t.set (spotKey x.1.bidder cls d) x.2.1) m.open1Next } }
    let parts : List (Nat × Nat × List (Offer × Nat × Nat)) := (List.range 32).map fun v => (v, s.clearPart v cls d (s.fixedSampled cls d v + won1 v))
    let winners : List (Nat × Nat) := (parts.map fun x => x.2.2.filterMap fun (y : Offer × Nat × Nat) => if y.2.1 = 0 then none else some (y.1.bidder, y.2.1)).flatten
    let units := s.assign cls d winners
    let s := parts.foldl (fun s x =>
      let s := x.2.2.foldl (fun s y =>
        (s.debit (purseIface x.1 (contextIface y.1.bidder)) y.2.2).use (some y.1.bidder) d (14 + cls) y.2.2) s
      let sold := (x.2.2.map fun y => y.2.1).sum
      { s with market := { s.market with spotNext := s.market.spotNext.set (spotKey x.1 cls d) (x.2.1, sold) } }) s
    { s with market := { s.market with next := units.foldl (fun (t : Tbl Nat) (x : Nat × Nat) => t.set (unitKey cls x.1) x.2) s.market.next } }

/-- CLEARING_COMPLETE: both levels of every class on every die; purses pay, and the pointers advance (R356, R363 to
R366). -/
def State.clearing (s : State) : State :=
  if !s.market.closed || s.market.cleared then s
  else
    let s := { s with market := { s.market with next := [], open1Next := [], pricesNext := [], spotNext := [] } }
    let s := (List.range 40).foldl (fun s i => s.clearDie (i / 8) (i % 8)) s
    let m := s.market
    { s with market := { m with
        cleared := true
        ptr1 := (m.ptr1 + 1) % 32
        ptr2 := (List.range 32).map fun v => (v, (m.ptr2.getD v 0 + 1) % max 1 (m.pslots.getD v 64)) } }

/-- CLEARING_COMPLETE (R365). -/
def execClearingComplete (s : State) : Host.Outcome State Fault Refusal := .next s.clearing

/-- The dies whose clearing has not completed when notices are due: a free choice (R361; log 69). -/
def State.lateDies (s : State) : List Nat := (List.range 8).filter fun d => s.free.getLsbD d

/-- LEASE_NOTICE: LEASENEXT gives the losses (R361, R367). Late dies give theirs by a later one, and their boundary falls 15 µs after
it. -/
def State.notice (s : State) : State :=
  let m := s.market
  if m.cleared && !m.noticed then { s.spend with market := { m with noticed := true, late := s.lateDies } }
  else if m.late.isEmpty then s
  else { s with market := { m with lateNoticed := true, lateEnd := s.time.toNat + 15000 } }

/-- LEASE_NOTICE (R361). -/
def execLeaseNotice (s : State) : Host.Outcome State Fault Refusal := .next s.notice

/-! ## The boundary (R361, R367, R368, R370) -/

/-- Whether clusters taken as empty, by their cores in the place table, can hold every gang of a launch (R50, R370, R377). -/
def State.fitsIn (s : State) (l : Launch) (clusters : List Nat) : Bool :=
  let fits := fun (cl : Nat) => gangsFit l.need l.teams 512 ((s.tableCores l.context cl).map fun c => (c, {}))
  decide (l.gangCount ≤ (clusters.map fits).sum) &&
  decide (l.gangCount * l.gangPages + 1 ≤ s.savePages l.context - s.directoryPages l.context)

/-- The halt of a gang whose cluster's lease has lapsed (R332, R352, R370). -/
def State.lapse (s : State) (gk : Nat) (g : Gang) : State :=
  match s.launches.get? g.launch with
  | none => s
  | some l =>
    let cause := if l.coop then
        (if s.fitsIn l ((List.range 160).filter fun c => s.leaseOf 0 c == some l.context) then 2 else 3)
      else if (s.context l.context).movedFrom.contains (g.cluster / 20) then 4 else 2
    s.haltGang gk cause

/-- Launches that can never be admitted any more end (R370). -/
def State.retestFit (s : State) : State :=
  (s.launches.filter fun l => l.2.ended.isNone && l.2.coop && s.neverFits l.2).foldl (fun s l => s.endLaunch l.1 2) s

/-- Unit-intervals held are counted for the interval that starts on some dies (R330). -/
def State.countHeld (s : State) (on : Nat → Bool) : State :=
  (s.contexts.map (·.1)).foldl (fun s c => ((List.range 8).filter on).foldl (fun s d =>
    [(0, 1), (3, 2), (5, 3), (8, 4)].foldl (fun s x => s.use (some c) d x.1 (s.unitsHeld c x.2 d)) s) s) s

/-- The leased clusters that idle, since their context's table names none of their cores, are counted (R377). -/
def State.countIdle (s : State) (on : Nat → Bool) : State :=
  s.count (errorCounter errIdle) ((List.range 160).filter fun k => on (k / 20) && match s.leaseOf 0 k with
    | some c => (s.tableCores c k).isEmpty
    | none => false).length

/-- The index record of the interval in force (R371). -/
def State.sendIndex (s : State) : State :=
  { s with out := s.out ++ [.index (BitVec.ofNat 16 (bits s.market.pod 15 0)) (BitVec.ofNat 32 s.market.interval)
      ((List.range 40).map fun i => BitVec.ofNat 32 (s.market.prices.getD i (bits (s.reg (packageBase + 0x40 + 8 * (i / 8))) 31 0)))] }

/-- Units given up leave service (R21). -/
def State.leaveService (s : State) (units : List Nat) : State :=
  { s with retired := s.retired ++ units.filter (fun u => !s.retired.contains u)
           retiring := s.retiring.filter fun u => !units.contains u }

/-- The halts of a boundary (R21, R332, R368): of gangs on a cluster that leaves service with cause REPAIR, and of gangs whose
cluster another context leases now, or none. A gang that is halted and not yet committed takes the lower cause (R346). -/
def State.haltAtBoundary (s : State) (units : List Nat) (on : Nat → Bool) : State :=
  let there := s.gangs.filter fun g => (g.2.phase == .running || g.2.phase == .halted) && on (g.2.cluster / 20)
  there.foldl (fun s g =>
    if units.contains (unitKey 0 g.2.cluster) then s.haltGang g.1 8
    else if s.leaseOf 0 g.2.cluster ≠ some (s.gangContext g.2) then s.lapse g.1 g.2
    else s) s

/-- The entries of the dies at their boundary from the new table, and those of the others from the old one. -/
def Tbl.onDies {α : Type} (old new : Tbl α) (die : Nat → Nat) (on : Nat → Bool) : Tbl α :=
  (old.filter fun e => !on (die e.1)).foldl (fun (t : Tbl α) e => t.set e.1 e.2) (new.filter fun e => on (die e.1))

/-- The die of a unit by its key. -/
def unitDie (key : Nat) : Nat := key % 2048 / unitsPerDie (key / 2048)

/-- The cleared results take effect on some dies: budgets are counted from zero, and the lines that a context already has in a way
fall with its lease of it (R317, R325, R361, R367). -/
def State.takeEffect (s : State) (on : Nat → Bool) : State :=
  let m := s.market
  { s with
    leases := s.leases.onDies m.next unitDie on
    fabric := { s.fabric with charged := s.fabric.charged.filter fun e => !on (e.1 % 8) }
    market := { m with
      spot := m.spot.onDies m.spotNext (· % 8) on
      prices := m.prices.onDies m.pricesNext (· % 8) on
      open1 := m.open1.onDies m.open1Next (· % 8) on
      leaving := m.leaving.filter fun u => !on (unitDie u) } }.leaseLines

/-- T has come: the next interval is in force, and its end is known (R360, R361). -/
def State.nextInterval (s : State) : State :=
  let m := s.market
  let length := bits (s.reg (packageBase + 0x8)) 14 0
  { s with
    time := BitVec.ofNat 64 (max s.time.toNat m.finish)
    market := { m with
      interval := m.interval + 1, length, finish := m.finish + 1000 * length
      closed := false, cleared := false, noticed := false } }

/-- A region that a pin-table entry names (R318). -/
def State.pinEntry (s : State) (ctx d n : Nat) : Option Nat :=
  let e := s.reg (contextBase ctx + 0x800 + 0x200 * d + 8 * n)
  let b := bits e 47 21 * 2 ^ 21
  if has e 63 ∧ b < 0xF00000000000 then some b else none

/-- The regions that a context with `k` units on a die has pinned there, with their entries: its first valid ones but for those
that an earlier entry of its tables names, or that another die has pinned for the interface (R319). -/
def State.pinsFor (s : State) (ctx d k : Nat) (elsewhere : List Nat) : List (Nat × Nat) :=
  let early := (List.range d).flatMap fun d' => (List.range 64).filterMap fun n => s.pinEntry ctx d' n
  let own := (List.range 64).filterMap fun n => (s.pinEntry ctx d n).map (n, ·)
  (own.filter fun e => !early.contains e.2 && !elsewhere.contains e.2 && own.all fun f => f.2 != e.2 || decide (e.1 ≤ f.1)).take k

/-- Whether a context's table lets a bank of a die be pinned (R377). -/
def State.bankOpen (s : State) (ctx d bank : Nat) : Bool :=
  match s.logicalDie? ctx d with
  | some l => has (s.reg (contextBase ctx + 0x508 + 8 * l)) (bank % 64)
  | none => false

/-- The pins of a die at a boundary: each context's regions, those held over on the same entry in their banks and the others in the
lowest free banks that its table opens; what is not wanted begins to leave (R319, R320; log 102). -/
def State.pinsOn (s : State) (d : Nat) (holders : List (Nat × Nat)) : List Pin :=
  let here := s.fabric.pins.filter fun p => p.bank / 64 == d
  let elsewhere := fun (ctx : Nat) => s.fabric.pins.filterMap fun p =>
    if p.bank / 64 < d ∧ logContext p.context = logContext ctx ∧ p.leaving = false then some p.region else none
  let want := holders.flatMap fun h => (s.pinsFor h.1 d h.2 (elsewhere h.1)).map fun e => (h.1, e.1, e.2)
  let serves := fun (p : Pin) (w : Nat × Nat × Nat) => !p.leaving && p.context == w.1 && p.entry == w.2.1 && p.region == w.2.2
  let stays := fun (p : Pin) => want.any (serves p) && (s.unitsIn 1 d).contains p.bank && s.bankOpen p.context d p.bank
  let old := here.map fun p => if stays p then p else { p with leaving := true }
  (want.filter fun w => !old.any fun p => serves p w).foldl (fun acc w =>
    match (s.unitsIn 1 d).find? fun b => s.bankOpen w.1 d b && acc.all fun p => p.bank != b || p.leaving with
    | none => acc
    | some b => acc ++ [{ context := w.1, entry := w.2.1, region := w.2.2, bank := b }]) old

/-- The banks of a die are leased to the contexts whose pins they serve, and to make up their units the lowest of the others, first
those that they held (R319, R366). -/
def State.leaseBanks (s : State) (d : Nat) (holders : List (Nat × Nat)) (pins : List Pin) : State :=
  let pinned := pins.filterMap fun p => if p.leaving then none else some (p.bank, p.context)
  let taken := holders.foldl (fun (acc : List (Nat × Nat)) h =>
    let free := (s.unitsIn 1 d).filter fun u => acc.all fun x => x.1 != u
    let order := free.filter (fun u => s.leaseOf 1 u == some h.1) ++ free.filter fun u => s.leaseOf 1 u != some h.1
    acc ++ (order.take (h.2 - (pinned.filter fun x => x.2 == h.1).length)).map (·, h.1)) pinned
  let others := s.leases.filter fun e => !(decide (e.1 / 2048 = 1) && decide (e.1 % 2048 / 64 = d))
  { s with leases := taken.foldl (fun (t : Tbl Nat) x => t.set (unitKey 1 x.1) x.2) others }

/-- Pins begin to leave, and new ones are set, at the boundary, die by die (R319, R320); home passes by DSB_PIN and
DSB_UNPIN_COMPLETE. -/
def State.setPins (s : State) (on : Nat → Bool) : State :=
  ((List.range 8).filter on).foldl (fun s d =>
    let holders := s.contexts.filterMap fun (c : Nat × Context) =>
      let k := s.unitsHeld c.1 1 d
      if k = 0 then none else some (c.1, k)
    let pins := s.pinsOn d holders
    let s := s.leaseBanks d holders pins
    { s with fabric := { s.fabric with pins := (s.fabric.pins.filter fun p => p.bank / 64 != d) ++ pins } }) s

/-- Contexts go by their place tables as a boundary finds them (R410). -/
def State.latchDies (s : State) : State :=
  { s with contexts := s.contexts.map fun (c : Nat × Context) => (c.1, { c.2 with dies := s.reg (contextBase c.1) }) }

/-- SECDED and HBM corrections of a die since its last boundary are counted: a free number (R411; log 33). -/
def State.countCorrections (s : State) (d : Nat) : State :=
  s.spend.setReg (errorCounter (errCorrect d)) (s.reg (errorCounter (errCorrect d)) + s.free)

/-- The boundary of some dies: new leases, units that leave service, halts, place tables, pins and rails (R21, R361, R368). -/
def State.boundary (s : State) (on : Nat → Bool) : State :=
  let leaving := s.market.leaving.filter fun u => on (unitDie u)
  let s := (((((s.takeEffect on).leaveService leaving).haltAtBoundary leaving on).remapTables leaving).setPins on).railsAtBoundary on
  let s := if leaving.isEmpty then s else s.retestFit
  (((((List.range 8).filter on).foldl (fun s d => s.countCorrections d) s).latchDies).countHeld on).countIdle on

/-- INTERVAL_START: at T the purses are refilled, every die but the late ones has its boundary, and the index record is sent; the
late dies have theirs after their notices (R356, R361, R371). -/
def State.intervalStart (s : State) : State :=
  let m := s.market
  if m.noticed then
    let s := (s.refill.nextInterval.boundary fun d => !m.late.contains d)
    { s with market := { s.market with pod := BitVec.ofNat 64 (bits (s.reg (packageBase + 0x18)) 31 0) } }.sendIndex
  else if m.lateNoticed then
    let s := s.boundary fun d => m.late.contains d
    { s with market := { s.market with late := [], lateNoticed := false } }
  else s

/-- INTERVAL_START (R361). -/
def execIntervalStart (s : State) : Host.Outcome State Fault Refusal := .next s.intervalStart

/-! ## CLAIM after a move (R352) -/

/-- A hot range of an interface: first address and length in bytes, if it is valid (R350). -/
def State.hotRange (s : State) (ctx n : Nat) : Option (Nat × Nat) :=
  let a := ifaceBase (contextVf ctx) (contextIface ctx) + 0x80 + 16 * n
  let lo := s.reg a
  if has lo 63 then some (bits lo 47 12 * 4096, bits (s.reg (a + 8)) 31 0 * 4096) else none

/-- Claim the pages of a range on a die: moved, home and skipped. -/
def State.claimRange (s : State) (ctx die last : Nat) : Nat → Nat → List Nat → State × List Nat
  | 0, _, n => (s, n)
  | fuel + 1, va, n =>
    if last ≤ va then (s, n)
    else
      match s.claimPage ctx die va with
      | (s, size, what) => s.claimRange ctx die last fuel (va - va % size + size) (n.set what (n.getD what 0 + 1))

/-- After the first restore on a die that a unit was moved to, the hot ranges are claimed there (R352). -/
def State.claimAfterMove (s : State) (ctx die : Nat) : State :=
  let x := s.context ctx
  if x.arrived.contains die then
    let s := s.setContext ctx { x with arrived := x.arrived.filter (· != die) }
    if has (s.migpol ctx) 0 then
      let r := (List.range 8).foldl (fun (acc : State × List Nat) n =>
        match acc.1.hotRange ctx n with
        | none => acc
        | some (va, len) => acc.1.claimRange ctx die (va + len) ((len + 4095) / 4096) va acc.2) (s, [0, 0, 0])
      [0, 1, 2].foldl (fun s n => s.use (some ctx) die (11 + n) (r.2.getD n 0)) r.1
    else s
  else s

/-! ## Peer prices (R371) -/

/-- INDEX_RECORD_RECEIVE: the entry of a peer in the pod group, to which a link leads, is replaced; a record that would displace another package's
is dropped and counted (R371). -/
def State.indexRecord (s : State) (pkg : BitVec 16) (seq : Word) (prices : List Word) : State :=
  let at_ := packageBase + 0x4000 + 168 * (pkg.toNat % 64)
  let head := s.reg at_
  if s.reachesPeer pkg.toNat = false then s
  else if s.regs.any (fun e => e.1 == at_) && bits head 15 0 != pkg.toNat then s.count (errorCounter errIndex) 1
  else
    let s := s.setReg at_ (BitVec.ofNat 64 (pkg.toNat + seq.toNat * 2 ^ 16))
    (List.range 20).foldl (fun s i =>
      s.setReg (at_ + 8 + 8 * i) (BitVec.ofNat 64 ((prices.getD (2 * i) 0).toNat + (prices.getD (2 * i + 1) 0).toNat * 2 ^ 32))) s

/-- INDEX_RECORD_RECEIVE (R371). -/
def execIndexRecordReceive (pkg : BitVec 16) (seq : Word) (prices : List Word) (s : State) : Host.Outcome State Fault Refusal :=
  .next (s.indexRecord pkg seq prices)

end Sys2Proof.Machine
end

