-- ==== Sys2Proof/Machine/Services.lean ====
section
/-! DEFINITION. Answers of software (R93, R98, R402), accesses of peers and of the host (R292, R406, R407), pins (R320),
links (R326, R382, R404, R405), and the discarding of contexts: machine checks (R411), function-level reset (R395) and
scrubbing (R396). -/

namespace Sys2Proof.Machine

/-! ## Service calls (R93, R402) -/

/-- The destination of a service call. -/
def Op.serviceDest (o : Op) : Option (BitVec 5) :=
  match o.kind with
  | .svc d _ _ none => some d
  | _ => none

/-- The operation with a reply held. -/
def Op.holding (o : Op) (v : DWord) : Op :=
  match o.kind with
  | .svc d r a none => { o with kind := .svc d r a (some v) }
  | _ => o

/-- A reply to a call: written to the register of a running squad, or held with one that is halted or saved (R93). -/
def State.reply (s : State) (k id : Nat) (v : DWord) : State :=
  let s := { s with services := s.services.filter fun x => !(x.2.2.1 == k && x.2.2.2 == id) }
  let hold := fun (q : Squad) => { q with ops := q.ops.map fun o => if o.id = id then o.holding v else o }
  match s.squads.get? k with
  | none => { s with saved := s.saved.map fun (x : Nat × Saved) => (x.1, { x.2 with
      squads := x.2.squads.map fun e => if e.1 = k then (e.1, hold e.2) else e }) }
  | some q =>
    if q.halted then s.setSquad k (hold q)
    else
      match (q.ops.find? fun o => o.id == id && !o.finished).bind Op.serviceDest with
      | none => s
      | some d => (s.onSquad k fun q => q.setSreg d.toNat v).finishOp k id

/-- Whether the record of a call has been appended to its ring: the index is not one of those that waiting records will have
(R401). -/
def State.callSent (s : State) (x : Nat × Nat × Nat × Nat) : Bool :=
  let off := ifaceBase (x.1 / 64) (x.1 % 64) + 0x240
  decide ((s.waiting.filter fun w => w.queue == off).length ≤ (x.2.1 + 65536 - bits (s.reg (off + 8)) 31 16) % 65536)

/-- SVC_TIMEOUT (R93, R401): the reply is all ones; the timeout runs from the moment the record is appended. -/
def execSvcTimeout (squad op : Nat) (s : State) : Host.Outcome State Fault Refusal :=
  .next (if s.services.any fun x => x.2.2.1 == squad && x.2.2.2 == op && s.callSent x then s.reply squad op (BitVec.allOnes 64) else s)

/-- SERVICE_REPLY (R402): the call that a ring index names is answered; an answered or unknown one is ignored. -/
def State.serviceReply (s : State) (vf iface : Nat) (value : DWord) (idx : Word) : State :=
  match s.services.find? fun x => x.1 == vf * 64 + iface && x.2.1 == idx.toNat % 65536 with
  | none => s
  | some x => s.reply x.2.2.1 x.2.2.2 value

/-- SERVICE_REPLY (R402). -/
def execServiceReply (vf iface : Nat) (value : DWord) (idx : Word) (s : State) : Host.Outcome State Fault Refusal :=
  .next (s.serviceReply vf iface value idx)

/-- ESCALATED_SQUAD_RESUME (R98): the split that raised the trap goes to the position given; of a saved squad it goes there at the
restore. -/
def State.resumeSquad (s : State) (k : Nat) (pos : DWord) : State :=
  let f := fun (q : Squad) => match q.escalation with
    | none => q
    | some e => { q with
        escalation := none
        splits := q.splits.map fun p =>
          if p.id = e.split then { p.atHeader (pos &&& 0x0007FFFFFFFFFFFC#64) with supplied := !(s.squads.get? k).isSome } else p }
  { s.onSquad k f with saved := s.saved.map fun (x : Nat × Saved) => (x.1, { x.2 with
      squads := x.2.squads.map fun e => if e.1 = k then (e.1, f e.2) else e }) }

/-- ESCALATED_SQUAD_RESUME (R98). -/
def execEscalatedSquadResume (squad : Nat) (pos : DWord) (s : State) : Host.Outcome State Fault Refusal :=
  .next (s.resumeSquad squad pos)

/-! ## Peers and the host (R292, R406, R407) -/

/-- The export entry that a handle names (R407): interface, address, bytes, peer, generation and permissions. -/
structure Export where
  iface : Nat
  va : Nat
  len : Nat
  peer : Nat
  gen : Nat
  valid : Bool
  readable : Bool
  writable : Bool

/-- Where the entry of a partition lies (R399). -/
def exportBase (vf index : Nat) : Nat := partBase vf + 0x8000 + 16 * index

/-- The export entry of a partition. -/
def State.exportEntry (s : State) (vf index : Nat) : Export :=
  let lo := s.reg (exportBase vf index)
  let hi := s.reg (exportBase vf index + 8)
  { iface := bits lo 47 28, va := (bits lo 63 48 + bits hi 19 0 * 2 ^ 16) * 4096, len := bits hi 47 23 * 4096
    peer := bits hi 63 48, gen := bits lo 27 9, valid := has lo 0, readable := has lo 1, writable := has lo 2 }

/-- The operation that a peer's atomic asks for, as its code and element type name it (R294, R298), and its bytes. -/
def peerAtomic (fn et : Nat) (data : List Byte) : OpKind × Nat :=
  if fn = 12 then (.compareSwap 0, data.length / 2) else (.atomic fn et true 0, data.length)

/-- INCOMING_POD_ACCESS (R294, R406, R407): a peer's access is checked, translated by the exporting interface and performed at
the home, charged to the interface's lowest-numbered context; the read takes as many bytes as `data` has, and an atomic, which is a
write, answers with the old bytes. A PASID that no interface carries names none (log 12), and a peer to which no link of the group
leads reaches nothing (R404). -/
def State.incomingPod (s : State) (peer : Nat) (handle : Word) (offset : Nat) (access : PeerAccess) (data : List Byte) : State :=
  let h : DWord := handle.setWidth 64
  let vf := bits h 12 8
  let e := s.exportEntry vf (bits h 7 0)
  let refuse := fun (s : State) => { s with out := s.out ++ [.podRefused peer] }
  let n := match access with
    | .atomic fn et => (peerAtomic fn et data).2
    | _ => data.length
  if !s.reachesPeer peer || !e.valid || decide (e.peer ≠ peer) || decide (e.gen ≠ bits h 31 13) || decide (64 ≤ e.iface) || decide (e.len < offset + n) ||
      (access != .read && !e.writable) || (access != .write && !e.readable) then refuse s
  else
    let ctx := (s.contextsIn vf e.iface).headD (contextKey vf e.iface 0)
    let a := e.va + offset
    match access with
    | .read => match s.devRead ctx a data.length with
      | (s, some b) => { s with out := s.out ++ [.data b] }
      | (s, none) => refuse s
    | .write => match s.devWrite ctx a data with
      | (s, true) => s
      | (s, false) => refuse s
    | .atomic fn et =>
      let k := peerAtomic fn et data
      match (s.devRecall ctx a k.2).devRead ctx a k.2 with
      | (s, none) => refuse s
      | (s, some old) =>
        match s.devWrite ctx a ((atomicBytes k.1 k.2 old data).getD old) with
        | (s, true) => { s with out := s.out ++ [.data old] }
        | (s, false) => refuse s

/-- INCOMING_POD_ACCESS (R407). -/
def execIncomingPodAccess (peer : Nat) (handle : Word) (offset : Nat) (access : PeerAccess) (data : List Byte)
    (s : State) : Host.Outcome State Fault Refusal :=
  .next (s.incomingPod peer handle offset access data)

/-- Before software reads a save area, the deferred tiles of its owner are spilled (R343). -/
def State.spillForRead (s : State) (addr n : Nat) : State :=
  let owners := distinct (s.cores.flatMap fun (c : Nat × Core) => c.2.tiles.filterMap fun t =>
    if t.2.deferred.isSome then some t.2.context else none)
  owners.foldl (fun s o =>
    let base := s.saveBase (4 * o)
    let meets := (s.pages (4 * o) base (base + 4096 * s.savePages (4 * o))).any fun p =>
      let pa := p.2.2.pa + (p.1 - p.2.2.va)
      decide (pa < addr + n) && decide (addr < pa + p.2.1)
    if meets then (s.cores.map (·.1)).foldl (fun s c => s.spillTiles c fun _ t => t.context == o) s else s) s

/-- A KEYSLOT register (R381). -/
def keySlotReg (slot : Nat) : Nat := packageBase + 0x1000 + 8 * slot

/-- HOST_ACCESS (R292): host software reads or writes memory at its home, HBM under the key slot of the leaf that maps it, 0 where none
does (log 34); the port refuses a slot that has an owner (R381). -/
def State.hostDoes (s : State) (addr : Nat) (write : Bool) (data : List Byte) : State :=
  let slot := if isHbm addr then ((s.leafOver addr).map fun l => keySlot (s.homeWord 0 l)).getD 0 else 0
  if has (s.reg (keySlotReg slot)) 0 then { s with out := s.out ++ [.hostRefused addr] }
  else if write then
    let s := if isHbm addr then s.checkLines none addr data.length true else s
    (s.recall none addr data.length).homeWrite slot addr data
  else
    let s := s.spillForRead addr data.length
    { s with out := s.out ++ [.data (s.homeBytes slot addr data.length)] }

/-- HOST_ACCESS (R292). -/
def execHostAccess (addr : Nat) (write : Bool) (data : List Byte) (s : State) : Host.Outcome State Fault Refusal :=
  .next (s.hostDoes addr write data)

/-! ## Pins (R320) -/

/-- DSB_PIN (R320). -/
def execDsbPin (ctx die entry : Nat) (s : State) : Host.Outcome State Fault Refusal := .next ((s.pinRegion ctx die entry).resumed s)

/-- DSB_UNPIN_COMPLETE (R320). -/
def execDsbUnpinComplete (bank : Nat) (s : State) : Host.Outcome State Fault Refusal := .next ((s.unpin bank).resumed s)

/-! ## Discarding (R346, R395, R411) -/

/-- A squad, with what it holds, is gone. -/
def State.discardGang (s : State) (gk : Nat) : State :=
  match s.gangs.get? gk with
  | none => s
  | some g =>
    let keys := (s.gangSquads gk).map (·.1)
    let old := ((s.saved.filter fun (x : Nat × Saved) => g.teams.contains x.1).map fun (x : Nat × Saved) => x.2.squads.map (·.1)).flatten
    let s := keys.foldl (fun s k => (s.stopSquad k).removeSquad k) s
    let cores := s.gangCores gk
    let s := { s with
      teams := s.teams.filter fun t => t.2.gang != gk
      saved := s.saved.filter fun (t : Nat × Saved) => !g.teams.contains t.1
      gangs := s.gangs.erase gk
      services := s.services.filter fun x => !old.contains x.2.2.1
      cores := s.cores.map fun (c : Nat × Core) => (c.1, { c.2 with tiles := c.2.tiles.filter fun x => !(keys ++ old).contains x.2.squad }) }
    cores.foldl (fun s c => s.shrinkRegion c) s

/-- A context is destroyed: its launches, its freshness entries, and what it was to lease next (R386, R395, R411). -/
def State.destroyContext (s : State) (ctx : Nat) : State :=
  let lks := (s.launches.filter fun l => l.2.context == ctx).map (·.1)
  let s := ((s.gangs.filter fun g => lks.contains g.2.launch).map (·.1)).foldl (fun s g => s.discardGang g) s
  { s with
    launches := s.launches.filter fun l => l.2.context != ctx
    contexts := s.contexts.erase ctx
    freshness := s.freshness.filter fun (e : Nat × Nat) => e.1 / 2 ^ 32 != ctx
    market := { s.market with
      next := s.market.next.filter fun e => e.2 != ctx
      sampled2 := s.market.sampled2.filter fun b => b.bidder != ctx } }

/-- The owner of an uncorrectable error loses its work: launches end, MCHK is sent, the context goes (R376, R411). -/
def State.machineCheck (s : State) (ctx addr : Nat) : State :=
  let lks := (s.launches.filter fun l => l.2.context == ctx && l.2.ended.isNone).map (·.1)
  let s := ((s.gangs.filter fun g => lks.contains g.2.launch).map (·.1)).foldl (fun s g => s.discardGang g) s
  let s := lks.foldl (fun s l => s.endLaunch l 4) s
  let b := eventRecord evMchk 0 0 0 0 addr
  ((s.eventBoth (contextVf ctx) (contextIface ctx) b).event0 b).destroyContext ctx

/-- UNCORRECTABLE_ERROR (R411): an HBM line with one stays so until it is written, and each read of it, a walk's among them, shows it;
the context that the error is met in has its machine check. An error that no context meets, and that is in no HBM line, is in state
that no context owns. -/
def State.uncorrectable (s : State) (ctx : Option Nat) (addr : Nat) : State :=
  let f := s.fabric
  let s := if isHbm addr then { s with fabric := { f with bad := distinct (f.bad ++ [addr / 128]) } } else s
  match ctx with
  | some c => s.machineCheck c addr
  | none => if isHbm addr then s else { s.event0 (eventRecord evRefused 0 0 0 0 addr) with submissionsStopped := true }

/-- UNCORRECTABLE_ERROR (R411). -/
def execUncorrectableError (ctx : Option Nat) (addr : Nat) (s : State) : Host.Outcome State Fault Refusal :=
  .next (s.uncorrectable ctx addr)

/-! ## Links (R326, R382, R404, R405) -/

/-- The machine checks that reads of uncorrectable lines have raised (R411). -/
def State.serveChecks (s : State) : State :=
  let l := s.fabric.checks
  l.foldl (fun s x => if (s.contexts.get? x.1).isSome then s.machineCheck x.1 x.2 else s)
    { s with fabric := { s.fabric with checks := [] } }

/-- LINK_CRC_FAILURE: the flit is sent again on the same lane, and counted (R326, R411): lanes 0 to 127 of a die are the leasable
ones, 128 to 155 its base lanes, and 156 to 283 stand for the off-package lanes that end on it (log 103). -/
def execLinkCrcFailure (die lane : Nat) (s : State) : Host.Outcome State Fault Refusal :=
  .next (if lane < 284 then s.count (errorCounter (errRetry die)) 1 else s)

/-- HBM_LINK_TAG_FAILURE: the flit is sent again, or the second failure is uncorrectable (R382). -/
def execHbmLinkTagFailure (stack : Nat) (again : Bool) (ctx addr : Nat) (s : State) : Host.Outcome State Fault Refusal :=
  .next (if again then s.machineCheck ctx addr else s.count (errorCounter (errRetry (stack / 2))) 1)

/-- The keys of a stack's link are replaced, and its counter starts again (R382). -/
def State.rekeyLink (s : State) (stack : Nat) : State :=
  { s.spend with
    linkKeys := s.linkKeys.set stack (Config.freshKey s.fresh)
    fabric := { s.fabric with nonces := s.fabric.nonces.erase stack } }

/-- Links whose counter has come halfway to its bound get new keys (R382). -/
def State.rekeyLinks (s : State) : State :=
  (s.fabric.nonces.filter fun e => decide (2 ^ 59 ≤ e.2)).foldl (fun s e => s.rekeyLink e.1) s

/-- HBM_LINK_REKEY (R382). -/
def execHbmLinkRekey (stack : Nat) (s : State) : Host.Outcome State Fault Refusal := .next (s.rekeyLink stack)

/-- PODCFG (R404). -/
def podCfg : Nat := packageBase + 0x18

/-- Whether a launch waits on peers: a pod collective not done, or a router barrier of pod scope (R220, R311, R405). -/
def State.needsPod (s : State) (lk : Nat) (l : Launch) : Bool :=
  decide (2 ≤ l.podCount) && (l.routers.toList.any (fun r => r.scope == some 6) ||
    ((s.gangsOf lk).any fun g => (s.gangSquads g.1).any fun e => (at' e.2.commands 2 []).any fun c =>
      c.record.isNone && c.rendezvous.1 == 3))

/-- POD_LINK_DOWN (R404, R405): launches that need the link end with ENDED, unless another link still joins the same peer of the group
(log 111). -/
def State.podDown (s : State) (link : Nat) : State :=
  let peer := s.peers.get? link
  let s := { s.setReg podCfg (withBits (s.reg podCfg) (32 + link) (32 + link) 0) with peers := s.peers.erase link }
  if (peer.map fun p => p.2 != bits (s.reg podCfg) 31 16 || s.reachesPeer p.1).getD true then s
  else (s.launches.filter fun l => l.2.ended.isNone && s.needsPod l.1 l.2).foldl (fun s l => s.endLaunch l.1 4) s

/-- POD_LINK_DOWN (R405). -/
def execPodLinkDown (link : Nat) (s : State) : Host.Outcome State Fault Refusal := .next (if link < 8 then s.podDown link else s)

/-- POD_LINK_UP (R404): the link is trained with the peer to which it is wired (log 111). -/
def State.podUp (s : State) (link : Nat) : State :=
  { s.setReg podCfg (withBits (s.reg podCfg) (32 + link) (32 + link) 1) with
    peers := s.peers.set link ((Config.podPeer link).1.toNat, (Config.podPeer link).2.toNat) }

/-- POD_LINK_UP (R404). -/
def execPodLinkUp (link : Nat) (s : State) : Host.Outcome State Fault Refusal := .next (if link < 8 then s.podUp link else s)

/-! ## Scrubbing (R396) -/

/-- The leaves of one reset or destruction become scrub-pending: ZP is set, their translations go, and those of HBM are recorded
(R396). -/
def State.scrubLater (s : State) (vf : Nat) (l : List (Nat × Nat × Nat)) : State :=
  let s := l.foldl (fun s x =>
    let e := s.homeWord 0 x.1
    if e.testBit 9 then s else s.homeWrite 0 x.1 (leBytes (e + 2 ^ 9) 8)) s
  let s := s.dropTlb fun t => l.any fun x => x.1 == t.leaf2
  let pages := l.filter fun x => isHbm (frameOf (s.homeWord 0 x.1))
  { s with
    scrubs := s.scrubs ++ pages.map fun x => ⟨s.nextId, vf, x.1, x.2.1, x.2.2⟩
    nextId := s.nextId + 1 }

/-- Sweep one scrub-pending page as a first write does; a leaf of a destroyed key slot gets KEY 0 (R396). -/
def State.scrubOne (s : State) (x : Scrub) : State :=
  let s := { s with scrubs := s.scrubs.erase x }
  let e := s.homeWord 0 x.leaf
  let s := if e.testBit 9 = false then s
    else
      let slot := keySlot e
      let gone := decide (slot ≠ 0) && (s.keys.get? slot).isNone
      let s := if gone then s.homeWrite 0 x.leaf (leBytes (e - slot * 2 ^ 46) 8) else s
      let y : Xlate := { pa := frameOf e, key := if gone then 0 else slot, nc := false, leaf := x.leaf, size := x.size }
      let s := (s.sweepBegin y).sweepEnd x.leaf
      { s with scrubbed := s.scrubbed.set x.job (s.scrubbed.getD x.job 0 + 1) }
  if s.scrubs.any fun y => y.job == x.job then s
  else { s.event0 (eventRecord evScrubbed 0 0 x.vf 0 (s.scrubbed.getD x.job 0)) with scrubbed := s.scrubbed.erase x.job }

/-- SCRUB_PAGE (R396): the lowest scrub-pending page whose frame lies on a die. -/
def State.scrub (s : State) (d : Nat) : State :=
  let mine := s.scrubs.filter fun x => dieOfPa (frameOf (s.homeWord 0 x.leaf)) == d
  match mine with
  | [] => s
  | x :: xs => s.scrubOne (xs.foldl (fun a b => if b.ppa < a.ppa then b else a) x)

/-- SCRUB_PAGE (R396). -/
def execScrubPage (die : Nat) (s : State) : Host.Outcome State Fault Refusal := .next (s.scrub die)

/-! ## Function-level reset (R346, R395) -/

/-- A key slot is zeroed (R381). -/
def State.destroyKey (s : State) (slot : Nat) : State :=
  { s.setReg (keySlotReg slot) (s.reg (keySlotReg slot) &&& 0x7DFFFFFFFFFFFFFF#64) with keys := s.keys.erase slot }

/-- The HBCTL register of an interface (R392). -/
def hbCtl (vf iface : Nat) : Nat := ifaceBase vf iface + 0x30

/-- Whether a unit's cluster last held a context of a partition. -/
def State.ofPart (s : State) (core vf : Nat) : Bool := ((s.cluster (clusterOf core)).last.map contextVf) == some vf

/-- FUNCTION_LEVEL_RESET (R395). -/
def State.resetFunction (s : State) (vf : Nat) : State :=
  -- step 1: the submission queues stop
  let s := (s.regs.filter fun (e : Nat × DWord) => isIface e.1 && decide ((e.1 - 0x10000000) / 0x800000 = vf) &&
      (decide (inIface e.1 = 0x208) || decide (inIface e.1 = 0x228))).foldl (fun s e => s.setReg e.1 (withBits (s.reg e.1) 63 63 0)) s
  -- a CKPT under way ends with status RESET (R348)
  let s := match (s.parts.getD vf {}).job with
    | some (win, _, _) => (s.setReg (win + 0x20) 0).setReg (ckCtl vf) (withBits (s.reg (ckCtl vf)) 15 8 4)
    | none => s
  -- steps 2 and 3: gangs, images, circuits, records
  let ctxs := (s.contexts.filter fun (c : Nat × Context) => contextVf c.1 == vf).map (·.1)
  let sealed := ctxs.filter fun c => (s.context c).isProtected
  let slots := (List.range 64).filter fun k => has (s.reg (keySlotReg k)) 57 && decide (bits (s.reg (keySlotReg k)) 56 52 = vf)
  let gangs := (s.gangs.filter fun g => contextVf (s.gangContext g.2) == vf).map (·.1)
  let s := (gangs.flatMap fun g => (s.gangSquads g).map (·.1)).foldl (fun s k => s.closeCollective k) s
  let s := gangs.foldl (fun s g => s.discardGang g) s
  let s := ctxs.foldl (fun s c => s.destroyContext c) s
  let s := { s with
    launches := s.launches.filter fun l => contextVf l.2.context != vf
    cores := s.cores.map fun (c : Nat × Core) => (c.1, { c.2 with faults := c.2.faults.filter fun e => faultVf e.2.bytes != vf }) }.unlockPart vf
  let s := (List.range 1024).foldl (fun s i =>
    let a := packageBase + 0x2000 + 8 * i
    let v := s.reg a
    if has v 63 ∧ bits v 35 31 = vf then s.setReg a (withBits v 63 63 0) else s) s
  let s := { s with waiting := s.waiting.filter fun w =>
    !((isPart w.queue && (w.queue - 0x10000000) / 0x800000 == vf) ||
      (w.queue == packageBase + 0x200 && faultVf w.bytes == vf)) }
  -- step 4: release logs, banks, tiles, and what the L1s and TLBs hold
  let s := (s.fabric.pins.filter fun p => contextVf p.context == vf).foldl (fun s p => s.emptyBank p.bank) s
  let s := { s with
    fabric := { s.fabric with
      pins := s.fabric.pins.filter fun p => contextVf p.context != vf
      l2 := s.fabric.l2.filter fun e => contextVf e.2.context != vf }
    parts := s.parts.map fun (e : Nat × Part) => if e.1 = vf then (e.1, { e.2 with stopped := false, job := none }) else e
    sweeps := s.sweeps.map fun (w : Sweep) => { w with waiting := w.waiting.filter fun x => (s.squads.get? x.1).isSome }
    cores := s.cores.map fun (c : Nat × Core) => (c.1, { c.2 with
      log := c.2.log.filter fun e => e.context / 64 != vf
      dirty := if s.ofPart c.1 vf then [] else c.2.dirty
      lines := if s.ofPart c.1 vf then [] else c.2.lines
      tlb := c.2.tlb.filter fun e => e.vf != vf
      quarters := c.2.quarters.map fun (x : Quarter) => { x with tlb := x.tlb.filter fun e => e.vf != vf }
      tiles := c.2.tiles.filter fun t => t.2.context / 64 != vf
      aown := if has c.2.aown 63 ∧ bits c.2.aown 40 36 = vf then withBits c.2.aown 63 63 0 else c.2.aown }) }
  -- step 5: scrub-pending memory, destroyed keys and sessions
  let s := s.scrubLater vf (s.leaves2 vf)
  let s := slots.foldl (fun s k => s.destroyKey k) s
  sealed.foldl (fun s c => s.setReg (hbCtl vf (contextIface c)) (withBits (s.reg (hbCtl vf (contextIface c))) 63 62 3)) s

/-- FUNCTION_LEVEL_RESET (R395). -/
def execFunctionLevelReset (vf : Nat) (s : State) : Host.Outcome State Fault Refusal :=
  .next (if vf < 32 then s.resetFunction vf else s)

end Sys2Proof.Machine
end

