-- ==== Sys2Proof/Machine/Protect.lean ====
section
/-! DEFINITION. Protected contexts: sessions, the authenticated queue, sealing, imports and exports, reports (R383 to R397),
and entries that are dropped (R389, R402). -/

namespace Sys2Proof.Machine

/-- The protected context of an interface stands in slot 0: an interface that holds one holds no other (R400). -/
def sessionContext (vf iface : Nat) : Nat := contextKey vf iface 0

/-- STATE of a session: 0 ACTIVE, 1 SEALED, 2 ERROR, 3 DESTROYED (R392). -/
def State.session (s : State) (vf iface : Nat) : Nat := bits (s.reg (hbCtl vf iface)) 63 62

/-- Set STATE. -/
def State.setSession (s : State) (vf iface x : Nat) : State :=
  s.setReg (hbCtl vf iface) (withBits (s.reg (hbCtl vf iface)) 63 62 x)

/-! ## Sessions (R383, R384, R390, R392) -/

/-- Bytes with their signatures by both identity keys (R397). -/
def signed (b : List Byte) : List Byte := b ++ Config.reportBytes 1 b ++ Config.reportBytes 2 b

/-- The submission key of an exchange with a tenant: HKDF over the ML-KEM secret followed by the ECDH secret (R390). -/
def submissionKeyOf (tenant n : Nat) : Nat := Config.hkdf (Config.kemSecret tenant n ++ Config.ecdhSecret tenant n)

/-- SESSION_CREATE: a protected context in an interface without a context, keyed by an exchange with the tenant whose public key it
registers, its HBM slot given to it alone; the device's share goes out signed (R383, R384, R390, R392, R397). -/
def State.createSession (s : State) (vf iface slot grace period : Nat) : State :=
  let ctx := sessionContext vf iface
  if 32 ≤ vf ∨ 64 ≤ iface ∨ slot = 0 ∨ 64 ≤ slot ∨ has (s.reg (keySlotReg slot)) 57 ∨ (s.contextsIn vf iface).length ≠ 0 ∨
      grace < 1 ∨ 3600 < grace ∨ period < 10 ∨ 10000 < period then s
  else
    let f := s.fresh
    let tenant := Config.freshKey (f + 1)
    let x : Context := { (s.createContext ctx).context ctx with
      isProtected := true, contextKey := Config.freshKey f, submissionKey := submissionKeyOf tenant (f + 2), keySlot := slot, tenant
      share := Config.exchangeShare tenant (f + 2) }
    let s := { (s.createContext ctx).setContext ctx x with
      fresh := f + 4
      keys := s.keys.set slot (Config.freshKey (f + 3))
      out := s.out ++ [Message.report (signed (Config.exchangeShare tenant (f + 2)))] }
    (s.setReg (keySlotReg slot) (BitVec.ofNat 64 (2 ^ 63 + 2 ^ 57 + vf * 2 ^ 52 + pasid iface * 2 ^ 32 + 1))).setReg
      (hbCtl vf iface) (BitVec.ofNat 64 (grace * 2 ^ 32 + period))

/-- SESSION_CREATE (R383). -/
def execSessionCreate (vf iface key grace period : Nat) (s : State) : Host.Outcome State Fault Refusal :=
  .next (s.createSession vf iface key grace period)

/-- The authenticated submission queue of an interface (R399). -/
def authQueue (vf iface : Nat) : Nat := ifaceBase vf iface + 0x220

/-- REKEY: the exchange with the session's tenant gives a new submission key, and E = 1; a sealed session is active again, and after ERROR the waiting entries are dropped
(R390, R393, R394). -/
def State.rekeySession (s : State) (vf iface : Nat) : State :=
  let ctx := sessionContext vf iface
  let x := s.context ctx
  let st := s.session vf iface
  if !x.isProtected || st == 3 then s
  else
    let share := Config.exchangeShare x.tenant s.fresh
    let s := { s.setContext ctx { x with submissionKey := submissionKeyOf x.tenant s.fresh, share, expect := some 1 } with
      fresh := s.fresh + 1
      out := s.out ++ [Message.report (signed share)] }
    let ctl := s.reg (authQueue vf iface + 8)
    let s := if st = 2 then s.setReg (authQueue vf iface + 8) (withBits ctl 15 0 (bits ctl 31 16)) else s
    if st = 0 then s else (s.setSession vf iface 0).eventBoth vf iface (eventRecord evResumed 0 0 0 0 0)

/-- REKEY (R390). -/
def execRekey (vf iface : Nat) (s : State) : Host.Outcome State Fault Refusal := .next (s.rekeySession vf iface)

/-- The session's context is sealed: its gangs are halted with cause SEAL (R393, R394). -/
def State.seal (s : State) (vf iface st : Nat) : State :=
  let ctx := sessionContext vf iface
  let s := (s.gangs.filter fun g => s.gangContext g.2 == ctx).foldl (fun s g => s.haltGang g.1 1) s
  (s.setSession vf iface st).eventBoth vf iface (eventRecord evSealed 0 0 0 0 0)

/-- HEARTBEAT_TIMEOUT: with a launch admitted or saved and the session active (R393). -/
def State.missHeartbeat (s : State) (vf iface : Nat) : State :=
  let ctx := sessionContext vf iface
  if (s.context ctx).isProtected && s.session vf iface == 0 && s.gangs.any fun g => s.gangContext g.2 == ctx then s.seal vf iface 1
  else s

/-- HEARTBEAT_TIMEOUT (R393). -/
def execHeartbeatTimeout (vf iface : Nat) (s : State) : Host.Outcome State Fault Refusal := .next (s.missHeartbeat vf iface)

/-- GRACE_EXPIRY: keys and slot are destroyed, the pages under the slot are scrub-pending, and the context goes (R393). -/
def State.expireGrace (s : State) (vf iface : Nat) : State :=
  let ctx := sessionContext vf iface
  let x := s.context ctx
  let st := s.session vf iface
  if !x.isProtected || (st ≠ 1 && st ≠ 2) then s
  else
    let s := (List.range 32).foldl (fun s v =>
      match (s.leaves2 v).filter fun e => keySlot (s.homeWord 0 e.1) == x.keySlot with
      | [] => s
      | l => s.scrubLater v l) (s.destroyContext ctx)
    let s := s.destroyKey x.keySlot
    (s.setSession vf iface 3).eventBoth vf iface (eventRecord evDestroyed 0 0 0 0 0)

/-- GRACE_EXPIRY (R393). -/
def execGraceExpiry (vf iface : Nat) (s : State) : Host.Outcome State Fault Refusal := .next (s.expireGrace vf iface)

/-! ## The authenticated queue (R388, R389) -/

/-- The largest sequence number. -/
def lastSeq : Nat := 2 ^ 64 - 1

/-- Whether the authenticated queue has halted: its entries wait in the ring until a rekey drops them (R389, R394). -/
def State.queueHalted (s : State) (vf iface : Nat) : Bool := s.session vf iface == 2

/-- Take an entry whose tag has held: whether it is performed (R389). -/
def State.sequence (s : State) (vf iface seq : Nat) : State × Bool :=
  let ctx := sessionContext vf iface
  let x := s.context ctx
  match x.expect with
  | none => (s.eventBoth vf iface (eventRecord evExhausted 0 0 0 0 seq), false)
  | some e =>
    if seq < e then (s.count (errorCounter errAuth) 1 |>.eventBoth vf iface (eventRecord evReplay 0 0 0 0 seq), false)
    else if e < seq then
      (((s.setContext ctx { x with expect := none }).eventBoth vf iface (eventRecord evSkip 0 0 0 0 seq)).seal vf iface 2, false)
    else (s.setContext ctx { x with expect := if e = lastSeq then none else some (e + 1) }, true)

/-- HEARTBEAT: an accepted entry, which does nothing else (R393). -/
def State.beat (s : State) (vf iface : Nat) : State :=
  match (s.context (sessionContext vf iface)).expect with
  | some e => if (s.context (sessionContext vf iface)).isProtected then (s.sequence vf iface e).1 else s
  | none => s

/-- HEARTBEAT (R393). -/
def execHeartbeat (vf iface : Nat) (s : State) : Host.Outcome State Fault Refusal := .next (s.beat vf iface)

/-- Whether ARG2 is a length of IMPORT or EXPORT (R388). -/
def transferOk (len : DWord) : Bool := decide (len.toNat % 64 = 0) && decide (len.toNat ≤ 2 ^ 24)

/-- IMPORT of an accepted entry: host data are decrypted and written; a failing tag writes nothing (R388). -/
def State.importData (s : State) (vf iface : Nat) (seq src dst len : DWord) : State :=
  let ctx := sessionContext vf iface
  let x := s.context ctx
  if !transferOk len then s
  else
    let a := portMemory (s.portOf vf) + src.toNat % 2 ^ 44
    match Config.gcmDecrypt x.submissionKey (seq.toNat * 2 ^ 32 + 2) [] (s.homeBytes 0 a len.toNat) (s.homeBytes 0 (a + len.toNat) 16) with
    | none => s
    | some data =>
      let s := (s.devWrite ctx dst.toNat data).1
      s.setContext ctx { s.context ctx with imports := (s.context ctx).imports ++ [Config.reportBytes 0 data] }

/-- EXPORT of an accepted entry (R388). -/
def State.exportData (s : State) (vf iface : Nat) (seq src dst len : DWord) : State :=
  let ctx := sessionContext vf iface
  if !transferOk len then s
  else
    match s.devRead ctx src.toNat len.toNat with
    | (s, none) => s
    | (s, some data) =>
      match Config.gcmEncrypt (s.context ctx).submissionKey (seq.toNat * 2 ^ 32 + 2) [] data with
      | (c, tag) => s.homeWrite 0 (portMemory (s.portOf vf) + dst.toNat % 2 ^ 44) (c ++ tag)

/-- Whether an interface holds a protected context. -/
def State.guarded (s : State) (vf iface : Nat) : Bool := (s.context (sessionContext vf iface)).isProtected

/-- IMPORT (R388, R389). -/
def execImportCmd (vf iface : Nat) (seq src dst len : DWord) (s : State) : Host.Outcome State Fault Refusal :=
  .next (if s.guarded vf iface && !s.queueHalted vf iface then
    match s.sequence vf iface seq.toNat with
    | (s, true) => s.importData vf iface seq src dst len
    | (s, false) => s
  else s)

/-- EXPORT (R388, R389). -/
def execExportCmd (vf iface : Nat) (seq src dst len : DWord) (s : State) : Host.Outcome State Fault Refusal :=
  .next (if s.guarded vf iface && !s.queueHalted vf iface then
    match s.sequence vf iface seq.toNat with
    | (s, true) => s.exportData vf iface seq src dst len
    | (s, false) => s
  else s)

/-- SUBMIT_DROPPED: a plain entry that is not performed (R402). -/
def State.dropSubmit (s : State) (vf iface launch : Nat) : State := s.event2 vf iface (eventRecord evSubmit 0 launch 0 0 0)

/-- SUBMIT_DROPPED (R402). -/
def execSubmitDropped (vf iface : Nat) (launch : DWord) (s : State) : Host.Outcome State Fault Refusal :=
  .next (s.dropSubmit vf iface launch.toNat)

/-- AUTH_ENTRY_DROPPED: counted, event AUTH with the SEQ found, E unchanged (R389, R391). -/
def State.dropAuth (s : State) (vf iface seq : Nat) : State :=
  (s.count (errorCounter errAuth) 1).eventBoth vf iface (eventRecord evAuth 0 0 0 0 seq)

/-- SEQ of the entry at an authenticated queue's CONS. -/
def State.seqAt (s : State) (vf iface : Nat) : Nat :=
  let ctl := s.reg (authQueue vf iface + 8)
  let a := bits (s.reg (authQueue vf iface)) 63 6 * 64 + bits ctl 15 0 % ringSize ctl * 64
  leNat (s.homeBytes 0 (portMemory (s.portOf vf) + a % 2 ^ 44) 8)

/-- AUTH_ENTRY_DROPPED (R389). -/
def execAuthEntryDropped (vf iface : Nat) (s : State) : Host.Outcome State Fault Refusal :=
  .next (s.dropAuth vf iface (s.seqAt vf iface))

/-! ## Reports (R397) -/

/-- The partition record that a report digests: RIGHTS1, FIXED, the list of stage-2 HBM leaves (R349) and the place tables. -/
def State.partitionRecord (s : State) (vf : Nat) : List Byte :=
  bytesOf (s.reg (partBase vf) :: (List.range 5).map fun c => s.reg (partBase vf + 0x400 + 8 * c)) BitVec.toNat 8 ++
  ((s.hbmLeaves vf).map fun x => leBytes x.2.2 8 ++ leBytes (sizeCode x.2.1) 8).flatten ++
  ((s.contexts.filter fun (c : Nat × Context) => contextVf c.1 == vf).map fun (c : Nat × Context) =>
    leBytes (s.reg (contextBase c.1)).toNat 8 ++ bytesOf ((List.range 160).map fun k => s.plcl c.1 k) BitVec.toNat 8 ++
      bytesOf ((List.range 8).map fun d => s.reg (contextBase c.1 + 0x508 + 8 * d)) BitVec.toNat 8).flatten

/-- The image of a firmware stage that runs: copy A, or copy B where A is refused (R408). -/
def State.stageImage (s : State) (stage : Nat) : List Byte :=
  let a := s.flash.getD (2 * stage) []
  if Config.imageReason a = 0 then a else s.flash.getD (2 * stage + 1) []

/-- ATTESTATION_REPORT: the nonce, the digests, and both signatures of what precedes them (R397). -/
def State.attest (s : State) (vf iface : Nat) (nonce : List Byte) : State :=
  let stages := ((List.range 3).map fun n => Config.reportBytes 0 (s.stageImage n)).flatten
  let body := fitTo 48 nonce ++ stages ++ Config.reportBytes 0 (s.partitionRecord vf) ++
    (if s.guarded vf iface then
      let x := s.context (sessionContext vf iface)
      x.imports.flatten ++ Config.reportBytes 0 x.share
    else [])
  { s with out := s.out ++ [Message.report (signed body)] }

/-- ATTESTATION_REPORT (R397). -/
def execAttestationReport (vf iface : Nat) (nonce : List Byte) (s : State) : Host.Outcome State Fault Refusal :=
  .next (s.attest vf iface nonce)

end Sys2Proof.Machine
end

