-- ==== Sys2Proof/Machine/Rights.lean ====
section
/-! DEFINITION. The holders of rights (R373, R374), and who may write which bits of the register blocks (R8, R399 to R401). -/

namespace Sys2Proof.Machine

/-! ## Holders of rights (R373, R374) -/

/-- Whether an agent is level 1 of a partition and holds a right there (R374). -/
def State.level1Has (s : State) (who : Agent) (vf bit : Nat) : Bool :=
  match who with
  | .level1 v => v == vf && has (s.reg (partBase vf)) bit
  | _ => false

/-- Whether PF 1 acts as level 0 for a partition under a right: 0 STAGE2, 2 KEYS, 3 MARKET (R373). -/
def State.pf1Has (s : State) (who : Agent) (vf bit : Nat) : Bool :=
  who == .pf1 && has (s.reg (packageBase + 0x20)) vf && has (s.reg (packageBase + 0x10)) bit

/-- The holder of a right that RIGHTS1 hands to level 1: level 1 while its bit is set, and level 0 while it is not (R374;
log 96). -/
def State.handed (s : State) (who : Agent) (vf bit : Nat) : Bool :=
  match who with
  | .level0 => !has (s.reg (partBase vf)) bit
  | .pf1 => false
  | .level1 v => v == vf && has (s.reg (partBase vf)) bit
  | .level2 _ _ => false

/-- The holder of a right of an interface that can be delegated: level 2 when delegated, else level 1, and level 0 while RIGHTS1
does not hand it on (R374; log 96). -/
def State.holds (s : State) (who : Agent) (vf iface bit : Nat) : Bool :=
  match who with
  | .level0 => s.handed who vf bit
  | .pf1 => false
  | .level1 v => v == vf && has (s.reg (partBase vf)) bit && !s.delegated vf iface bit
  | .level2 v i => v == vf && i == iface && s.delegated vf iface bit

/-- Level 2 of an interface, or a level above it. -/
def owns (who : Agent) (vf iface : Nat) : Bool :=
  match who with
  | .level0 => true
  | .pf1 => false
  | .level1 v => v == vf
  | .level2 v i => v == vf && i == iface

/-! ## The bits that an agent may write -/

/-- Bits `hi` to `lo` set. -/
def field64 (hi lo : Nat) : DWord := BitVec.ofNat 64 ((2 ^ (hi + 1 - lo) - 1) * 2 ^ lo)

/-- The bits of a queue's registers that its owner writes, at `off` from the queue's first register (R401): ADDR and SIZE
while EN is 0, the producer's index of a submission queue, the consumer's of another. -/
def State.queueMask (s : State) (queue at_ : Nat) (submission : Bool) : DWord :=
  let busy := has (s.reg (queue + 8)) 63
  if at_ = 0 then (if busy then 0 else field64 63 6)
  else if at_ = 8 then
    field64 63 63 ||| (if busy then 0 else field64 51 48) ||| (if submission then field64 31 16 else field64 15 0)
  else if at_ = 16 ∧ submission = false then field64 31 0
  else 0

/-- Bits of a register of an interface block that have no behaviour of their own (R399, R400). The spec names no right for the rl
fields of the submission, authenticated, service and event queues: the model lets level 2 of the interface and the levels above it
write them (log 127). -/
def State.ifaceMask (s : State) (who : Agent) (off : Nat) : DWord :=
  let vi := ifaceOf off
  let o := inIface off
  let base := off - o
  let own := owns who vi.1 vi.2
  let gate := fun (b : Bool) (m : DWord) => if b then m else 0
  if o = 0x000 then gate (s.holds who vi.1 vi.2 0) (field64 45 12 ||| 1)
  else if o = 0x008 then gate (who == .level0 || s.level1Has who vi.1 5) (field64 47 12)
  else if o = 0x010 then gate (who == .level0 || s.level1Has who vi.1 5) (field64 31 0)
  else if o = 0x020 then gate (who == .level0 || s.level1Has who vi.1 4) (field64 31 0)
  else if o = 0x028 then gate (who == .level0 || s.level1Has who vi.1 4) (field64 63 0)
  else if 0x080 ≤ o ∧ o < 0x100 then
    gate (who == .level0 || s.holds who vi.1 vi.2 7) (if o / 8 % 2 = 0 then field64 63 63 ||| field64 47 12 else field64 31 0)
  else if 0x100 ≤ o ∧ o < 0x120 then gate own (field64 63 0)
  else if 0x200 ≤ o ∧ o < 0x220 then gate own (s.queueMask (base + 0x200) (o - 0x200) true)
  else if 0x220 ≤ o ∧ o < 0x240 then gate own (s.queueMask (base + 0x220) (o - 0x220) true)
  else if 0x240 ≤ o ∧ o < 0x260 then gate own (s.queueMask (base + 0x240) (o - 0x240) false)
  else if 0x260 ≤ o ∧ o < 0x280 then gate (s.holds who vi.1 vi.2 0) (s.queueMask (base + 0x260) (o - 0x260) false)
  else if 0x280 ≤ o ∧ o < 0x290 then gate own (s.queueMask (base + 0x280) (o - 0x280) false)
  else if 0x1000 ≤ o ∧ o < 0x2000 then
    gate (s.holds who vi.1 vi.2 2) (if o / 8 % 2 = 0 then field64 63 16 ||| field64 2 0 else field64 63 0)
  else if 0x4000 ≤ o ∧ 0x800 ≤ (o - 0x4000) % 0x3000 ∧ (o - 0x4000) % 0x3000 < 0x1800 then gate own (field64 63 63 ||| field64 47 21)
  else 0

/-- Bits of a register of a partition block that have no behaviour of their own. The level-1 event queue is level 1's and level 0's:
no rule names a right for it (log 127). -/
def State.partMask (s : State) (who : Agent) (off : Nat) : DWord :=
  let vf := (off - 0x10000000) / 0x800000
  let o := inPart off
  let base := off - o
  let market := who == .level0 || s.pf1Has who vf 3
  let l1 := who == .level0 || who == .level1 vf
  let price := s.handed who vf 4
  let gate := fun (b : Bool) (m : DWord) => if b then m else 0
  if 0x440 ≤ o ∧ o < 0x468 then gate (price || (s.pf1Has who vf 3 && !has (s.reg (partBase vf)) 4)) (field64 63 0)
  else if 0x480 ≤ o ∧ o < 0x4A8 then gate price (field64 31 0)
  else if o = 0x4C0 then gate market (field64 31 0)
  else if o = 0x4C8 then gate market (field64 63 0)
  else if o = 0x508 then gate (who == .level0 || s.pf1Has who vf 0) (field64 45 12 ||| 1)
  else if 0x600 ≤ o ∧ o < 0x620 then gate (l1 || s.pf1Has who vf 0) (field64 63 0)
  else if 0x700 ≤ o ∧ o < 0x718 then gate (s.handed who vf 0) (s.queueMask (base + 0x700) (o - 0x700) false)
  else if 0x720 ≤ o ∧ o < 0x730 then gate l1 (s.queueMask (base + 0x720) (o - 0x720) false)
  else 0

/-- The rails of a die whose clusters' fixed place lies in one partition: every cluster tied to the rail is leased by a
context of it (R271, R374). -/
def State.railsOf (s : State) (vf d : Nat) : List Nat :=
  (List.range 4).filter fun r =>
    let cls := s.railClusters d r
    !cls.isEmpty && cls.all fun c => ((s.leaseOf 0 c).map contextVf) == some vf

/-- Bits of a register of a die block. -/
def State.dieMask (s : State) (who : Agent) (off : Nat) : DWord :=
  let d := (off - 0x100000) / 0x10000
  let o := (off - 0x100000) % 0x10000
  if who = .level0 then
    if o = 0x00 then field64 39 0 else if o = 0x08 then field64 7 0 else if o = 0x10 ∨ o = 0x18 then field64 1 0 else 0
  else
    match who with
    | .level1 v =>
      if o = 0x08 ∧ has (s.reg (partBase v)) 3 then
        (s.railsOf v d).foldl (fun m r => m ||| field64 (2 * r + 1) (2 * r)) 0
      else 0
    | _ => 0

/-- Bits of a register of the package block that have no behaviour of their own. -/
def State.packageMask (s : State) (who : Agent) (off : Nat) : DWord :=
  let o := off - packageBase
  let zero := who == .level0
  let gate := fun (b : Bool) (m : DWord) => if b then m else 0
  if o = 0x008 then gate zero (field64 14 0)
  else if o = 0x010 then gate zero (field64 3 0)
  else if 0x040 ≤ o ∧ o < 0x068 then gate zero (field64 31 0)
  else if 0x100 ≤ o ∧ o < 0x120 then gate (zero || (who == .pf1 && has (s.reg (packageBase + 0x10)) 2)) (field64 63 0)
  else if 0x200 ≤ o ∧ o < 0x218 then gate (zero || (who == .pf1 && has (s.reg (packageBase + 0x10)) 1)) (s.queueMask (packageBase + 0x200) (o - 0x200) false)
  else if 0x220 ≤ o ∧ o < 0x230 then gate zero (s.queueMask (packageBase + 0x220) (o - 0x220) false)
  else if 0x300 ≤ o ∧ o < 0x400 then gate zero (field64 63 0)
  else if 0x1000 ≤ o ∧ o < 0x1200 then
    let v := s.reg off
    gate (!has v 57 && (zero || s.pf1Has who (bits v 56 52) 2)) (field64 56 32 ||| 1)
  else 0

/-- Recovery (R409). -/
def State.recovering (s : State) : Bool := bits (s.reg packageBase) 15 14 == 2

/-- What software reaches in recovery: on PF 0 the capability list and the mailbox (R409). -/
def inRecovery (who : Agent) (off : Nat) : Bool :=
  who == .level0 && (decide (off < packageBase) || (decide (packageBase + 0x300 ≤ off) && decide (off < packageBase + 0x508)))

/-- The bits of the register at an offset that an agent's plain write changes: none at an offset that is no register's (R399). Device
Control 2 of a PF is level 0's (R398). -/
def State.writeMask (s : State) (who : Agent) (off : Nat) : DWord :=
  if off % 8 ≠ 0 || (s.recovering && !inRecovery who off) then 0
  else if isIface off then s.ifaceMask who off
  else if isPart off then s.partMask who off
  else if 0x100000 ≤ off ∧ off < 0x180000 then s.dieMask who off
  else if packageBase ≤ off ∧ off < packageBase + 0x10000 then s.packageMask who off
  else if off = deviceControl2 0 ∨ off = deviceControl2 1 then (if who = .level0 then field64 6 6 else 0)
  else 0

end Sys2Proof.Machine
end

