-- ==== Sys2Proof/Machine/Commands.lean ====
section
/-! DEFINITION. The commands of the register blocks' windows (R403): invalidation (R176), SUSPEND, RESUME and END (R230,
R332), checkpoints (R347 to R349), key slots (R381) and RETIRE (R21). A window is named by its offset in PF 0's BAR0. Each
command is carried out as it is posted; an invalidation stays BUSY while it awaits an access, and a CKPT while it awaits a
commit (log 63). -/

namespace Sys2Proof.Machine

/-- A command ends with a status: 0 OK, 1 REFUSED (R403). -/
def State.endWindow (s : State) (win status : Nat) : State := s.setReg (win + 0x20) (BitVec.ofNat 64 status)

/-- The command windows of an interface, of a partition and of the package (R399). -/
def ifaceWindow (vf iface : Nat) : Nat := ifaceBase vf iface + 0x100
def partWindow (vf : Nat) : Nat := partBase vf + 0x600
def packageWindow : Nat := packageBase + 0x100

/-- A command that an agent posts at a window: nothing happens where the agent may not write there; DROPPED while BUSY; REFUSED where
the right is missing or an argument invalid (R403). -/
def State.posted (s : State) (win : Post) (ok : Bool) (f : State → State) : State :=
  if s.writeMask win.who win.off = 0 then s
  else if has (s.reg (win.off + 0x20)) 63 then s.setReg (win.off + 0x20) (withBits (s.reg (win.off + 0x20)) 7 0 2)
  else if ok then f s else s.endWindow win.off 1

/-- A command that is complete once it has been performed. -/
def State.command (s : State) (win : Post) (ok : Bool) (f : State → State) : State :=
  s.posted win ok fun s => (f s).endWindow win.off 0

/-! ## Invalidation (R176) -/

/-- Every access of a partition's squads that is outstanding is performed at package scope, and walks start again. -/
def State.drainPart (s : State) (vf : Nat) (p : Nat → Bool) : State :=
  let keys := (s.squads.filter fun e => contextVf (s.contextOf e.2) == vf && p (contextIface (s.contextOf e.2))).map (·.1)
  keys.foldl (fun s k =>
    let s := s.performAll k
    let s := match s.squads.get? k with
      | some q => s.flushL1 q.core
      | none => s
    s.onSquad k fun q => { q with splits := q.splits.map fun x => { x with walked := none } }) s

/-- Whether an access under the translation that it issued with still waits, at a retraining stack or a passing home (R273, R320). -/
def State.awaits (s : State) (x : Nat × Nat) : Bool :=
  match s.op? x.1 x.2 with
  | some (_, o) => !o.finished && !o.translate && s.heldOp o
  | none => false

/-- An invalidation is complete once the accesses under old translations have been performed; until then its window is BUSY (R176,
R403). -/
def State.endInvalidation (s : State) (win vf : Nat) (p : Nat → Bool) : State :=
  let there := s.squads.filter fun e => contextVf (s.contextOf e.2) == vf && p (contextIface (s.contextOf e.2))
  match (there.flatMap fun e => e.2.ops.map fun o => (e.1, o.id)).filter s.awaits with
  | [] => s.endWindow win 0
  | l => { s.setReg (win + 0x20) (BitVec.ofNat 64 (2 ^ 63)) with invalidations := s.invalidations ++ [⟨win, l⟩] }

/-- Invalidations that await no access any more are complete (R176). -/
def State.settleInvalidations (s : State) : State :=
  s.invalidations.foldl (fun s x =>
    if x.accesses.any s.awaits then s
    else { s.endWindow x.window (bits (s.reg (x.window + 0x20)) 7 0) with invalidations := s.invalidations.erase x }) s

/-- Drop the translations of an interface in a virtual range (R176). -/
def State.invalidate1 (s : State) (vf iface base len : Nat) : State :=
  (s.drainPart vf (· == iface)).dropTlb fun t => t.vf == vf && t.iface == iface && decide (t.va < base + len) && decide (base < t.va + t.size)

/-- Drop every translation of a partition: a combined entry derives from the stage-2 entries of its table pages too (R176). -/
def State.invalidate2 (s : State) (vf : Nat) : State := (s.drainPart vf fun _ => true).dropTlb fun t => t.vf == vf

/-- INVS1, under XLATE (R176, R403). -/
def State.commandInvs1 (s : State) (win : Post) (vf iface base len : Nat) : State :=
  s.posted win (win.off == ifaceWindow vf iface && s.holds win.who vf iface 0) fun s =>
    (s.invalidate1 vf iface base len).endInvalidation win.off vf (· == iface)

/-- INVS1 (R176). -/
def execInvs1 (win : Post) (vf iface : Nat) (base len : DWord) (s : State) : Host.Outcome State Fault Refusal :=
  .next (s.commandInvs1 win vf iface base.toNat len.toNat)

/-- INVS1ALL (R176). -/
def execInvs1all (win : Post) (vf iface : Nat) (s : State) : Host.Outcome State Fault Refusal :=
  .next (s.commandInvs1 win vf iface 0 (2 ^ 48))

/-- Level 0, or PF 1 under STAGE2 (R373, R403). -/
def State.ownsStage2 (s : State) (who : Agent) (vf : Nat) : Bool := who == .level0 || s.pf1Has who vf 0

/-- INVS2 (R176, R403): the range is covered with every other translation of the partition. -/
def State.commandInvs2 (s : State) (win : Post) (vf base len : Nat) : State :=
  s.posted win (win.off == partWindow vf && s.ownsStage2 win.who vf && decide (base + len ≤ 2 ^ 48)) fun s =>
    (s.invalidate2 vf).endInvalidation win.off vf fun _ => true

/-- INVS2 (R176). -/
def execInvs2 (win : Post) (vf : Nat) (base len : DWord) (s : State) : Host.Outcome State Fault Refusal :=
  .next (s.commandInvs2 win vf base.toNat len.toNat)

/-- INVS2ALL (R176). -/
def execInvs2all (win : Post) (vf : Nat) (s : State) : Host.Outcome State Fault Refusal := .next (s.commandInvs2 win vf 0 0)

/-! ## SUSPEND, RESUME and END (R230, R332, R346, R387, R389) -/

/-- Whether a window may name a launch: level 2 its interface's, level 1 its partition's, level 0 any (R332). -/
def windowNames (win : Nat) (l : Launch) : Bool :=
  if isIface win then
    decide ((win - 0x10000000) / 0x800000 = contextVf l.context) && decide ((inPart win - 0x100000) / 0x10000 = contextIface l.context)
  else if isPart win then decide ((win - 0x10000000) / 0x800000 = contextVf l.context)
  else true

/-- SUSPEND of a launch: every gang is halted with cause REQUEST; of an ended launch no effect (R332, R346). -/
def State.suspendLaunch (s : State) (lk : Nat) (l : Launch) : State :=
  if l.ended.isSome then s
  else
    let s := s.setLaunch lk { l with suspended := true }
    (s.gangsOf lk).foldl (fun s g => s.haltGang g.1 7) s

/-- RESUME of a launch: its gangs may be restored, a refused image is tried again; a protected launch heeds an authenticated
entry alone, and none while its context is sealed (R332, R346, R387, R389, R393). -/
def State.resumeLaunch (s : State) (lk : Nat) (l : Launch) (auth : Bool) : State :=
  if (s.context l.context).isProtected && (!auth || s.session (contextVf l.context) (contextIface l.context) != 0) then s
  else
    let s := s.setLaunch lk { l with suspended := false }
    (s.gangsOf lk).foldl (fun s g => s.setGang g.1 { g.2 with refused := false }) s

/-- Whether a squad of a launch is stopped by escalation (R98). -/
def State.trapped (s : State) (lk : Nat) : Bool :=
  (s.gangsOf lk).any fun g => ((s.gangSquads g.1).any fun e => e.2.escalation.isSome) ||
    g.2.teams.any fun t => match s.saved.get? t with
      | some x => x.squads.any fun e => e.2.escalation.isSome
      | none => false

/-- END of a launch: ENDED, or TRAPPED where a squad has escalated (R98, R230). -/
def State.endFromOutside (s : State) (lk : Nat) : State := s.endLaunch lk (if s.trapped lk then 1 else 4)

/-- The launch of a context with a LAUNCHID that has not ended or been forgotten. -/
def State.launchNamed (s : State) (ctx id : Nat) : Option (Nat × Launch) :=
  s.launches.find? fun l => l.2.context == ctx && l.2.id == id

/-- A command on a launch that a window may name; PF 1 has no such right (R332, R373), and level 2 none over a protected launch, which
takes its commands by the authenticated queue (R388, R389). -/
def State.launchCommand (s : State) (win : Post) (lk : Nat) (f : State → Launch → State) : State :=
  match s.launches.get? lk with
  | none => s.command win false id
  | some l =>
    let sealed := match win.who with
      | .level2 _ _ => (s.context l.context).isProtected
      | _ => false
    s.command win (windowNames win.off l && win.who != .pf1 && !sealed) fun s => f s l

/-- SUSPEND (R332), by a window or by an entry that is performed (R389). -/
def execSuspend (win : Post) (launch : Nat) (auth : Bool) (s : State) : Host.Outcome State Fault Refusal :=
  .next (match s.launches.get? launch, auth with
    | some l, true => ((s.accept l.context).map fun s => s.suspendLaunch launch l).getD s
    | _, _ => s.launchCommand win launch fun s l => s.suspendLaunch launch l)

/-- RESUME (R332), by a window or by an entry that is performed (R389). -/
def execResume (win : Post) (launch : Nat) (auth : Bool) (s : State) : Host.Outcome State Fault Refusal :=
  .next (match s.launches.get? launch, auth with
    | some l, true => ((s.accept l.context).map fun s => s.resumeLaunch launch l true).getD s
    | _, _ => s.launchCommand win launch fun s l => s.resumeLaunch launch l auth)

/-- END (R230). -/
def execEndCmd (win : Post) (launch : Nat) (s : State) : Host.Outcome State Fault Refusal :=
  .next (s.launchCommand win launch fun s _ => s.endFromOutside launch)

/-! ## Partition-physical memory -/

/-- Bytes of partition-physical memory; what stage 2 does not map to HBM reads 0. -/
def State.partRead (s : State) (vf ppa n : Nat) : List Byte :=
  ((pageSpans ppa n).map fun x => match s.stage2 vf x.1 with
    | .ok l => if l.entry.testBit 9 then List.replicate x.2 0 else s.homeBytes (keySlot l.entry) l.out x.2
    | .error _ => List.replicate x.2 0).flatten

/-- Write bytes of partition-physical memory where stage 2 maps it. -/
def State.partWrite (s : State) (vf ppa : Nat) (bs : List Byte) : State :=
  ((pageSpans ppa bs.length).foldl (fun (acc : State × List Byte) x =>
    let s := match acc.1.stage2 vf x.1 with
      | .ok l =>
        let y : Xlate := { pa := l.out, key := keySlot l.entry, nc := false, leaf := l.addr, size := l.size }
        ((acc.1.touch y).recall none l.out x.2).homeWrite (keySlot l.entry) l.out (acc.2.take x.2)
      | .error _ => acc.1
    (s, acc.2.drop x.2)) (s, bs)).1

/-- A 64-bit word of partition-physical memory. -/
def State.partWord (s : State) (vf ppa : Nat) : Nat := leNat (s.partRead vf ppa 8)

/-! ## Checkpoints (R347 to R349) -/

/-- The granules of a partition whose bit of the dirty map is set, lowest first (R347). -/
def State.dirtyGranules (s : State) (vf : Nat) : List Nat :=
  let p := s.parts.getD vf {}
  (distinct ((s.hbmLeaves vf).flatMap fun x => s.granulesOver vf (frameOf (s.homeWord 0 x.1)) x.2.1)).filter fun g =>
    p.dirtyAll || p.dirty.contains g

/-- The shape record: fixed CLU units, then the leaves (R349). -/
def State.shape (s : State) (vf : Nat) : List Byte :=
  leBytes (s.reg (partBase vf + 0x400)).toNat 8 ++
  ((s.hbmLeaves vf).map fun x => leBytes x.2.2 8 ++ leBytes (sizeCode x.2.1) 8).flatten

/-- The contexts of a partition. -/
def State.partContexts (s : State) (vf : Nat) : List Nat :=
  (s.contexts.filter fun (c : Nat × Context) => contextVf c.1 == vf).map fun (c : Nat × Context) => c.1

/-- The checkpoint header (R348); its layout is the model's (log 35): number, FULL, granules, bytes of the shape record, contexts, the
record, and the save-area ranges. Granule records follow it. -/
def State.checkpointHeader (s : State) (vf seq granules : Nat) (full : Bool) : List Byte :=
  let shape := s.shape vf
  padTo 64 (leBytes seq 8 ++ leBytes (if full then 1 else 0) 8 ++ leBytes granules 8 ++ leBytes shape.length 8 ++
    leBytes (s.partContexts vf).length 8 ++ shape ++ ((s.partContexts vf).map fun c => leBytes c 8 ++ leBytes (s.saveBase c) 8 ++ leBytes (4096 * s.savePages c) 8).flatten)

/-- Bytes of a granule record (R348). -/
def granuleRecord : Nat := 8 + 65536

/-- Set CKCTL.STATUS (R347). -/
def State.ckStatus (s : State) (vf x : Nat) : State := s.setReg (ckCtl vf) (withBits (s.reg (ckCtl vf)) 15 8 x)

/-- The gangs of a partition. -/
def State.partGangs (s : State) (vf : Nat) : List Nat :=
  (s.gangs.filter fun g => contextVf (s.gangContext g.2) == vf).map fun (g : Nat × Gang) => g.1

/-- Step 1 of a checkpoint: every gang is halted, drained and committed where its writes do not wait, and its deferred tiles are
spilled (R348). -/
def State.quiesce (s : State) (vf : Nat) : State :=
  let gs := s.partGangs vf
  let s := gs.foldl (fun s g => s.requestHalt g 5) s
  let s := (s.cores.map (·.1)).foldl (fun s c =>
    ((s.core c).log.map (·.context)).foldl (fun s x => if x / 64 = vf then s.promoteContext c x else s) s) s
  let s := gs.foldl (fun s g => s.commitGang g) s
  (s.cores.map (·.1)).foldl (fun s c => s.spillTiles c fun _ t => t.context / 64 == vf) s

/-- Keep a copy of what the images hold, under the header of the checkpoint (log 32). -/
def State.snapshot (s : State) (vf : Nat) (head : List Byte) : State :=
  let mine := fun (c : Nat) => contextVf c == vf && !(s.context c).isProtected
  let lks := s.launches.filter fun l => mine l.2.context
  let gs := s.gangs.filter fun g => g.2.phase == .saved && mine (s.gangContext g.2)
  let x : Snapshot := {
    head
    gangs := gs
    launches := lks
    saved := s.saved.filter fun t => gs.any fun g => g.2.teams.contains t.1
    contexts := s.contexts.filter fun c => mine c.1 }
  let p := s.parts.getD vf {}
  { s with parts := s.parts.set vf { p with snapshots := (p.snapshots.filter fun y => y.head != head) ++ [x] } }

/-- Whether every gang of a partition is committed (R348). -/
def State.quiet (s : State) (vf : Nat) : Bool :=
  s.gangs.all fun g => contextVf (s.gangContext g.2) != vf || g.2.phase == .saved || g.2.phase == .ended

/-- Steps 2 to 5 of a checkpoint (R348). -/
def State.checkpoint (s : State) (vf dst size : Nat) : State :=
  let s := (s.cores.map (·.1)).foldl (fun s c => if s.ofPart c vf then s.writeBack c fun _ => true else s) s
  let s := ((s.fabric.l2.filter fun e => e.2.dirty && contextVf e.2.context == vf).map (·.1)).foldl State.cleanL2 s
  let s := (s.fabric.pins.filter fun p => contextVf p.context == vf).foldl (fun s p => s.cleanBank p.bank) s
  let gran := s.dirtyGranules vf
  let p := s.parts.getD vf {}
  let seq := p.cksq + 1
  let head := s.checkpointHeader vf seq gran.length p.ckfull
  let fit := gran.take ((size - head.length) / granuleRecord)
  let s := { s with parts := s.parts.set vf { p with dirty := [], dirtyAll := false } }
  let s := (fit.zipIdx).foldl (fun s x =>
    s.partWrite vf (dst + head.length + granuleRecord * x.2) (leBytes (65536 * x.1) 8 ++ s.partRead vf (65536 * x.1) 65536)) s
  let s :=
    if fit.length < gran.length ∨ size < head.length then
      let q := s.parts.getD vf {}
      { s with parts := s.parts.set vf { q with dirty := p.dirty ++ q.dirty.filter (fun g => !p.dirty.contains g), dirtyAll := p.dirtyAll } }.ckStatus vf 3
    else
      let s := s.partWrite vf dst head
      let q := s.parts.getD vf {}
      ({ s with parts := s.parts.set vf { q with cksq := seq, ckfull := false } }.snapshot vf head).ckStatus vf 0
  let s := { s with parts := s.parts.set vf { s.parts.getD vf {} with stopped := has (s.reg (ckCtl vf)) 1, job := none } }
  (s.partGangs vf).foldl (fun s g => s.restoreGang g) s

/-- CKPT: once every gang is committed the checkpoint is taken; until then its window is BUSY and the contexts stay halted (R348). -/
def State.takeCheckpoint (s : State) (win vf dst size : Nat) : State :=
  let s := s.quiesce vf
  if s.quiet vf then (s.checkpoint vf dst size).endWindow win 0
  else { s.setReg (win + 0x20) (BitVec.ofNat 64 (2 ^ 63)) with
    parts := s.parts.set vf { s.parts.getD vf {} with stopped := true, job := some (win, dst, size) } }

/-- Checkpoints that await a commit go on (R348). -/
def State.settleCheckpoints (s : State) : State :=
  s.parts.foldl (fun s p => match p.2.job with
    | some (win, dst, size) => s.takeCheckpoint win p.1 dst size
    | none => s) s

/-- Who may checkpoint a partition: level 0, and level 1 under CKPT (R347, R403; log 96). -/
def State.mayCheckpoint (s : State) (who : Agent) (vf : Nat) : Bool := decide (vf < 32) && (who == .level0 || s.level1Has who vf 6)

/-- CKPT, under CKPT (R348, R403). -/
def State.commandCkpt (s : State) (win : Post) (vf dst size : Nat) : State :=
  s.posted win (win.off == partWindow vf && s.mayCheckpoint win.who vf) fun s => s.takeCheckpoint win.off vf dst size

/-- CKPT (R348). -/
def execCkpt (win : Post) (vf : Nat) (dst size : DWord) (s : State) : Host.Outcome State Fault Refusal :=
  .next (s.commandCkpt win vf dst.toNat size.toNat)

/-- A checkpoint as its header reads: number, FULL, granules, whether the shape is the partition's, and the header's bytes. -/
structure Checkpoint where
  place : Nat
  seq : Nat
  full : Bool
  granules : Nat
  sameShape : Bool
  head : Nat

/-- Read the header of a checkpoint (R349). -/
def State.readCheckpoint (s : State) (vf place : Nat) : Checkpoint :=
  let shape := s.shape vf
  let n := s.partWord vf (place + 24)
  let seq := s.partWord vf place
  let granules := s.partWord vf (place + 16)
  let full := s.partWord vf (place + 8) == 1
  { place, seq, full, granules
    sameShape := n == shape.length && s.partRead vf (place + 40) shape.length == shape
    head := (40 + n + 24 * s.partWord vf (place + 32) + 63) / 64 * 64 }

/-- Whether a chain is one full checkpoint and then others with consecutive numbers (R349). -/
def chainOk : List Checkpoint → Bool
  | [] => false
  | c :: cs => c.full && cs.all (fun x => !x.full) && ((c :: cs).zip cs).all fun x => x.2.seq == x.1.seq + 1

/-- Write the granules of a checkpoint home (R349). -/
def State.putCheckpoint (s : State) (vf : Nat) (c : Checkpoint) : State :=
  (List.range c.granules).foldl (fun s i =>
    let a := c.place + c.head + granuleRecord * i
    s.partWrite vf (s.partWord vf a) (s.partRead vf (a + 8) 65536)) s

/-- The contexts of the last checkpoint of a chain take the place of the partition's own, which a protected context does not
outlive (R349, R387). -/
def State.takeSnapshot (s : State) (vf : Nat) (head : List Byte) : State :=
  let s := (s.partContexts vf).foldl (fun s c => s.destroyContext c) s
  match (s.parts.getD vf {}).snapshots.find? fun x => x.head == head with
  | none => s
  | some x =>
    let put_ := fun {α : Type} (t : Tbl α) (l : Tbl α) => l.foldl (fun (t : Tbl α) (e : Nat × α) => Tbl.set t e.1 e.2) t
    { s with
      gangs := put_ s.gangs x.gangs
      launches := put_ s.launches x.launches
      saved := put_ s.saved x.saved
      contexts := put_ s.contexts x.contexts }

/-- RESTORE (R349). -/
def State.restoreChain (s : State) (vf list count : Nat) : State :=
  let chain := (List.range count).map fun i => s.readCheckpoint vf (s.partWord vf (list + 8 * i))
  if chain.any fun c => !c.sameShape then s.ckStatus vf 1
  else if !chainOk chain then s.ckStatus vf 2
  else
    let s := (s.partGangs vf).foldl (fun s g => s.discardGang g) s
    let head := ((chain.getLast?).map fun c => s.partRead vf c.place c.head).getD []
    let s := chain.foldl (fun s c => s.putCheckpoint vf c) s
    let s := s.takeSnapshot vf head
    (s.partGangs vf).foldl (fun s g => s.restoreGang g) (s.ckStatus vf 0)

/-- RESTORE, under CKPT (R349, R403). -/
def State.commandRestore (s : State) (win : Post) (vf list count : Nat) : State :=
  s.command win (win.off == partWindow vf && s.mayCheckpoint win.who vf) fun s => s.restoreChain vf list count

/-- RESTORE (R349). -/
def execRestore (win : Post) (vf : Nat) (list count : DWord) (s : State) : Host.Outcome State Fault Refusal :=
  .next (s.commandRestore win vf list.toNat count.toNat)

/-! ## Key slots (R381) and RETIRE (R21) -/

/-- Level 0, or PF 1 under KEYS for a slot whose owner is a partition of port 1 (R373, R403). -/
def State.ownsKey (s : State) (who : Agent) (slot : Nat) : Bool :=
  decide (slot < 64) && (who == .level0 || s.pf1Has who (bits (s.reg (keySlotReg slot)) 56 52) 2)

/-- A key slot gets its keys from the host memory of the function that posts (R381). -/
def State.loadKey (s : State) (port slot addr : Nat) : State :=
  let k := Config.unwrapKey (s.homeBytes 0 (portMemory port + addr % 2 ^ 44) 96)
  { s.setReg (keySlotReg slot) (withBits (s.reg (keySlotReg slot)) 63 63 1) with keys := s.keys.set slot k }

/-- KEYLOAD, of level 0 or under KEYS (R381, R384, R403). -/
def State.commandKeyload (s : State) (win : Post) (slot addr : Nat) : State :=
  s.command win (win.off == packageWindow && s.ownsKey win.who slot && !has (s.reg (keySlotReg slot)) 57) fun s =>
    s.loadKey (if win.who = .pf1 then 1 else 0) slot addr

/-- KEYLOAD (R381). -/
def execKeyload (win : Post) (slot : Nat) (addr : DWord) (s : State) : Host.Outcome State Fault Refusal :=
  .next (s.commandKeyload win slot addr.toNat)

/-- KEYDESTROY, of level 0 or under KEYS (R381, R403). -/
def State.commandKeydestroy (s : State) (win : Post) (slot : Nat) : State :=
  s.command win (win.off == packageWindow && s.ownsKey win.who slot) fun s => s.destroyKey slot

/-- KEYDESTROY (R381). -/
def execKeydestroy (win : Post) (slot : Nat) (s : State) : Host.Outcome State Fault Refusal := .next (s.commandKeydestroy win slot)

/-- A unit is to leave service at the boundary after the next bid close (R21). -/
def State.retire (s : State) (cls unit : Nat) : State :=
  let u := unitKey cls unit
  if s.retired.contains u ∨ s.retiring.contains u then s else { s with retiring := s.retiring ++ [u] }

/-- RETIRE, of level 0 (R21, R403). -/
def State.commandRetire (s : State) (win : Post) (cls unit : Nat) : State :=
  s.command win (win.off == packageWindow && win.who == .level0 && decide (cls < 5) && decide (unit < 8 * unitsPerDie cls)) fun s =>
    s.retire cls unit

/-- RETIRE (R21). -/
def execRetire (win : Post) (cls unit : Nat) (s : State) : Host.Outcome State Fault Refusal := .next (s.commandRetire win cls unit)

/-! ## CMDCODE (R403) -/

/-- Whether an offset is a command window's (R399). -/
def isWindow (off : Nat) : Bool :=
  off == packageWindow || (isIface off && inIface off == 0x100) || (isPart off && !isIface off && inPart off == 0x600)

/-- The codes of the commands (R403). -/
def commandCodes : List Nat := [0x01, 0x02, 0x03, 0x04, 0x10, 0x11, 0x12, 0x20, 0x21, 0x30, 0x31, 0x32]

/-- The command that CMDCODE of a window names is performed with CMDARG0 and CMDARG1; what the window's block fixes comes from it
(R403). -/
def State.postCommand (s : State) (win : Post) : State :=
  let a := s.reg win.off
  let b := s.reg (win.off + 0x08)
  let vf := if isPart win.off then (win.off - 0x10000000) / 0x800000 else bits b 4 0
  let iface := if isIface win.off then (ifaceOf win.off).2 else bits b 13 8
  let onLaunch := fun (f : Nat → State → Launch → State) =>
    match s.launchNamed (contextKey vf iface (bits b 17 16)) a.toNat with
    | some x => s.launchCommand win x.1 (f x.1)
    | none => s.command win false id
  match (s.reg (win.off + 0x18)).toNat with
  | 0x01 => s.commandInvs1 win vf iface a.toNat b.toNat
  | 0x02 => s.commandInvs1 win vf iface 0 (2 ^ 48)
  | 0x03 => s.commandInvs2 win vf a.toNat b.toNat
  | 0x04 => s.commandInvs2 win vf 0 0
  | 0x10 => onLaunch fun lk s l => s.suspendLaunch lk l
  | 0x11 => onLaunch fun lk s l => s.resumeLaunch lk l false
  | 0x12 => onLaunch fun lk s _ => s.endFromOutside lk
  | 0x20 => s.commandCkpt win vf a.toNat b.toNat
  | 0x21 => s.commandRestore win vf a.toNat b.toNat
  | 0x30 => s.commandKeyload win a.toNat b.toNat
  | 0x31 => s.commandKeydestroy win a.toNat
  | 0x32 => s.commandRetire win (bits a 2 0) (bits a 31 16)
  | _ => s.command win false id

/-- UNKNOWN_COMMAND, by the agent whose block the window is in (R403): STATUS REFUSED. A code that names a command is not one, and
recovery has no windows but the mailbox (R409). -/
def execUnknownCommand (win : Nat) (code : DWord) (s : State) : Host.Outcome State Fault Refusal :=
  .next (if s.recovering || !isWindow win || commandCodes.contains code.toNat then s
    else (s.setReg (win + 0x18) code).endWindow win 1)

end Sys2Proof.Machine
end

