-- ==== Sys2Proof/Machine/Registers.lean ====
section
/-! DEFINITION. Writes of software to the register blocks (R8, R372 to R378, R399, R401): and reads of them: the registers
with a behaviour of their own. -/

namespace Sys2Proof.Machine

/-- Values that a register ignores (R360, R401): an interval outside 250 to 16,000, a timeout outside 1 to 60,000. -/
def ignoredValue (off : Nat) (v : DWord) : Bool :=
  let ms := bits v 31 0
  (decide (off = packageBase + 0x8) && (decide (v.toNat % 2 ^ 15 < 250) || decide (16000 < v.toNat % 2 ^ 15))) ||
  ((decide (off = packageBase + 0x210) ||
    (isIface off && (decide (inIface off = 0x250) || decide (inIface off = 0x270))) ||
    (isPart off && !isIface off && decide (inPart off = 0x710))) && (decide (ms < 1) || decide (60000 < ms)))

/-- Write the bits that an agent may write. -/
def State.writeBits (s : State) (off : Nat) (mask v : DWord) : State :=
  let new := (s.reg off &&& ~~~mask) ||| (v &&& mask)
  if new = s.reg off then s else s.setReg off new

/-- What software does at a register outside the mailbox: nothing in recovery (R409). -/
def State.outside (s : State) (f : State → State) : State := if s.recovering then s else f s

/-! ## Fault records after a change of holder (R375) -/

/-- The level that now owns a pending fault (R376). -/
def State.newOwner (s : State) (x : Fault2) : Agent :=
  s.faultOwner (faultVf x.bytes) (faultIface x.bytes) ⟨faultStage x.bytes, 0, 0, false, 0, 0⟩

/-- The records that a cleared bit concerns, named by their partition, interface and stage, are sent again to the new holder; no other
record moves (R375). -/
def State.resendFaults (s : State) (p : Nat → Nat → Nat → Bool) : State :=
  s.cores.foldl (fun s c => c.2.faults.foldl (fun s f =>
    let own := s.newOwner f.2
    if own = f.2.owner ∨ p (faultVf f.2.bytes) (faultIface f.2.bytes) (faultStage f.2.bytes) = false then s
    else
      let x := s.core c.1
      let s := s.setCore c.1 { x with faults := x.faults.set f.1 { f.2 with owner := own } }
      let s := { s with waiting := s.waiting.filter fun w => w.queue != (s.faultRing f.2.owner).off || w.bytes != f.2.bytes }
      s.postRecord (s.faultRing own) f.2.bytes) s) s

/-- Whether bits that a register held are clear now, among those of XLATE (stage 1) and IMPORT (the handle table) (R374, R375). -/
def clearedFor (old new : DWord) (stage : Nat) : Bool :=
  let gone := old &&& ~~~new
  (stage == 1 && has gone 0) || (stage == 0 && has gone 2)

/-- REGISTER_WRITE (R8): the bits that the agent may write; a write of CMDCODE posts the command (R403). Of a write of PF1DELEG that is refused the writer hears, which is PF 1: no
other function shows the register (R376). -/
def State.writeRegister (s : State) (who : Agent) (off : Nat) (v : DWord) : State :=
  if ignoredValue off v then s
  else
    let old := s.reg off
    let open_ := s.writeMask who off != 0
    let s := s.writeBits off (s.writeMask who off) v
    if off = packageBase + 0x10 then
      if who = .pf1 ∧ s.recovering = false then s.eventPf1 (eventRecord evRefused 0 0 0 0 off)
      else if has (old &&& ~~~s.reg off) 1 then s.resendFaults fun _ _ stage => stage == 2 else s
    else if open_ && isWindow (off - 0x18) then s.postCommand ⟨who, off - 0x18⟩
    else s

/-- QUEUE_CONSUME (R8, R401): CONS of a device-produced queue moves on where the agent may write it, and waiting records are
appended. -/
def State.consume (s : State) (who : Agent) (off : Nat) (cons : BitVec 16) : State :=
  if s.writeMask who (off + 8) &&& 0xFFFF#64 ≠ 0xFFFF#64 then s
  else
    let s := s.setReg (off + 8) (withBits (s.reg (off + 8)) 15 0 cons.toNat)
    s.drainWaiting (s.ringAt off) s.waiting

/-- QUEUE_CONSUME (R401). -/
def execQueueConsume (off : Post) (cons : BitVec 16) (s : State) : Host.Outcome State Fault Refusal :=
  .next (s.consume off.who off.off cons)

/-- RIGHTS_WRITE (R374, R375): RIGHTS1 by level 0, RIGHTS2 by level 1; a right taken from level 1 is taken from every
interface. -/
def State.writeRights (s : State) (who : Agent) (off : Nat) (v : DWord) : State :=
  if isPart off = false ∨ isIface off then s
  else
    let vf := (off - 0x10000000) / 0x800000
    let o := inPart off
    if o = 0 ∧ who = .level0 then
      let old := s.reg off
      let s := s.writeBits off (field64 7 0) v
      let s := (List.range 64).foldl (fun s i => s.writeBits (partBase vf + 0x200 + 8 * i) (~~~v) 0) s
      s.resendFaults fun w _ stage => w == vf && clearedFor old v stage
    else if 0x200 ≤ o ∧ o < 0x400 ∧ o % 8 = 0 ∧ who = .level1 vf then
      (s.writeBits off 0x85#64 v).resendFaults fun w i stage => w == vf && i == (o - 0x200) / 8 && clearedFor (s.reg off) v stage
    else s

/-- RIGHTS_WRITE (R375). -/
def execRightsWrite (who : Agent) (off : Nat) (v : DWord) (s : State) : Host.Outcome State Fault Refusal :=
  .next (s.outside fun s => s.writeRights who off v)

/-- A refused write is counted, and the level that wrote hears of it (R376). -/
def State.refuseWrite (s : State) (who : Agent) (err off : Nat) : State :=
  let s := s.count (errorCounter err) 1
  let b := eventRecord evRefused 0 0 0 0 off
  match who with
  | .level0 => s.event0 b
  | .pf1 => s.eventPf1 b
  | .level1 v => s.event1 v b
  | .level2 v i => s.event2 v i b

/-! ## Place tables (R377, R378) -/

/-- Whether a team of a context is resident on a core that satisfies a test (R378). -/
def State.residentWhere (s : State) (ctx : Nat) (p : Nat → Bool) : Bool :=
  s.teams.any fun t => p t.2.core && ((s.gangs.get? t.2.gang).map s.gangContext) == some ctx

/-- PLACE_TABLE_WRITE (R378): taken only while no team of the context is resident on a unit that the old or the new value
names; on a bank is resident who is on its die (log 128). -/
def State.writePlace (s : State) (who : Agent) (off : Nat) (v : DWord) : State :=
  let vi := ifaceOf off
  let o := (inIface off - 0x4000) % 0x3000
  let ctx := contextKey vi.1 vi.2 ((inIface off - 0x4000) / 0x3000)
  let old := s.reg off
  if who ≠ .level0 ∨ isIface off = false ∨ inIface off < 0x4000 ∨ off % 8 ≠ 0 then s
  else if o = 0 then
    let names := fun (r : DWord) (d : Nat) => (List.range 8).any fun l => has r (24 + l) && bits r (3 * l + 2) (3 * l) == d
    if s.residentWhere ctx fun c => names old (dieOf c) || names v (dieOf c) then s.refuseWrite who errPlace off
    else s.writeBits off (field64 31 0) v
  else if o < 0x508 then
    let names := fun (r : DWord) (cl : Nat) => has r 63 && bits r 7 0 == cl
    if s.residentWhere ctx fun c => names old (clusterOf c) || names v (clusterOf c) then s.refuseWrite who errPlace off
    else s.writeBits off (field64 63 63 ||| field64 39 0) v
  else if o < 0x548 then
    let banks := s.reg off != 0 || v != 0
    if banks && s.residentWhere ctx fun c => s.physDie? ctx ((o - 0x508) / 8) == some (dieOf c) then s.refuseWrite who errPlace off
    else s.writeBits off (field64 63 0) v
  else s

/-- PLACE_TABLE_WRITE (R378). -/
def execPlaceTableWrite (who : Agent) (off : Nat) (v : DWord) (s : State) : Host.Outcome State Fault Refusal :=
  .next (s.outside fun s => s.writePlace who off v)

/-! ## The market's registers (R354, R364) -/

/-- FIXED_WRITE (R354): refused where the fixed units of a die would exceed those in service. -/
def State.writeFixed (s : State) (who : Agent) (off : Nat) (v : DWord) : State :=
  let vf := (off - 0x10000000) / 0x800000
  let cls := (inPart off - 0x400) / 8
  if isPart off = false ∨ isIface off ∨ inPart off < 0x400 ∨ 0x428 ≤ inPart off ∨ off % 8 ≠ 0 then s
  else if who ≠ .level0 ∧ s.pf1Has who vf 3 = false then s
  else
    let fits := (List.range 8).all fun d =>
      decide (((List.range 32).map fun x => if x = vf then bits v (8 * d + 7) (8 * d) else s.fixedUnits x cls d).sum ≤ s.inService cls d)
    if fits then (s.setReg off v).retestFit else s.refuseWrite who errFixed off

/-- FIXED_WRITE (R354). -/
def execFixedWrite (who : Agent) (off : Nat) (v : DWord) (s : State) : Host.Outcome State Fault Refusal :=
  .next (s.outside fun s => s.writeFixed who off v)

/-- PMKTCTL_WRITE (R364): PSLOTS from 1 to 64, and the partition's priority pointer starts again. -/
def State.writeSlots (s : State) (who : Agent) (off : Nat) (v : DWord) : State :=
  let vf := (off - 0x10000000) / 0x800000
  if who ≠ .level0 ∨ isPart off = false ∨ isIface off ∨ inPart off ≠ 0x4D0 then s
  else if 1 ≤ bits v 6 0 ∧ bits v 6 0 ≤ 64 then
    let s := s.writeBits off (field64 6 0) v
    { s with market := { s.market with ptr2 := s.market.ptr2.set vf 0 } }
  else s.count (errorCounter errSlots) 1

/-- PMKTCTL_WRITE (R364). -/
def execPmktctlWrite (who : Agent) (off : Nat) (v : DWord) (s : State) : Host.Outcome State Fault Refusal :=
  .next (s.outside fun s => s.writeSlots who off v)

/-! ## Circuits (R327) -/

/-- The lanes of a connection entry: leasable ones by unit, off-package ones from 1024 on. -/
def circuitLanes (v : DWord) : List Nat :=
  [bits v 2 0 * 128 + bits v 13 7, if has v 62 then 1024 + bits v 23 17 else bits v 16 14 * 128 + bits v 23 17]

/-- CONNECTION_TABLE_WRITE (R327): a circuit is set up on lanes that the context leases and that no valid entry names. -/
def State.writeCircuit (s : State) (who : Agent) (off : Nat) (v : DWord) : State :=
  let base := packageBase + 0x2000
  if who ≠ .level0 ∨ off < base ∨ base + 0x2000 ≤ off ∨ off % 8 ≠ 0 then s
  else
    let mask := field64 63 62 ||| field64 55 31 ||| field64 23 7 ||| field64 2 0
    if has v 63 = false then s.writeBits off mask v
    else
      let lanes := circuitLanes v
      let mine := fun (c : Nat) => contextVf c == bits v 35 31 && pasid (contextIface c) == bits v 55 36
      let leased := lanes.all fun l => decide (1024 ≤ l) || ((s.leaseOf 4 l).map mine) == some true
      let free := (List.range 1024).all fun i =>
        let a := base + 8 * i
        a == off || !has (s.reg a) 63 || (circuitLanes (s.reg a)).all fun l => !lanes.contains l
      if leased && free && lanes.head? != lanes.getLast? then s.writeBits off mask v
      else (s.writeBits off (field64 63 63) 0).refuseWrite who errCircuit off

/-- CONNECTION_TABLE_WRITE (R327). -/
def execConnectionTableWrite (who : Agent) (off : Nat) (v : DWord) (s : State) : Host.Outcome State Fault Refusal :=
  .next (s.outside fun s => s.writeCircuit who off v)

/-! ## CKCTL, MIGPOL, VFPORT, PODCFG, the export table (R347, R351, R398, R404, R407) -/

/-- CKCTL_WRITE (R347): with STOP 0 the contexts that a checkpoint has stopped go on (log 70). -/
def State.writeCkctl (s : State) (who : Agent) (off : Nat) (v : DWord) : State :=
  let vf := (off - 0x10000000) / 0x800000
  if isPart off = false ∨ isIface off ∨ inPart off ≠ 0x500 ∨ (who ≠ .level0 ∧ s.level1Has who vf 6 = false) then s
  else
    let rises := has v 0 && !has (s.reg off) 0
    let s := s.writeBits off (field64 1 0) v
    let p := s.parts.getD vf {}
    let p := if has v 1 then p else { p with stopped := false }
    if rises then { s with parts := s.parts.set vf { p with dirty := [], dirtyAll := true, ckfull := true } }
    else if p = s.parts.getD vf {} then s else { s with parts := s.parts.set vf p }

/-- CKCTL_WRITE (R347). -/
def execCkctlWrite (who : Agent) (off : Nat) (v : DWord) (s : State) : Host.Outcome State Fault Refusal :=
  .next (s.outside fun s => s.writeCkctl who off v)

/-- MIGPOL_WRITE (R350, R351): the counters of the interface's contexts start again. -/
def State.writeMigpol (s : State) (who : Agent) (off : Nat) (v : DWord) : State :=
  let vi := ifaceOf off
  if isIface off = false ∨ inIface off ≠ 0x18 ∨ (who ≠ .level0 ∧ s.holds who vi.1 vi.2 7 = false) then s
  else
    let s := s.writeBits off (field64 63 63 ||| field64 47 24 ||| 1) v
    (s.contextsIn vi.1 vi.2).foldl (fun s c => s.setContext c { s.context c with moves := [] }) s

/-- MIGPOL_WRITE (R351). -/
def execMigpolWrite (who : Agent) (off : Nat) (v : DWord) (s : State) : Host.Outcome State Fault Refusal :=
  .next (s.outside fun s => s.writeMigpol who off v)

/-- VFPORT_WRITE (R398): a bit is taken while its VF holds no context. -/
def State.writePorts (s : State) (who : Agent) (off : Nat) (v : DWord) : State :=
  if who ≠ .level0 ∨ off ≠ packageBase + 0x20 then s
  else
    let mask := (List.range 32).foldl (fun (m : DWord) f => if (s.partContexts f).isEmpty then m ||| field64 f f else m) 0
    s.writeBits off mask v

/-- VFPORT_WRITE (R398). -/
def execVfportWrite (who : Agent) (off : Nat) (v : DWord) (s : State) : Host.Outcome State Fault Refusal :=
  .next (s.outside fun s => s.writePorts who off v)

/-- PODCFG_WRITE (R404): taken while no launch over several packages is resident. -/
def State.writePod (s : State) (who : Agent) (off : Nat) (v : DWord) : State :=
  if who ≠ .level0 ∨ off ≠ podCfg then s
  else if s.launches.any fun l => decide (2 ≤ l.2.podCount) && s.teams.any fun t =>
      ((s.gangs.get? t.2.gang).map (·.launch)) == some l.1 then s
  else s.writeBits off (field64 31 0) v

/-- PODCFG_WRITE (R404). -/
def execPodcfgWrite (who : Agent) (off : Nat) (v : DWord) (s : State) : Host.Outcome State Fault Refusal :=
  .next (s.outside fun s => s.writePod who off v)

/-- EXPORT_TABLE_WRITE (R407), under IMPORT (R374): a write with V set advances GEN. -/
def State.writeExport (s : State) (who : Agent) (off : Nat) (v : DWord) : State :=
  let vf := (off - 0x10000000) / 0x800000
  if isPart off = false ∨ isIface off ∨ inPart off < 0x8000 ∨ 0x9000 ≤ inPart off ∨ off % 8 ≠ 0 ∨ s.handed who vf 2 = false then s
  else if off % 16 = 8 then s.writeBits off (field64 63 23 ||| field64 19 0) v
  else
    let s := s.writeBits off (field64 63 28 ||| field64 2 0) v
    if has v 0 then s.setReg off (withBits (s.reg off) 27 9 ((bits (s.reg off) 27 9 + 1) % 2 ^ 19)) else s

/-- EXPORT_TABLE_WRITE (R407). -/
def execExportTableWrite (who : Agent) (off : Nat) (v : DWord) (s : State) : Host.Outcome State Fault Refusal :=
  .next (s.outside fun s => s.writeExport who off v)

/-! ## Claim reserves (R184) -/

/-- CLAIM_RESERVE_PUSH (R184), under REHOME (R374): a push to a full queue, or of a misaligned frame, is ignored and counted. -/
def State.pushFrame (s : State) (who : Agent) (vf die : Nat) (large : Bool) (v : DWord) : State :=
  if s.handed who vf 1 = false then s
  else
    let f := bits v 45 12 * 4096
    let p := s.parts.getD vf {}
    let key := 2 * die + (if large then 1 else 0)
    let l := p.reserve.getD key []
    if 4096 ≤ l.length ∨ (large ∧ f % 2 ^ 21 ≠ 0) then s.count (errorCounter errReserve) 1
    else { s with parts := s.parts.set vf { p with reserve := p.reserve.set key (l ++ [f]) } }

/-- CLAIM_RESERVE_PUSH (R184). -/
def execClaimReservePush (who : Agent) (vf die : Nat) (large : Bool) (v : DWord) (s : State) :
    Host.Outcome State Fault Refusal := .next (s.outside fun s => s.pushFrame who vf die large v)

/-- CLAIM_RESERVE_POP (R184), under REHOME (R374): the oldest returned frame with VALID, or 0. -/
def State.popFrame (s : State) (who : Agent) (vf die : Nat) : State :=
  if s.handed who vf 1 = false then s
  else
    let p := s.parts.getD vf {}
    match p.returned.getD die [] with
    | [] => { s with out := s.out ++ [.data (leBytes 0 8)] }
    | (f, large) :: rest =>
      { s with
        parts := s.parts.set vf { p with returned := p.returned.set die rest }
        out := s.out ++ [.data (leBytes (2 ^ 63 + f + if large then 1 else 0) 8)] }

/-- CLAIM_RESERVE_POP (R184). -/
def execClaimReservePop (who : Agent) (vf die : Nat) (s : State) : Host.Outcome State Fault Refusal :=
  .next (s.outside fun s => s.popFrame who vf die)

/-! ## What a read gives (R254, R330, R399, R400) -/

/-- A usage counter at an offset of an interface block: those of die d of context slot k (R330, R400). -/
def State.counterAt (s : State) (off : Nat) : DWord :=
  let vi := ifaceOf off
  let k := (inIface off - 0x4000) / 0x3000
  let o := (inIface off - 0x4000) % 0x3000 - 0x1800
  if o % 0x100 / 8 < 19 then s.usage (contextKey vi.1 vi.2 k) (o / 0x100) (o % 0x100 / 8) else 0

/-- The lease-map word of a partition for unit `n` of the CLU, DSB, WAY and LNK units in class order (R400). -/
def State.leaseWord (s : State) (vf n : Nat) : Nat :=
  let u := if n < 160 then (0, n) else if n < 672 then (1, n - 160) else if n < 800 then (2, n - 672) else (4, n - 800)
  match if n < 1824 then s.leaseOf u.1 u.2 else none with
  | some c => if contextVf c = vf then 2 ^ 15 + contextIface c * 2 ^ 8 + c % 4 else 0
  | none => 0

/-- Whether an agent's view of BAR0 shows an offset: PF 1 sees no AOWN and no partition block of port 0, a partition its own
block alone, and in recovery PF 0 the capability list and the mailbox (R254, R399, R409). -/
def State.shows (s : State) (who : Agent) (off : Nat) : Bool :=
  let vf := (off - 0x10000000) / 0x800000
  !(s.recovering && !inRecovery who off) && match who with
  | .level0 => true
  | .pf1 => if isPart off then has (s.reg (packageBase + 0x20)) vf
    else !(decide (0x100000 ≤ off) && decide (off < 0x180000) && decide (0x1000 ≤ (off - 0x100000) % 0x10000))
  | .level1 v => isPart off && vf == v
  | .level2 v i => isIface off && ifaceOf off == (v, i)

/-- A record of the capability list, of a body in 8-byte words, that lies at an offset (R409). -/
def capability (off id : Nat) (more : Bool) (body : List DWord) : List DWord :=
  let n := 8 * (body.length + 1)
  BitVec.ofNat 64 (id + 1 * 2 ^ 16 + n * 2 ^ 24 + (if more then off + n else 0) * 2 ^ 40) :: body

/-- The words of the capability list (R409): units in service, version and interval limits, the certificate chains, the figures of
R411, and the pod links. How a record's body is laid out is the model's (log 85). -/
def State.capabilities (s : State) : List DWord :=
  let units := (List.range 40).map fun i => (BitVec.ofNat 8 (s.inService (i % 5) (i / 5)) : Byte)
  capability 0 1 true ((List.range 5).map fun i => BitVec.ofNat 64 (field units (8 * i) 8)) ++
  capability 48 2 true [BitVec.ofNat 64 (0x0100 + 250 * 2 ^ 16 + 16000 * 2 ^ 32)] ++
  capability 64 3 true [Config.chainPlace 0, Config.chainPlace 1] ++
  capability 88 4 true [BitVec.ofNat 64 (7500 + 44 * 2 ^ 16 + 54 * 2 ^ 32 + 105 * 2 ^ 48), BitVec.ofNat 64 (20 + 40 * 2 ^ 16 + 8 * 2 ^ 32)] ++
  capability 112 5 false [BitVec.ofNat 64 (8 + 16 * 2 ^ 16)]

/-- What an agent reads from a register (R254, R330, R399, R400). -/
def State.readRegister (s : State) (who : Agent) (off : Nat) : DWord :=
  let d := (off - 0x100000) / 0x10000
  let o := (off - 0x100000) % 0x10000
  if s.shows who off = false || off % 8 ≠ 0 then 0
  else if isIface off then
    if 0x4000 ≤ inIface off ∧ 0x1800 ≤ (inIface off - 0x4000) % 0x3000 then s.counterAt off else s.reg off
  else if isPart off then
    if 0x4000 ≤ inPart off ∧ inPart off < 0x8000 then
      BitVec.ofNat 64 (((List.range 4).map fun i =>
        s.leaseWord ((off - 0x10000000) / 0x800000) ((inPart off - 0x4000) / 2 + i) * 2 ^ (16 * i)).sum)
    else s.reg off
  else if 0x100000 ≤ off ∧ off < 0x180000 ∧ 0x1000 ≤ o then
    let core := 160 * d + (o - 0x1000) / 8
    if o < 0x1500 then s.ownerReg core else 0
  else if off < packageBase then s.capabilities.getD (off / 8) 0
  else s.reg off

end Sys2Proof.Machine
end

