-- ==== Sys2Proof/Machine/Scalar.lean ====
section
/-! DEFINITION. Scalar arithmetic (R77 to R79): 64-bit words on the squad's scalar registers. -/

namespace Sys2Proof.Machine

/-- Bits [63:6] of a shift amount are ignored (R77). -/
def shiftAmount (b : DWord) : Nat := bits b 5 0

/-- Bits [127:64] of the signed product (R77). -/
def scalarMulh (a b : DWord) : DWord := BitVec.ofInt 64 (a.toInt * b.toInt / 2 ^ 64)

/-- The signed quotient rounded toward zero, with the corners of R78. -/
def scalarDiv (a b : DWord) : DWord := if b = 0 then BitVec.allOnes 64 else BitVec.ofInt 64 (a.toInt.tdiv b.toInt)

/-- The signed remainder, with the corners of R78. -/
def scalarRem (a b : DWord) : DWord := if b = 0 then a else BitVec.ofInt 64 (a.toInt.tmod b.toInt)

/-- Leading zeros of a `w`-bit pattern (R79, R126). -/
def leadingZeros (w v : Nat) : Nat := if v = 0 then w else w - 1 - Nat.log2 v

/-- 1 bits of a `w`-bit pattern (R79, R126). -/
def onesOf (w v : Nat) : Nat := ((List.range w).filter fun i => v.testBit i).length

/-- SADD (R77). -/
def execSadd (d : BitVec 5) (a : BitVec 5) (b : SSrc) (s : State) : Host.Outcome State Fault Refusal :=
  issue (.sadd d a b) s fun u => scalarWord u s d a b (fun x y => x + y)

/-- SADD_I (R77). -/
def execSaddI (d : BitVec 5) (a : BitVec 5) (i : BitVec 9) (s : State) : Host.Outcome State Fault Refusal :=
  issue (.saddI d a i) s fun u => scalarImm u s d a i (fun x y => x + y)

/-- SSUB (R77). -/
def execSsub (d : BitVec 5) (a : BitVec 5) (b : SSrc) (s : State) : Host.Outcome State Fault Refusal :=
  issue (.ssub d a b) s fun u => scalarWord u s d a b (fun x y => x - y)

/-- SSUB_I (R77). -/
def execSsubI (d : BitVec 5) (a : BitVec 5) (i : BitVec 9) (s : State) : Host.Outcome State Fault Refusal :=
  issue (.ssubI d a i) s fun u => scalarImm u s d a i (fun x y => x - y)

/-- SMUL (R77). -/
def execSmul (d : BitVec 5) (a : BitVec 5) (b : SSrc) (s : State) : Host.Outcome State Fault Refusal :=
  issue (.smul d a b) s fun u => scalarWord u s d a b (fun x y => x * y)

/-- SMUL_I (R77). -/
def execSmulI (d : BitVec 5) (a : BitVec 5) (i : BitVec 9) (s : State) : Host.Outcome State Fault Refusal :=
  issue (.smulI d a i) s fun u => scalarImm u s d a i (fun x y => x * y)

/-- SMULH (R77). -/
def execSmulh (d : BitVec 5) (a : BitVec 5) (b : SSrc) (s : State) : Host.Outcome State Fault Refusal :=
  issue (.smulh d a b) s fun u => scalarWord u s d a b scalarMulh

/-- SMULH_I (R77). -/
def execSmulhI (d : BitVec 5) (a : BitVec 5) (i : BitVec 9) (s : State) : Host.Outcome State Fault Refusal :=
  issue (.smulhI d a i) s fun u => scalarImm u s d a i scalarMulh

/-- SDIV (R78). -/
def execSdiv (d : BitVec 5) (a : BitVec 5) (b : SSrc) (s : State) : Host.Outcome State Fault Refusal :=
  issue (.sdiv d a b) s fun u => scalarWord u s d a b scalarDiv

/-- SDIV_I (R78). -/
def execSdivI (d : BitVec 5) (a : BitVec 5) (i : BitVec 9) (s : State) : Host.Outcome State Fault Refusal :=
  issue (.sdivI d a i) s fun u => scalarImm u s d a i scalarDiv

/-- SREM (R78). -/
def execSrem (d : BitVec 5) (a : BitVec 5) (b : SSrc) (s : State) : Host.Outcome State Fault Refusal :=
  issue (.srem d a b) s fun u => scalarWord u s d a b scalarRem

/-- SREM_I (R78). -/
def execSremI (d : BitVec 5) (a : BitVec 5) (i : BitVec 9) (s : State) : Host.Outcome State Fault Refusal :=
  issue (.sremI d a i) s fun u => scalarImm u s d a i scalarRem

/-- SAND (R77). -/
def execSand (d : BitVec 5) (a : BitVec 5) (b : SSrc) (s : State) : Host.Outcome State Fault Refusal :=
  issue (.sand d a b) s fun u => scalarWord u s d a b (fun x y => x &&& y)

/-- SAND_I (R77). -/
def execSandI (d : BitVec 5) (a : BitVec 5) (i : BitVec 9) (s : State) : Host.Outcome State Fault Refusal :=
  issue (.sandI d a i) s fun u => scalarImm u s d a i (fun x y => x &&& y)

/-- SOR (R77). -/
def execSor (d : BitVec 5) (a : BitVec 5) (b : SSrc) (s : State) : Host.Outcome State Fault Refusal :=
  issue (.sor d a b) s fun u => scalarWord u s d a b (fun x y => x ||| y)

/-- SOR_I (R77). -/
def execSorI (d : BitVec 5) (a : BitVec 5) (i : BitVec 9) (s : State) : Host.Outcome State Fault Refusal :=
  issue (.sorI d a i) s fun u => scalarImm u s d a i (fun x y => x ||| y)

/-- SXOR (R77). -/
def execSxor (d : BitVec 5) (a : BitVec 5) (b : SSrc) (s : State) : Host.Outcome State Fault Refusal :=
  issue (.sxor d a b) s fun u => scalarWord u s d a b (fun x y => x ^^^ y)

/-- SXOR_I (R77). -/
def execSxorI (d : BitVec 5) (a : BitVec 5) (i : BitVec 9) (s : State) : Host.Outcome State Fault Refusal :=
  issue (.sxorI d a i) s fun u => scalarImm u s d a i (fun x y => x ^^^ y)

/-- SSHL (R77). -/
def execSshl (d : BitVec 5) (a : BitVec 5) (b : SSrc) (s : State) : Host.Outcome State Fault Refusal :=
  issue (.sshl d a b) s fun u => scalarWord u s d a b (fun x y => x <<< shiftAmount y)

/-- SSHL_I (R77). -/
def execSshlI (d : BitVec 5) (a : BitVec 5) (i : BitVec 9) (s : State) : Host.Outcome State Fault Refusal :=
  issue (.sshlI d a i) s fun u => scalarImm u s d a i (fun x y => x <<< shiftAmount y)

/-- SSHR (R77). -/
def execSshr (d : BitVec 5) (a : BitVec 5) (b : SSrc) (s : State) : Host.Outcome State Fault Refusal :=
  issue (.sshr d a b) s fun u => scalarWord u s d a b (fun x y => x >>> shiftAmount y)

/-- SSHR_I (R77). -/
def execSshrI (d : BitVec 5) (a : BitVec 5) (i : BitVec 9) (s : State) : Host.Outcome State Fault Refusal :=
  issue (.sshrI d a i) s fun u => scalarImm u s d a i (fun x y => x >>> shiftAmount y)

/-- SSAR (R77). -/
def execSsar (d : BitVec 5) (a : BitVec 5) (b : SSrc) (s : State) : Host.Outcome State Fault Refusal :=
  issue (.ssar d a b) s fun u => scalarWord u s d a b (fun x y => x.sshiftRight (shiftAmount y))

/-- SSAR_I (R77). -/
def execSsarI (d : BitVec 5) (a : BitVec 5) (i : BitVec 9) (s : State) : Host.Outcome State Fault Refusal :=
  issue (.ssarI d a i) s fun u => scalarImm u s d a i (fun x y => x.sshiftRight (shiftAmount y))

/-- SMIN (R77). -/
def execSmin (d : BitVec 5) (a : BitVec 5) (b : SSrc) (s : State) : Host.Outcome State Fault Refusal :=
  issue (.smin d a b) s fun u => scalarWord u s d a b (fun x y => if x.slt y then x else y)

/-- SMIN_I (R77). -/
def execSminI (d : BitVec 5) (a : BitVec 5) (i : BitVec 9) (s : State) : Host.Outcome State Fault Refusal :=
  issue (.sminI d a i) s fun u => scalarImm u s d a i (fun x y => if x.slt y then x else y)

/-- SMAX (R77). -/
def execSmax (d : BitVec 5) (a : BitVec 5) (b : SSrc) (s : State) : Host.Outcome State Fault Refusal :=
  issue (.smax d a b) s fun u => scalarWord u s d a b (fun x y => if x.slt y then y else x)

/-- SMAX_I (R77). -/
def execSmaxI (d : BitVec 5) (a : BitVec 5) (i : BitVec 9) (s : State) : Host.Outcome State Fault Refusal :=
  issue (.smaxI d a i) s fun u => scalarImm u s d a i (fun x y => if x.slt y then y else x)

/-- SMINU (R77). -/
def execSminu (d : BitVec 5) (a : BitVec 5) (b : SSrc) (s : State) : Host.Outcome State Fault Refusal :=
  issue (.sminu d a b) s fun u => scalarWord u s d a b (fun x y => if x.ult y then x else y)

/-- SMINU_I (R77). -/
def execSminuI (d : BitVec 5) (a : BitVec 5) (i : BitVec 9) (s : State) : Host.Outcome State Fault Refusal :=
  issue (.sminuI d a i) s fun u => scalarImm u s d a i (fun x y => if x.ult y then x else y)

/-- SMAXU (R77). -/
def execSmaxu (d : BitVec 5) (a : BitVec 5) (b : SSrc) (s : State) : Host.Outcome State Fault Refusal :=
  issue (.smaxu d a b) s fun u => scalarWord u s d a b (fun x y => if x.ult y then y else x)

/-- SMAXU_I (R77). -/
def execSmaxuI (d : BitVec 5) (a : BitVec 5) (i : BitVec 9) (s : State) : Host.Outcome State Fault Refusal :=
  issue (.smaxuI d a i) s fun u => scalarImm u s d a i (fun x y => if x.ult y then y else x)

/-- SSLT (R77). -/
def execSslt (d : BitVec 5) (a : BitVec 5) (b : SSrc) (s : State) : Host.Outcome State Fault Refusal :=
  issue (.sslt d a b) s fun u => scalarWord u s d a b (fun x y => if x.slt y then 1 else 0)

/-- SSLT_I (R77). -/
def execSsltI (d : BitVec 5) (a : BitVec 5) (i : BitVec 9) (s : State) : Host.Outcome State Fault Refusal :=
  issue (.ssltI d a i) s fun u => scalarImm u s d a i (fun x y => if x.slt y then 1 else 0)

/-- SSLTU (R77). -/
def execSsltu (d : BitVec 5) (a : BitVec 5) (b : SSrc) (s : State) : Host.Outcome State Fault Refusal :=
  issue (.ssltu d a b) s fun u => scalarWord u s d a b (fun x y => if x.ult y then 1 else 0)

/-- SSLTU_I (R77). -/
def execSsltuI (d : BitVec 5) (a : BitVec 5) (i : BitVec 9) (s : State) : Host.Outcome State Fault Refusal :=
  issue (.ssltuI d a i) s fun u => scalarImm u s d a i (fun x y => if x.ult y then 1 else 0)

/-- SSEQ (R77). -/
def execSseq (d : BitVec 5) (a : BitVec 5) (b : SSrc) (s : State) : Host.Outcome State Fault Refusal :=
  issue (.sseq d a b) s fun u => scalarWord u s d a b (fun x y => if x = y then 1 else 0)

/-- SSEQ_I (R77). -/
def execSseqI (d : BitVec 5) (a : BitVec 5) (i : BitVec 9) (s : State) : Host.Outcome State Fault Refusal :=
  issue (.sseqI d a i) s fun u => scalarImm u s d a i (fun x y => if x = y then 1 else 0)

/-- SSEL (R79). -/
def execSsel (d : BitVec 5) (a : BitVec 5) (b : SSrc) (s : State) : Host.Outcome State Fault Refusal :=
  issue (.ssel d a b) s fun u => scalarWord u s d a b fun x y => if u.squad.sreg d.toNat ≠ 0 then x else y

/-- SMOV (R79). -/
def execSmov (d : BitVec 5) (b : SSrc) (s : State) : Host.Outcome State Fault Refusal :=
  issue (.smov d b) s fun u => scalarWord u s d 0 b fun _ y => y

/-- SLI (R79). -/
def execSli (d : BitVec 5) (lit : Word) (s : State) : Host.Outcome State Fault Refusal :=
  issue (.sli d lit) s fun u => scalarWord u s d 0 (.lit lit) fun _ _ => lit ++ (u.squad.sreg d.toNat).setWidth 32

/-- SCLZ (R79). -/
def execSclz (d : BitVec 5) (a : BitVec 5) (s : State) : Host.Outcome State Fault Refusal :=
  issue (.sclz d a) s fun u => scalarWord u s d a (.reg 0) fun x _ => BitVec.ofNat 64 (leadingZeros 64 x.toNat)

/-- SPOPC (R79). -/
def execSpopc (d : BitVec 5) (a : BitVec 5) (s : State) : Host.Outcome State Fault Refusal :=
  issue (.spopc d a) s fun u => scalarWord u s d a (.reg 0) fun x _ => BitVec.ofNat 64 (onesOf 64 x.toNat)

end Sys2Proof.Machine
end

