-- ==== Sys2Proof/Machine/Start.lean ====
section
/-! DEFINITION. The start of the package (R408), the mailbox (R409), and the watchdog. -/

namespace Sys2Proof.Machine

/-- BOOTSTAT (R408). -/
def bootStat : Nat := packageBase

/-- BOOTSTAT's fields: MODE, STAGE, FAILS, COPY, REASON (R408). -/
def bootWord (mode stage fails copy reason : Nat) : DWord :=
  BitVec.ofNat 64 (reason % 256 + copy % 2 * 2 ^ 8 + fails % 4 * 2 ^ 10 + stage % 4 * 2 ^ 12 + mode % 4 * 2 ^ 14)

/-- The package as a start finds it: at reset, but for host memory, the flash and what counts what the model has used. -/
def State.cold (s : State) : State :=
  { State.reset with
    mem := s.mem.filter fun c => !isHbm c.1
    flash := s.flash
    fails := s.fails
    fresh := s.fresh
    nextId := s.nextId
    agenda := s.agenda
    out := s.out }

/-- A copy of a firmware stage in the flash: copy A is 2 × stage and copy B 2 × stage + 1 (log 36). -/
def State.flashCopy (s : State) (n : Nat) : List Byte := s.flash.getD n []

/-- Verify a stage: the copy used, or the reason for which both are refused (R408). -/
def State.verifyStage (s : State) (stage : Nat) : Except Nat Nat :=
  if Config.imageReason (s.flashCopy (2 * stage)) = 0 then .ok 0
  else
    let r := Config.imageReason (s.flashCopy (2 * stage + 1))
    if r = 0 then .ok 1 else .error r.toNat

/-- A start fails: FAILS rises (R408). -/
def State.failStart (s : State) (stage reason : Nat) : State :=
  let n := min 3 (s.fails + 1)
  { s with fails := n }.setReg bootStat (bootWord 0 stage n 0 reason)

/-- The firmware is operational: slot 0 and the links to the HBM stacks have their keys, each ring its 4,095 tokens, and the first
interval starts with its index record (R256, R361, R371, R381, R382, R408). -/
def State.operational (s : State) (copy reason : Nat) : State :=
  let s := { s with
    fails := 0
    keys := s.keys.set 0 (Config.freshKey s.fresh)
    linkKeys := (List.range 16).map fun k => (k, Config.freshKey (s.fresh + 1 + k))
    fresh := s.fresh + 17
    clusters := (List.range 160).map fun c => (c, { free := put (Vector.replicate 10 0) 0 (capacity 0) })
    market := { s.market with running := true, length := bits (s.reg (packageBase + 0x8)) 14 0
                              pod := BitVec.ofNat 64 (bits (s.reg podCfg) 31 0)
                              finish := 1000 * bits (s.reg (packageBase + 0x8)) 14 0 } }
  (s.setReg bootStat (bootWord 1 0 0 copy reason)).refill.sendIndex

/-- PACKAGE_START (R408, R409): recovery after three failures unless RESTART asks for a normal start, else the stages are verified, and
memory and lanes trained with the outcome `training`: 0 for success, 5 where the lanes fail, 8 for coolant out of range, which a start
reports and which fails none, and else the memories fail (log 66). A start after a power-input fault reports 0x07 (R411). -/
def State.startPackage (s : State) (training : BitVec 8) : State :=
  let reason := if s.powered then 0 else 7
  let recovers := decide (3 ≤ s.fails) && !s.restarting
  let s := s.cold
  if recovers then s.setReg bootStat (bootWord 2 0 3 0 reason)
  else
    match s.verifyStage 0, s.verifyStage 1, s.verifyStage 2 with
    | .error r, _, _ => s.failStart 0 r
    | .ok _, .error r, _ => s.failStart 1 r
    | .ok _, .ok _, .error r => s.failStart 2 r
    | .ok _, .ok copy, .ok _ =>
      if training = 0 then s.operational copy reason
      else if training = 8 then s.operational copy 8
      else s.failStart 3 (if training = 5 then 5 else 4)

/-- PACKAGE_START (R408). -/
def execPackageStart (training : BitVec 8) (s : State) : Host.Outcome State Fault Refusal := .next (s.startPackage training)

/-- BOOT_WATCHDOG: a start that is not operational within 10 s, and has not failed yet, fails (R408); the stage is the main
firmware's (log 66). -/
def State.watchdog (s : State) : State :=
  if bits (s.reg bootStat) 15 14 = 0 ∧ bits (s.reg bootStat) 7 0 = 0 then s.failStart 1 6 else s

/-- BOOT_WATCHDOG (R408). -/
def execBootWatchdog (s : State) : Host.Outcome State Fault Refusal := .next s.watchdog

/-! ## The mailbox (R409) -/

/-- The bytes of the IN buffer. -/
def State.mailIn (s : State) : List Byte := ((List.range 32).map fun i => leBytes (s.reg (packageBase + 0x300 + 8 * i)).toNat 8).flatten

/-- An answer in the OUT buffer: code, status and a word of data. -/
def State.mailOut (s : State) (code status : Nat) (data : DWord) : State :=
  (s.setReg (packageBase + 0x400) (BitVec.ofNat 64 (code + status * 2 ^ 8))).setReg (packageBase + 0x410) data

/-- Bytes with some replaced from an offset up. -/
def overwrite (old : List Byte) (off : Nat) (bs : List Byte) : List Byte :=
  (old ++ List.replicate (off - old.length) 0).take off ++ bs ++ old.drop (off + bs.length)

/-- FLASHWRITE (R409): 240 bytes at an offset of a copy. -/
def State.flashWrite (s : State) : State :=
  let b := s.mailIn
  let copy := field b 1 1
  if 6 ≤ copy then s.mailOut 1 1 0
  else { s with flash := s.flash.set copy (overwrite (s.flashCopy copy) (field b 4 4) (b.drop 16)) }.mailOut 1 0 0

/-- FLASHWRITE (R409). -/
def execFlashwrite (s : State) : Host.Outcome State Fault Refusal := .next s.flashWrite

/-- FLASHCOMMIT (R409): the copy is verified as a start would. -/
def State.flashCommit (s : State) : State :=
  let copy := field s.mailIn 1 1
  if copy < 6 ∧ Config.imageReason (s.flashCopy copy) = 0 then { s with committed := true }.mailOut 2 0 0 else s.mailOut 2 1 0

/-- FLASHCOMMIT (R409). -/
def execFlashcommit (s : State) : Host.Outcome State Fault Refusal := .next s.flashCommit

/-- STATUS (R409): the model answers with BOOTSTAT. -/
def execStatus (s : State) : Host.Outcome State Fault Refusal := .next (s.mailOut 3 0 (s.reg bootStat))

/-- RESTART (R409): a normal start begins; after an accepted FLASHCOMMIT, FAILS is 0. -/
def State.restart (s : State) : State :=
  let s := if s.committed then { s with fails := 0 } else s
  { s.cold with restarting := true }.setReg bootStat (bootWord 0 0 s.fails 0 0)

/-- RESTART (R409). -/
def execRestart (s : State) : Host.Outcome State Fault Refusal := .next s.restart

/-- The mailbox's doorbell: the code of the IN buffer is performed, and another is refused (R409). -/
def State.ringDoorbell (s : State) : State :=
  let code := field s.mailIn 0 1
  if code = 1 then s.flashWrite
  else if code = 2 then s.flashCommit
  else if code = 3 then s.mailOut 3 0 (s.reg bootStat)
  else if code = 4 then s.restart
  else s.mailOut code 1 0

/-- REGISTER_WRITE (R8), the doorbell's among them. -/
def execRegisterWrite (who : Agent) (off : Nat) (v : DWord) (s : State) : Host.Outcome State Fault Refusal :=
  .next (if off = packageBase + 0x500 ∧ who = .level0 then s.ringDoorbell else s.writeRegister who off v)

end Sys2Proof.Machine
end

