-- ==== Sys2Proof/Machine/Transcend.lean ====
section
/-! DEFINITION. The faithful functions (R134, R135): their neighbours are computed from the exact value in fixed point
with 512 bits below the point, and Config says which one the device delivers. -/

namespace Sys2Proof.Machine

/-! ## Fixed point with 512 bits below the point -/

/-- The number of bits below the point. -/
def fixBits : Nat := 512

/-- 1. -/
def fixOne : Nat := 2 ^ fixBits

/-- The product of two fixed-point numbers. -/
def fixMul (a b : Nat) : Nat := a * b / fixOne

/-- The quotient of two fixed-point numbers. -/
def fixDiv (a b : Nat) : Nat := a * fixOne / b

/-- A value as a fixed-point number. -/
def fixOf (m : Nat) (e : Int) : Nat :=
  if 0 ≤ e + fixBits then m * 2 ^ (e + fixBits).toNat else m / 2 ^ (-(e + fixBits)).toNat

/-- A fixed-point number as a magnitude. -/
def fixMag (a : Nat) : Mag := .rat a fixOne

/-- `t + t z / (1 + s) + …`: the terms of `artanh` (or, with alternating signs, of `arctan`) from a first term on. -/
def oddSeries (alternate : Bool) (z2 : Nat) : Nat → Nat → Nat → Int
  | 0, _, _ => 0
  | n + 1, k, t =>
    let term : Int := ((t / (2 * k + 1) : Nat) : Int)
    (if alternate && k % 2 == 1 then -term else term) + oddSeries alternate z2 n (k + 1) (fixMul t z2)

/-- The inverse hyperbolic tangent of a fixed-point number at most 1/3. -/
def artanh (z : Nat) : Nat := (oddSeries false (fixMul z z) 180 0 z).toNat

/-- The arctangent of `1 / n`. -/
def arctanInv (n : Nat) : Nat := (oddSeries true (fixOne / (n * n)) 130 0 (fixOne / n)).toNat

/-- The natural logarithm of 2. -/
def fixLn2 : Nat := 2 * artanh (fixOne / 3)

/-- Half of π. -/
def fixHalfPi : Nat := 8 * arctanInv 5 - 2 * arctanInv 239

/-- The terms of the exponential series from one on. -/
def expSeries (x : Nat) : Nat → Nat → Nat → Nat
  | 0, _, _ => 0
  | n + 1, k, t => t + expSeries x n (k + 1) (fixMul t x / (k + 1))

/-- The exponential of a fixed-point number below 1. -/
def fixExp (x : Nat) : Nat := expSeries x 120 0 fixOne

/-- The terms of sine (from `x`) or cosine (from 1), of index `k` and every second one after it. -/
def trigSeries (x2 : Nat) : Nat → Nat → Nat → Int
  | 0, _, _ => 0
  | n + 1, k, t => (t : Int) - trigSeries x2 n (k + 2) (fixMul t x2 / ((k + 1) * (k + 2)))

/-- The sine of a fixed-point number of the first quadrant. -/
def fixSin (x : Nat) : Nat := (trigSeries (fixMul x x) 70 1 x).toNat

/-- The cosine of a fixed-point number of the first quadrant. -/
def fixCos (x : Nat) : Nat := (trigSeries (fixMul x x) 70 0 fixOne).toNat

/-! ## The functions -/

/-- The neighbour that the device delivers of an exact value that the format does not hold (R134). `op` and the input
pattern name the choice. -/
def FloatFmt.faithful (f : FloatFmt) (op et p : Nat) (ftz neg : Bool) (x : Mag) : Elem :=
  let a := (f.roundMag 1 neg x 0).1
  f.deliver 0 ftz false neg (if Config.faithfulAway op et p then a + 1 else a) true

/-- An exact power of two, delivered if the format holds it (R134). -/
def FloatFmt.powerOfTwo (f : FloatFmt) (et p : Nat) (ftz : Bool) (i : Int) : Elem :=
  let x := dyadic 1 i
  if (f.roundMag 1 false x 0).2 then f.faithful 0 et p ftz false x else f.round ⟨0, ftz, false⟩ false x 0

/-- The bound past which 2 to an exponent overflows or vanishes in every format here. -/
def expBound : Int := 400

/-- `2^y` (R134, R135). -/
def FloatFmt.exp2 (f : FloatFmt) (et p : Nat) (ftz : Bool) : Elem :=
  match f.operand ftz p with
  | .nan s => f.nanElem (if s then flagIV else 0)
  | .zero _ => ⟨f.one, 0⟩
  | .inf false => ⟨f.inf.getD f.maxPat, 0⟩
  | .inf true => ⟨0, 0⟩
  | .fin n m e =>
    -- the integer part and the fraction of y
    let den : Nat := if 0 ≤ e then 1 else 2 ^ (-e).toNat
    let num : Int := (if n then -1 else 1) * ((if 0 ≤ e then m * 2 ^ e.toNat else m : Nat) : Int)
    let i := num / den
    let r := (num % den).toNat
    if i < -expBound then f.faithful 0 et p ftz false (dyadic 1 (-expBound))
    else if expBound < i then f.overflow 0 false false
    else if r = 0 then f.powerOfTwo et p ftz i
    else
      let v := fixExp (fixMul (r * fixOne / den) fixLn2)
      f.faithful 0 et p ftz false (if 0 ≤ i then .rat (v * 2 ^ i.toNat) fixOne else .rat v (fixOne * 2 ^ (-i).toNat))

/-- `log₂ y` (R134, R135). -/
def FloatFmt.log2 (f : FloatFmt) (et p : Nat) (ftz : Bool) : Elem :=
  match f.operand ftz p with
  | .nan s => f.nanElem (if s then flagIV else 0)
  | .zero _ => ⟨f.signed true (f.inf.getD f.maxPat), flagDZ⟩
  | .inf false => ⟨f.inf.getD f.maxPat, 0⟩
  | .inf true => f.nanElem flagIV
  | .fin true _ _ => f.nanElem flagIV
  | .fin false m e =>
    let b := Nat.log2 m
    let k : Int := e + b
    if m = 2 ^ b then
      if k = 0 then ⟨0, 0⟩ else f.round ⟨0, ftz, false⟩ (decide (k < 0)) (.rat k.natAbs 1) 0
    else
      let x := m * fixOne / 2 ^ b
      let v : Int := k * fixOne + fixDiv (2 * artanh (fixDiv (x - fixOne) (x + fixOne))) fixLn2
      f.faithful 1 et p ftz (decide (v < 0)) (fixMag v.natAbs)

/-- Sine or cosine of `m × 2^e`: the sign and the magnitude, by quadrant. -/
def trig (cosine : Bool) (m : Nat) (e : Int) : Bool × Nat :=
  let x := fixOf m e
  let k := x / fixHalfPi
  let r := x % fixHalfPi
  let j := if cosine then k + 1 else k
  (j % 4 ≥ 2, if j % 2 = 0 then fixSin r else fixCos r)

/-- Sine (R134, R135). -/
def FloatFmt.sin (f : FloatFmt) (et p : Nat) (ftz : Bool) : Elem :=
  match f.operand ftz p with
  | .nan s => f.nanElem (if s then flagIV else 0)
  | .inf _ => f.nanElem flagIV
  | .zero n => ⟨f.signed n 0, 0⟩
  | .fin n m e =>
    let z := trig false m e
    f.faithful 2 et p ftz (z.1 != n) (fixMag z.2)

/-- Cosine (R134, R135). -/
def FloatFmt.cos (f : FloatFmt) (et p : Nat) (ftz : Bool) : Elem :=
  match f.operand ftz p with
  | .nan s => f.nanElem (if s then flagIV else 0)
  | .inf _ => f.nanElem flagIV
  | .zero _ => ⟨f.one, 0⟩
  | .fin _ m e =>
    let z := trig true m e
    f.faithful 3 et p ftz z.1 (fixMag z.2)

/-- Hyperbolic tangent (R134, R135). -/
def FloatFmt.tanh (f : FloatFmt) (et p : Nat) (ftz : Bool) : Elem :=
  match f.operand ftz p with
  | .nan s => f.nanElem (if s then flagIV else 0)
  | .inf n => ⟨f.signed n f.one, 0⟩
  | .zero n => ⟨f.signed n 0, 0⟩
  | .fin n m e =>
    -- past 100 the neighbours no longer change
    let y := if 7 ≤ e + Nat.log2 m then 100 * fixOne else fixOf m e
    let k := 2 * y / fixLn2
    let v := fixExp (2 * y % fixLn2) * 2 ^ k
    f.faithful 4 et p ftz n (fixMag (fixDiv (v - fixOne) (v + fixOne)))

/-- VEXP2 (R134). -/
def execVexp2 (d : BitVec 5) (b : VSrc) (s : State) : Host.Outcome State Fault Refusal :=
  issue (.vexp2 d b) s fun u => 
    s.elementWord u (.vexp2 d b) legalFaithful false d noOperand (u.squad.operand true b) fun e _ _ y _ =>
      e.float (fun f => f.exp2 e.et y e.round.ftz) y

/-- VLOG2 (R134). -/
def execVlog2 (d : BitVec 5) (b : VSrc) (s : State) : Host.Outcome State Fault Refusal :=
  issue (.vlog2 d b) s fun u => 
    s.elementWord u (.vlog2 d b) legalFaithful false d noOperand (u.squad.operand true b) fun e _ _ y _ =>
      e.float (fun f => f.log2 e.et y e.round.ftz) y

/-- VSIN (R134). -/
def execVsin (d : BitVec 5) (b : VSrc) (s : State) : Host.Outcome State Fault Refusal :=
  issue (.vsin d b) s fun u => 
    s.elementWord u (.vsin d b) legalFaithful false d noOperand (u.squad.operand true b) fun e _ _ y _ =>
      e.float (fun f => f.sin e.et y e.round.ftz) y

/-- VCOS (R134). -/
def execVcos (d : BitVec 5) (b : VSrc) (s : State) : Host.Outcome State Fault Refusal :=
  issue (.vcos d b) s fun u => 
    s.elementWord u (.vcos d b) legalFaithful false d noOperand (u.squad.operand true b) fun e _ _ y _ =>
      e.float (fun f => f.cos e.et y e.round.ftz) y

/-- VTANH (R134). -/
def execVtanh (d : BitVec 5) (b : VSrc) (s : State) : Host.Outcome State Fault Refusal :=
  issue (.vtanh d b) s fun u => 
    s.elementWord u (.vtanh d b) legalFaithful false d noOperand (u.squad.operand true b) fun e _ _ y _ =>
      e.float (fun f => f.tanh e.et y e.round.ftz) y

end Sys2Proof.Machine
end

