-- ==== Sys2Proof/Machine/Vector.lean ====
section
/-! DEFINITION. Vector arithmetic, shifts, selection, compares, conversion, rounding and scaling (R119 to R133). -/

namespace Sys2Proof.Machine

/-- VCVT's placing of elements (R131): how many elements are converted, the first source and the first target element;
none where POS is out of range. -/
def cvtPlan (src dst pos : Nat) : Option (Nat × Nat × Nat) :=
  let ns := perLane src
  let nt := perLane dst
  if isWide src ∨ isWide dst then
    let n := if isWide src then nt else ns
    if (isWide src ∧ isWide dst ∧ pos = 0) ∨ (¬(isWide src ∧ isWide dst) ∧ pos < n) then
      some (1, if isWide src then 0 else pos, if isWide dst then 0 else pos)
    else none
  else if ns ≤ nt then (if pos < nt / ns then some (ns, 0, pos * ns) else none)
  else if pos < ns / nt then some (nt, pos * nt, 0)
  else none

/-- VCVT (R114, R131). -/
def State.convertWord (s : State) (u : Issuer) (w : Instr) (d : BitVec 5) (a : VSrc) (src pos : Nat) : Result :=
  let q := u.squad
  let et := q.et
  match cvtPlan src et pos with
  | none => illop w s
  | some (n, from_, to_) =>
    if a.odd (isWide src) ∨ (isWide et ∧ d.toNat % 2 = 1) then illop w s
    else
      let x := q.src src false a
      let lo := q.vreg d.toNat
      let hi := q.vreg (d.toNat + 1)
      s.laneWord u (a.names (isWide src)) (a.released (isWide src)) d.toNat (isWide et) (!isInt src || !isInt et) u.lanes
        fun i => laneOut et fun j =>
          if to_ ≤ j ∧ j < to_ + n then
            convert src et ⟨q.rm, q.ftz, false⟩ q.sat (elemAt src (x.lo i) (x.hi i) (from_ + (j - to_)))
              (drawOf q.rng (4 * i + (j - to_)))
          else ⟨elemAt et (lane lo i) (lane hi i) j, 0⟩

/-- VSCL: the scale is the whole 32-bit lane of slot B (R133). -/
def State.scaleWord (s : State) (u : Issuer) (w : Instr) (d : BitVec 5) (a b : VSrc) : Result :=
  let q := u.squad
  let et := q.et
  let x := q.operand false a
  let y := q.operand true b
  let n := (q.src 5 true b).lo
  if legalFloat et = false ∨ x.odd ∨ y.odd ∨ (isWide et ∧ d.toNat % 2 = 1) then illop w s
  else
    s.laneWord u (x.names ++ y.names) (x.rels ++ y.rels) d.toNat (isWide et) true u.lanes fun i =>
      laneOut et fun j =>
        q.elemMode.scale (elemAt et (x.src.lo i) (x.src.hi i) j) (n i).toInt (drawOf q.rng (4 * i + j))

/-- VSEL: the guard selects (R130). -/
def State.selectWord (s : State) (u : Issuer) (w : Instr) (d : BitVec 5) (a b : VSrc) : Result :=
  let q := u.squad
  let et := q.et
  let x := q.operand false a
  let y := q.operand true b
  if x.odd ∨ y.odd ∨ (isWide et ∧ d.toNat % 2 = 1) then illop w s
  else
    s.laneWord u (x.names ++ y.names) (x.rels ++ y.rels) d.toNat (isWide et) false u.split.mask fun i =>
      if has q.guard i then ⟨x.src.lo i, x.src.hi i, 0⟩ else ⟨y.src.lo i, y.src.hi i, 0⟩

/-- VADD (R125). -/
def execVadd (d : BitVec 5) (a : VSrc) (b : VSrc) (s : State) : Host.Outcome State Fault Refusal :=
  issue (.vadd d a b) s fun u => 
    s.elementWord u (.vadd d a b) legalArith true d (u.squad.operand false a) (u.squad.operand true b) fun e _ x y z => e.add x y z

/-- VADD_I (R125). -/
def execVaddI (d : BitVec 5) (a : VSrc) (i : BitVec 9) (s : State) : Host.Outcome State Fault Refusal :=
  issue (.vaddI d a i) s fun u => 
    s.elementWord u (.vaddI d a i) legalArith true d (u.squad.operand false a) (u.squad.immediate i) fun e _ x y z => e.add x y z

/-- VSUB (R125). -/
def execVsub (d : BitVec 5) (a : VSrc) (b : VSrc) (s : State) : Host.Outcome State Fault Refusal :=
  issue (.vsub d a b) s fun u => 
    s.elementWord u (.vsub d a b) legalArith true d (u.squad.operand false a) (u.squad.operand true b) fun e _ x y z => e.sub x y z

/-- VSUB_I (R125). -/
def execVsubI (d : BitVec 5) (a : VSrc) (i : BitVec 9) (s : State) : Host.Outcome State Fault Refusal :=
  issue (.vsubI d a i) s fun u => 
    s.elementWord u (.vsubI d a i) legalArith true d (u.squad.operand false a) (u.squad.immediate i) fun e _ x y z => e.sub x y z

/-- VMUL (R125). -/
def execVmul (d : BitVec 5) (a : VSrc) (b : VSrc) (s : State) : Host.Outcome State Fault Refusal :=
  issue (.vmul d a b) s fun u => 
    s.elementWord u (.vmul d a b) legalArith true d (u.squad.operand false a) (u.squad.operand true b) fun e _ x y z => e.mul x y z

/-- VMUL_I (R125). -/
def execVmulI (d : BitVec 5) (a : VSrc) (i : BitVec 9) (s : State) : Host.Outcome State Fault Refusal :=
  issue (.vmulI d a i) s fun u => 
    s.elementWord u (.vmulI d a i) legalArith true d (u.squad.operand false a) (u.squad.immediate i) fun e _ x y z => e.mul x y z

/-- VMAD (R125). -/
def execVmad (d : BitVec 5) (a : VSrc) (b : VSrc) (s : State) : Host.Outcome State Fault Refusal :=
  issue (.vmad d a b) s fun u => 
    s.elementWord u (.vmad d a b) legalArith true d (u.squad.operand false a) (u.squad.operand true b) fun e d x y z => e.fma false false d x y z

/-- VMAD_I (R125). -/
def execVmadI (d : BitVec 5) (a : VSrc) (i : BitVec 9) (s : State) : Host.Outcome State Fault Refusal :=
  issue (.vmadI d a i) s fun u => 
    s.elementWord u (.vmadI d a i) legalArith true d (u.squad.operand false a) (u.squad.immediate i) fun e d x y z => e.fma false false d x y z

/-- VMSB (R125). -/
def execVmsb (d : BitVec 5) (a : VSrc) (b : VSrc) (s : State) : Host.Outcome State Fault Refusal :=
  issue (.vmsb d a b) s fun u => 
    s.elementWord u (.vmsb d a b) legalArith true d (u.squad.operand false a) (u.squad.operand true b) fun e d x y z => e.fma true false d x y z

/-- VMSB_I (R125). -/
def execVmsbI (d : BitVec 5) (a : VSrc) (i : BitVec 9) (s : State) : Host.Outcome State Fault Refusal :=
  issue (.vmsbI d a i) s fun u => 
    s.elementWord u (.vmsbI d a i) legalArith true d (u.squad.operand false a) (u.squad.immediate i) fun e d x y z => e.fma true false d x y z

/-- VNMAD (R125). -/
def execVnmad (d : BitVec 5) (a : VSrc) (b : VSrc) (s : State) : Host.Outcome State Fault Refusal :=
  issue (.vnmad d a b) s fun u => 
    s.elementWord u (.vnmad d a b) legalArith true d (u.squad.operand false a) (u.squad.operand true b) fun e d x y z => e.fma false true d x y z

/-- VNMAD_I (R125). -/
def execVnmadI (d : BitVec 5) (a : VSrc) (i : BitVec 9) (s : State) : Host.Outcome State Fault Refusal :=
  issue (.vnmadI d a i) s fun u => 
    s.elementWord u (.vnmadI d a i) legalArith true d (u.squad.operand false a) (u.squad.immediate i) fun e d x y z => e.fma false true d x y z

/-- VMULH (R125). -/
def execVmulh (d : BitVec 5) (a : VSrc) (b : VSrc) (s : State) : Host.Outcome State Fault Refusal :=
  issue (.vmulh d a b) s fun u => 
    s.elementWord u (.vmulh d a b) isInt false d (u.squad.operand false a) (u.squad.operand true b) fun e _ x y _ => e.mulh x y

/-- VMULH_I (R125). -/
def execVmulhI (d : BitVec 5) (a : VSrc) (i : BitVec 9) (s : State) : Host.Outcome State Fault Refusal :=
  issue (.vmulhI d a i) s fun u => 
    s.elementWord u (.vmulhI d a i) isInt false d (u.squad.operand false a) (u.squad.immediate i) fun e _ x y _ => e.mulh x y

/-- VMIN (R127). -/
def execVmin (d : BitVec 5) (a : VSrc) (b : VSrc) (s : State) : Host.Outcome State Fault Refusal :=
  issue (.vmin d a b) s fun u => 
    s.elementWord u (.vmin d a b) legalArith false d (u.squad.operand false a) (u.squad.operand true b) fun e _ x y _ => e.minMax false x y

/-- VMIN_I (R127). -/
def execVminI (d : BitVec 5) (a : VSrc) (i : BitVec 9) (s : State) : Host.Outcome State Fault Refusal :=
  issue (.vminI d a i) s fun u => 
    s.elementWord u (.vminI d a i) legalArith false d (u.squad.operand false a) (u.squad.immediate i) fun e _ x y _ => e.minMax false x y

/-- VMAX (R127). -/
def execVmax (d : BitVec 5) (a : VSrc) (b : VSrc) (s : State) : Host.Outcome State Fault Refusal :=
  issue (.vmax d a b) s fun u => 
    s.elementWord u (.vmax d a b) legalArith false d (u.squad.operand false a) (u.squad.operand true b) fun e _ x y _ => e.minMax true x y

/-- VMAX_I (R127). -/
def execVmaxI (d : BitVec 5) (a : VSrc) (i : BitVec 9) (s : State) : Host.Outcome State Fault Refusal :=
  issue (.vmaxI d a i) s fun u => 
    s.elementWord u (.vmaxI d a i) legalArith false d (u.squad.operand false a) (u.squad.immediate i) fun e _ x y _ => e.minMax true x y

/-- VABS (R126). -/
def execVabs (d : BitVec 5) (b : VSrc) (s : State) : Host.Outcome State Fault Refusal :=
  issue (.vabs d b) s fun u => 
    s.elementWord u (.vabs d b) legalArith false d noOperand (u.squad.operand true b) fun e _ _ y _ => e.abs y

/-- VABS_I (R126). -/
def execVabsI (d : BitVec 5) (i : BitVec 9) (s : State) : Host.Outcome State Fault Refusal :=
  issue (.vabsI d i) s fun u => 
    s.elementWord u (.vabsI d i) legalArith false d noOperand (u.squad.immediate i) fun e _ _ y _ => e.abs y

/-- VNEG (R126). -/
def execVneg (d : BitVec 5) (b : VSrc) (s : State) : Host.Outcome State Fault Refusal :=
  issue (.vneg d b) s fun u => 
    s.elementWord u (.vneg d b) legalArith false d noOperand (u.squad.operand true b) fun e _ _ y _ => e.neg y

/-- VNEG_I (R126). -/
def execVnegI (d : BitVec 5) (i : BitVec 9) (s : State) : Host.Outcome State Fault Refusal :=
  issue (.vnegI d i) s fun u => 
    s.elementWord u (.vnegI d i) legalArith false d noOperand (u.squad.immediate i) fun e _ _ y _ => e.neg y

/-- VAND (R125). -/
def execVand (d : BitVec 5) (a : VSrc) (b : VSrc) (s : State) : Host.Outcome State Fault Refusal :=
  issue (.vand d a b) s fun u => 
    s.elementWord u (.vand d a b) legalArith false d (u.squad.operand false a) (u.squad.operand true b) fun _ _ x y _ => ⟨x &&& y, 0⟩

/-- VAND_I (R125). -/
def execVandI (d : BitVec 5) (a : VSrc) (i : BitVec 9) (s : State) : Host.Outcome State Fault Refusal :=
  issue (.vandI d a i) s fun u => 
    s.elementWord u (.vandI d a i) legalArith false d (u.squad.operand false a) (u.squad.immediate i) fun _ _ x y _ => ⟨x &&& y, 0⟩

/-- VOR (R125). -/
def execVor (d : BitVec 5) (a : VSrc) (b : VSrc) (s : State) : Host.Outcome State Fault Refusal :=
  issue (.vor d a b) s fun u => 
    s.elementWord u (.vor d a b) legalArith false d (u.squad.operand false a) (u.squad.operand true b) fun _ _ x y _ => ⟨x ||| y, 0⟩

/-- VOR_I (R125). -/
def execVorI (d : BitVec 5) (a : VSrc) (i : BitVec 9) (s : State) : Host.Outcome State Fault Refusal :=
  issue (.vorI d a i) s fun u => 
    s.elementWord u (.vorI d a i) legalArith false d (u.squad.operand false a) (u.squad.immediate i) fun _ _ x y _ => ⟨x ||| y, 0⟩

/-- VXOR (R125). -/
def execVxor (d : BitVec 5) (a : VSrc) (b : VSrc) (s : State) : Host.Outcome State Fault Refusal :=
  issue (.vxor d a b) s fun u => 
    s.elementWord u (.vxor d a b) legalArith false d (u.squad.operand false a) (u.squad.operand true b) fun _ _ x y _ => ⟨x ^^^ y, 0⟩

/-- VXOR_I (R125). -/
def execVxorI (d : BitVec 5) (a : VSrc) (i : BitVec 9) (s : State) : Host.Outcome State Fault Refusal :=
  issue (.vxorI d a i) s fun u => 
    s.elementWord u (.vxorI d a i) legalArith false d (u.squad.operand false a) (u.squad.immediate i) fun _ _ x y _ => ⟨x ^^^ y, 0⟩

/-- VNOT (R126). -/
def execVnot (d : BitVec 5) (b : VSrc) (s : State) : Host.Outcome State Fault Refusal :=
  issue (.vnot d b) s fun u => 
    s.elementWord u (.vnot d b) legalArith false d noOperand (u.squad.operand true b) fun e _ _ y _ => ⟨2 ^ e.width - 1 - y, 0⟩

/-- VNOT_I (R126). -/
def execVnotI (d : BitVec 5) (i : BitVec 9) (s : State) : Host.Outcome State Fault Refusal :=
  issue (.vnotI d i) s fun u => 
    s.elementWord u (.vnotI d i) legalArith false d noOperand (u.squad.immediate i) fun e _ _ y _ => ⟨2 ^ e.width - 1 - y, 0⟩

/-- VSHL (R128). -/
def execVshl (d : BitVec 5) (a : VSrc) (b : VSrc) (s : State) : Host.Outcome State Fault Refusal :=
  issue (.vshl d a b) s fun u => 
    s.elementWord u (.vshl d a b) isInt false d (u.squad.operand false a) (u.squad.operand true b) fun e _ x y _ => e.shl x y

/-- VSHL_I (R128). -/
def execVshlI (d : BitVec 5) (a : VSrc) (i : BitVec 9) (s : State) : Host.Outcome State Fault Refusal :=
  issue (.vshlI d a i) s fun u => 
    s.elementWord u (.vshlI d a i) isInt false d (u.squad.operand false a) (u.squad.immediate i) fun e _ x y _ => e.shl x y

/-- VSHR (R128). -/
def execVshr (d : BitVec 5) (a : VSrc) (b : VSrc) (s : State) : Host.Outcome State Fault Refusal :=
  issue (.vshr d a b) s fun u => 
    s.elementWord u (.vshr d a b) isInt false d (u.squad.operand false a) (u.squad.operand true b) fun e _ x y _ => e.shr x y

/-- VSHR_I (R128). -/
def execVshrI (d : BitVec 5) (a : VSrc) (i : BitVec 9) (s : State) : Host.Outcome State Fault Refusal :=
  issue (.vshrI d a i) s fun u => 
    s.elementWord u (.vshrI d a i) isInt false d (u.squad.operand false a) (u.squad.immediate i) fun e _ x y _ => e.shr x y

/-- VROL (R128). -/
def execVrol (d : BitVec 5) (a : VSrc) (b : VSrc) (s : State) : Host.Outcome State Fault Refusal :=
  issue (.vrol d a b) s fun u => 
    s.elementWord u (.vrol d a b) isInt false d (u.squad.operand false a) (u.squad.operand true b) fun e _ x y _ => e.rol x y

/-- VROL_I (R128). -/
def execVrolI (d : BitVec 5) (a : VSrc) (i : BitVec 9) (s : State) : Host.Outcome State Fault Refusal :=
  issue (.vrolI d a i) s fun u => 
    s.elementWord u (.vrolI d a i) isInt false d (u.squad.operand false a) (u.squad.immediate i) fun e _ x y _ => e.rol x y

/-- VCLZ (R126). -/
def execVclz (d : BitVec 5) (b : VSrc) (s : State) : Host.Outcome State Fault Refusal :=
  issue (.vclz d b) s fun u => 
    s.elementWord u (.vclz d b) isInt false d noOperand (u.squad.operand true b) fun e _ _ y _ => ⟨leadingZeros e.width y, 0⟩

/-- VPOPC (R126). -/
def execVpopc (d : BitVec 5) (b : VSrc) (s : State) : Host.Outcome State Fault Refusal :=
  issue (.vpopc d b) s fun u => 
    s.elementWord u (.vpopc d b) isInt false d noOperand (u.squad.operand true b) fun e _ _ y _ => ⟨onesOf e.width y, 0⟩

/-- VBREV (R126). -/
def execVbrev (d : BitVec 5) (b : VSrc) (s : State) : Host.Outcome State Fault Refusal :=
  issue (.vbrev d b) s fun u => 
    s.elementWord u (.vbrev d b) isInt false d noOperand (u.squad.operand true b) fun e _ _ y _ => ⟨bitReverse e.width y, 0⟩

/-- VSEL (R130). -/
def execVsel (d : BitVec 5) (a : VSrc) (b : VSrc) (s : State) : Host.Outcome State Fault Refusal :=
  issue (.vsel d a b) s fun u => s.selectWord u (.vsel d a b) d a b

/-- VCEQ (R129). -/
def execVceq (m : BitVec 2) (p : BitVec 3) (a : VSrc) (b : VSrc) (s : State) : Host.Outcome State Fault Refusal :=
  issue (.vceq m p a b) s fun u => 
    s.compareWord u (.vceq m p a b) .eq m p (u.squad.operand false a) (u.squad.operand true b)

/-- VCEQ_I (R129). -/
def execVceqI (m : BitVec 2) (p : BitVec 3) (a : VSrc) (i : BitVec 9) (s : State) : Host.Outcome State Fault Refusal :=
  issue (.vceqI m p a i) s fun u => 
    s.compareWord u (.vceqI m p a i) .eq m p (u.squad.operand false a) (u.squad.immediate i)

/-- VCNE (R129). -/
def execVcne (m : BitVec 2) (p : BitVec 3) (a : VSrc) (b : VSrc) (s : State) : Host.Outcome State Fault Refusal :=
  issue (.vcne m p a b) s fun u => 
    s.compareWord u (.vcne m p a b) .ne m p (u.squad.operand false a) (u.squad.operand true b)

/-- VCNE_I (R129). -/
def execVcneI (m : BitVec 2) (p : BitVec 3) (a : VSrc) (i : BitVec 9) (s : State) : Host.Outcome State Fault Refusal :=
  issue (.vcneI m p a i) s fun u => 
    s.compareWord u (.vcneI m p a i) .ne m p (u.squad.operand false a) (u.squad.immediate i)

/-- VCLT (R129). -/
def execVclt (m : BitVec 2) (p : BitVec 3) (a : VSrc) (b : VSrc) (s : State) : Host.Outcome State Fault Refusal :=
  issue (.vclt m p a b) s fun u => 
    s.compareWord u (.vclt m p a b) .lt m p (u.squad.operand false a) (u.squad.operand true b)

/-- VCLT_I (R129). -/
def execVcltI (m : BitVec 2) (p : BitVec 3) (a : VSrc) (i : BitVec 9) (s : State) : Host.Outcome State Fault Refusal :=
  issue (.vcltI m p a i) s fun u => 
    s.compareWord u (.vcltI m p a i) .lt m p (u.squad.operand false a) (u.squad.immediate i)

/-- VCLE (R129). -/
def execVcle (m : BitVec 2) (p : BitVec 3) (a : VSrc) (b : VSrc) (s : State) : Host.Outcome State Fault Refusal :=
  issue (.vcle m p a b) s fun u => 
    s.compareWord u (.vcle m p a b) .le m p (u.squad.operand false a) (u.squad.operand true b)

/-- VCLE_I (R129). -/
def execVcleI (m : BitVec 2) (p : BitVec 3) (a : VSrc) (i : BitVec 9) (s : State) : Host.Outcome State Fault Refusal :=
  issue (.vcleI m p a i) s fun u => 
    s.compareWord u (.vcleI m p a i) .le m p (u.squad.operand false a) (u.squad.immediate i)

/-- VCGT (R129). -/
def execVcgt (m : BitVec 2) (p : BitVec 3) (a : VSrc) (b : VSrc) (s : State) : Host.Outcome State Fault Refusal :=
  issue (.vcgt m p a b) s fun u => 
    s.compareWord u (.vcgt m p a b) .gt m p (u.squad.operand false a) (u.squad.operand true b)

/-- VCGT_I (R129). -/
def execVcgtI (m : BitVec 2) (p : BitVec 3) (a : VSrc) (i : BitVec 9) (s : State) : Host.Outcome State Fault Refusal :=
  issue (.vcgtI m p a i) s fun u => 
    s.compareWord u (.vcgtI m p a i) .gt m p (u.squad.operand false a) (u.squad.immediate i)

/-- VCGE (R129). -/
def execVcge (m : BitVec 2) (p : BitVec 3) (a : VSrc) (b : VSrc) (s : State) : Host.Outcome State Fault Refusal :=
  issue (.vcge m p a b) s fun u => 
    s.compareWord u (.vcge m p a b) .ge m p (u.squad.operand false a) (u.squad.operand true b)

/-- VCGE_I (R129). -/
def execVcgeI (m : BitVec 2) (p : BitVec 3) (a : VSrc) (i : BitVec 9) (s : State) : Host.Outcome State Fault Refusal :=
  issue (.vcgeI m p a i) s fun u => 
    s.compareWord u (.vcgeI m p a i) .ge m p (u.squad.operand false a) (u.squad.immediate i)

/-- VCUN (R129). -/
def execVcun (m : BitVec 2) (p : BitVec 3) (a : VSrc) (b : VSrc) (s : State) : Host.Outcome State Fault Refusal :=
  issue (.vcun m p a b) s fun u => 
    s.compareWord u (.vcun m p a b) .un m p (u.squad.operand false a) (u.squad.operand true b)

/-- VCVT (R131). -/
def execVcvt (d : BitVec 5) (a : VSrc) (sc : BitVec 4) (p : BitVec 3) (s : State) : Host.Outcome State Fault Refusal :=
  issue (.vcvt d a sc p) s fun u => s.convertWord u (.vcvt d a sc p) d a sc.toNat p.toNat

/-- VRND (R132). -/
def execVrnd (d : BitVec 5) (a : VSrc) (s : State) : Host.Outcome State Fault Refusal :=
  issue (.vrnd d a) s fun u => 
    s.elementWord u (.vrnd d a) legalFloat true d (u.squad.operand false a) noOperand fun e _ x _ z => e.integral x z

/-- VSCL (R133). -/
def execVscl (d : BitVec 5) (a : VSrc) (b : VSrc) (s : State) : Host.Outcome State Fault Refusal :=
  issue (.vscl d a b) s fun u => s.scaleWord u (.vscl d a b) d a b

/-- VRCP (R134). -/
def execVrcp (d : BitVec 5) (b : VSrc) (s : State) : Host.Outcome State Fault Refusal :=
  issue (.vrcp d b) s fun u => 
    s.elementWord u (.vrcp d b) legalFloat true d noOperand (u.squad.operand true b) fun e _ _ y z =>
      e.float (fun f => f.div e.round f.one y z) y

/-- VRSQ (R134). -/
def execVrsq (d : BitVec 5) (b : VSrc) (s : State) : Host.Outcome State Fault Refusal :=
  issue (.vrsq d b) s fun u => 
    s.elementWord u (.vrsq d b) legalFloat true d noOperand (u.squad.operand true b) fun e _ _ y z =>
      e.float (fun f => f.rsqrt e.round y z) y

/-- VSQRT (R134). -/
def execVsqrt (d : BitVec 5) (b : VSrc) (s : State) : Host.Outcome State Fault Refusal :=
  issue (.vsqrt d b) s fun u => 
    s.elementWord u (.vsqrt d b) legalFloat true d noOperand (u.squad.operand true b) fun e _ _ y z =>
      e.float (fun f => f.sqrt e.round y z) y

/-- VDIV (R134). -/
def execVdiv (d : BitVec 5) (a : VSrc) (b : VSrc) (s : State) : Host.Outcome State Fault Refusal :=
  issue (.vdiv d a b) s fun u => 
    s.elementWord u (.vdiv d a b) legalFloat true d (u.squad.operand false a) (u.squad.operand true b) fun e _ x y z =>
      e.float (fun f => f.div e.round x y z) y

end Sys2Proof.Machine
end

