-- ==== Sys2Proof/Machine/Dispatch.lean ====
section
/-! DEFINITION. One arm per instruction: its meaning, or its refusal by name. -/

namespace Sys2Proof.Machine

open Sys2Proof

/-- What one instruction does. -/
def exec (i : Instr) (s : State) : Host.Outcome State Fault Refusal :=
  match i with
  | .sadd d a b => Sys2Proof.Machine.execSadd d a b s
  | .ssub d a b => Sys2Proof.Machine.execSsub d a b s
  | .smul d a b => Sys2Proof.Machine.execSmul d a b s
  | .smulh d a b => Sys2Proof.Machine.execSmulh d a b s
  | .sdiv d a b => Sys2Proof.Machine.execSdiv d a b s
  | .srem d a b => Sys2Proof.Machine.execSrem d a b s
  | .sand d a b => Sys2Proof.Machine.execSand d a b s
  | .sor d a b => Sys2Proof.Machine.execSor d a b s
  | .sxor d a b => Sys2Proof.Machine.execSxor d a b s
  | .sshl d a b => Sys2Proof.Machine.execSshl d a b s
  | .sshr d a b => Sys2Proof.Machine.execSshr d a b s
  | .ssar d a b => Sys2Proof.Machine.execSsar d a b s
  | .smin d a b => Sys2Proof.Machine.execSmin d a b s
  | .smax d a b => Sys2Proof.Machine.execSmax d a b s
  | .sminu d a b => Sys2Proof.Machine.execSminu d a b s
  | .smaxu d a b => Sys2Proof.Machine.execSmaxu d a b s
  | .sslt d a b => Sys2Proof.Machine.execSslt d a b s
  | .ssltu d a b => Sys2Proof.Machine.execSsltu d a b s
  | .sseq d a b => Sys2Proof.Machine.execSseq d a b s
  | .ssel d a b => Sys2Proof.Machine.execSsel d a b s
  | .smov d b => Sys2Proof.Machine.execSmov d b s
  | .sli d lit => Sys2Proof.Machine.execSli d lit s
  | .sclz d a => Sys2Proof.Machine.execSclz d a s
  | .spopc d a => Sys2Proof.Machine.execSpopc d a s
  | .saddI d a im => Sys2Proof.Machine.execSaddI d a im s
  | .ssubI d a im => Sys2Proof.Machine.execSsubI d a im s
  | .smulI d a im => Sys2Proof.Machine.execSmulI d a im s
  | .smulhI d a im => Sys2Proof.Machine.execSmulhI d a im s
  | .sdivI d a im => Sys2Proof.Machine.execSdivI d a im s
  | .sremI d a im => Sys2Proof.Machine.execSremI d a im s
  | .sandI d a im => Sys2Proof.Machine.execSandI d a im s
  | .sorI d a im => Sys2Proof.Machine.execSorI d a im s
  | .sxorI d a im => Sys2Proof.Machine.execSxorI d a im s
  | .sshlI d a im => Sys2Proof.Machine.execSshlI d a im s
  | .sshrI d a im => Sys2Proof.Machine.execSshrI d a im s
  | .ssarI d a im => Sys2Proof.Machine.execSsarI d a im s
  | .sminI d a im => Sys2Proof.Machine.execSminI d a im s
  | .smaxI d a im => Sys2Proof.Machine.execSmaxI d a im s
  | .sminuI d a im => Sys2Proof.Machine.execSminuI d a im s
  | .smaxuI d a im => Sys2Proof.Machine.execSmaxuI d a im s
  | .ssltI d a im => Sys2Proof.Machine.execSsltI d a im s
  | .ssltuI d a im => Sys2Proof.Machine.execSsltuI d a im s
  | .sseqI d a im => Sys2Proof.Machine.execSseqI d a im s
  | .bra o => Sys2Proof.Machine.execBra o s
  | .brs sc o => Sys2Proof.Machine.execBrs sc o s
  | .brp m p o => Sys2Proof.Machine.execBrp m p o s
  | .brl m p o => Sys2Proof.Machine.execBrl m p o s
  | .call l o => Sys2Proof.Machine.execCall l o s
  | .ret a => Sys2Proof.Machine.execRet a s
  | .jmpi a => Sys2Proof.Machine.execJmpi a s
  | .exit => Sys2Proof.Machine.execExit s
  | .yield => Sys2Proof.Machine.execYield s
  | .nop x => Sys2Proof.Machine.execNop x s
  | .waitf m => Sys2Proof.Machine.execWaitf m s
  | .waitc p a => Sys2Proof.Machine.execWaitc p a s
  | .trap c => Sys2Proof.Machine.execTrap c s
  | .brk c => Sys2Proof.Machine.execBrk c s
  | .tret => Sys2Proof.Machine.execTret s
  | .svc d a c => Sys2Proof.Machine.execSvc d a c s
  | .setm lit => Sys2Proof.Machine.execSetm lit s
  | .setg n g => Sys2Proof.Machine.execSetg n g s
  | .sett t => Sys2Proof.Machine.execSett t s
  | .setr r f sc => Sys2Proof.Machine.execSetr r f sc s
  | .setw w => Sys2Proof.Machine.execSetw w s
  | .setd sc => Sys2Proof.Machine.execSetd sc s
  | .setx l b => Sys2Proof.Machine.execSetx l b s
  | .srd d im => Sys2Proof.Machine.execSrd d im s
  | .swr sc im => Sys2Proof.Machine.execSwr sc im s
  | .bid c a b => Sys2Proof.Machine.execBid c a b s
  | .vadd d a b => Sys2Proof.Machine.execVadd d a b s
  | .vsub d a b => Sys2Proof.Machine.execVsub d a b s
  | .vmul d a b => Sys2Proof.Machine.execVmul d a b s
  | .vmulh d a b => Sys2Proof.Machine.execVmulh d a b s
  | .vmad d a b => Sys2Proof.Machine.execVmad d a b s
  | .vmsb d a b => Sys2Proof.Machine.execVmsb d a b s
  | .vnmad d a b => Sys2Proof.Machine.execVnmad d a b s
  | .vmin d a b => Sys2Proof.Machine.execVmin d a b s
  | .vmax d a b => Sys2Proof.Machine.execVmax d a b s
  | .vabs d b => Sys2Proof.Machine.execVabs d b s
  | .vneg d b => Sys2Proof.Machine.execVneg d b s
  | .vand d a b => Sys2Proof.Machine.execVand d a b s
  | .vor d a b => Sys2Proof.Machine.execVor d a b s
  | .vxor d a b => Sys2Proof.Machine.execVxor d a b s
  | .vnot d b => Sys2Proof.Machine.execVnot d b s
  | .vshl d a b => Sys2Proof.Machine.execVshl d a b s
  | .vshr d a b => Sys2Proof.Machine.execVshr d a b s
  | .vrol d a b => Sys2Proof.Machine.execVrol d a b s
  | .vclz d b => Sys2Proof.Machine.execVclz d b s
  | .vpopc d b => Sys2Proof.Machine.execVpopc d b s
  | .vbrev d b => Sys2Proof.Machine.execVbrev d b s
  | .vsel d a b => Sys2Proof.Machine.execVsel d a b s
  | .vceq m p a b => Sys2Proof.Machine.execVceq m p a b s
  | .vcne m p a b => Sys2Proof.Machine.execVcne m p a b s
  | .vclt m p a b => Sys2Proof.Machine.execVclt m p a b s
  | .vcle m p a b => Sys2Proof.Machine.execVcle m p a b s
  | .vcgt m p a b => Sys2Proof.Machine.execVcgt m p a b s
  | .vcge m p a b => Sys2Proof.Machine.execVcge m p a b s
  | .vcun m p a b => Sys2Proof.Machine.execVcun m p a b s
  | .vaddI d a im => Sys2Proof.Machine.execVaddI d a im s
  | .vsubI d a im => Sys2Proof.Machine.execVsubI d a im s
  | .vmulI d a im => Sys2Proof.Machine.execVmulI d a im s
  | .vmulhI d a im => Sys2Proof.Machine.execVmulhI d a im s
  | .vmadI d a im => Sys2Proof.Machine.execVmadI d a im s
  | .vmsbI d a im => Sys2Proof.Machine.execVmsbI d a im s
  | .vnmadI d a im => Sys2Proof.Machine.execVnmadI d a im s
  | .vminI d a im => Sys2Proof.Machine.execVminI d a im s
  | .vmaxI d a im => Sys2Proof.Machine.execVmaxI d a im s
  | .vabsI d im => Sys2Proof.Machine.execVabsI d im s
  | .vnegI d im => Sys2Proof.Machine.execVnegI d im s
  | .vandI d a im => Sys2Proof.Machine.execVandI d a im s
  | .vorI d a im => Sys2Proof.Machine.execVorI d a im s
  | .vxorI d a im => Sys2Proof.Machine.execVxorI d a im s
  | .vnotI d im => Sys2Proof.Machine.execVnotI d im s
  | .vshlI d a im => Sys2Proof.Machine.execVshlI d a im s
  | .vshrI d a im => Sys2Proof.Machine.execVshrI d a im s
  | .vrolI d a im => Sys2Proof.Machine.execVrolI d a im s
  | .vceqI m p a im => Sys2Proof.Machine.execVceqI m p a im s
  | .vcneI m p a im => Sys2Proof.Machine.execVcneI m p a im s
  | .vcltI m p a im => Sys2Proof.Machine.execVcltI m p a im s
  | .vcleI m p a im => Sys2Proof.Machine.execVcleI m p a im s
  | .vcgtI m p a im => Sys2Proof.Machine.execVcgtI m p a im s
  | .vcgeI m p a im => Sys2Proof.Machine.execVcgeI m p a im s
  | .vcvt d a sc p => Sys2Proof.Machine.execVcvt d a sc p s
  | .vrnd d a => Sys2Proof.Machine.execVrnd d a s
  | .vscl d a b => Sys2Proof.Machine.execVscl d a b s
  | .vrcp d b => Sys2Proof.Machine.execVrcp d b s
  | .vrsq d b => Sys2Proof.Machine.execVrsq d b s
  | .vsqrt d b => Sys2Proof.Machine.execVsqrt d b s
  | .vexp2 d b => Sys2Proof.Machine.execVexp2 d b s
  | .vlog2 d b => Sys2Proof.Machine.execVlog2 d b s
  | .vsin d b => Sys2Proof.Machine.execVsin d b s
  | .vcos d b => Sys2Proof.Machine.execVcos d b s
  | .vtanh d b => Sys2Proof.Machine.execVtanh d b s
  | .vdiv d a b => Sys2Proof.Machine.execVdiv d a b s
  | .pand d a b => Sys2Proof.Machine.execPand d a b s
  | .por d a b => Sys2Proof.Machine.execPor d a b s
  | .pxor d a b => Sys2Proof.Machine.execPxor d a b s
  | .pandn d a b => Sys2Proof.Machine.execPandn d a b s
  | .pnot d a => Sys2Proof.Machine.execPnot d a s
  | .pmov d a => Sys2Proof.Machine.execPmov d a s
  | .pset d b => Sys2Proof.Machine.execPset d b s
  | .vote m d a => Sys2Proof.Machine.execVote m d a s
  | .vbal d a => Sys2Proof.Machine.execVbal d a s
  | .vshf d a b => Sys2Proof.Machine.execVshf d a b s
  | .vrdc d a o => Sys2Proof.Machine.execVrdc d a o s
  | .vscn d a e o => Sys2Proof.Machine.execVscn d a e o s
  | .rwalk d a b => Sys2Proof.Machine.execRwalk d a b s
  | .rnext m p a b => Sys2Proof.Machine.execRnext m p a b s
  | .vsred d a p o => Sys2Proof.Machine.execVsred d a p o s
  | .vmov d b => Sys2Proof.Machine.execVmov d b s
  | .vmovx d a b => Sys2Proof.Machine.execVmovx d a b s
  | .vmovxw d a b => Sys2Proof.Machine.execVmovxw d a b s
  | .vfree b => Sys2Proof.Machine.execVfree b s
  | .rdep n a b => Sys2Proof.Machine.execRdep n a b s
  | .waita a => Sys2Proof.Machine.execWaita a s
  | .tidset n a sc o => Sys2Proof.Machine.execTidset n a sc o s
  | .tidget n a sc o => Sys2Proof.Machine.execTidget n a sc o s
  | .tidcur n a b => Sys2Proof.Machine.execTidcur n a b s
  | .tidinv n => Sys2Proof.Machine.execTidinv n s
  | .wget d => Sys2Proof.Machine.execWget d s
  | .mma sc v c t r b => Sys2Proof.Machine.execMma sc v c t r b s
  | .mmaz sc v c t r b => Sys2Proof.Machine.execMmaz sc v c t r b s
  | .mmaw sc v c t r b => Sys2Proof.Machine.execMmaw sc v c t r b s
  | .accz n b => Sys2Proof.Machine.execAccz n b s
  | .accrd d n b => Sys2Proof.Machine.execAccrd d n b s
  | .accwr n a b => Sys2Proof.Machine.execAccwr n a b s
  | .accld n t b => Sys2Proof.Machine.execAccld n t b s
  | .accst n t => Sys2Proof.Machine.execAccst n t s
  | .accfree b => Sys2Proof.Machine.execAccfree b s
  | .accstat d n => Sys2Proof.Machine.execAccstat d n s
  | .vldB d a sc o => Sys2Proof.Machine.execVldB d a sc o s
  | .vldH d a sc o => Sys2Proof.Machine.execVldH d a sc o s
  | .vldW d a sc o => Sys2Proof.Machine.execVldW d a sc o s
  | .vldD d a sc o => Sys2Proof.Machine.execVldD d a sc o s
  | .vldQ d a sc o => Sys2Proof.Machine.execVldQ d a sc o s
  | .vstB d a sc o => Sys2Proof.Machine.execVstB d a sc o s
  | .vstH d a sc o => Sys2Proof.Machine.execVstH d a sc o s
  | .vstW d a sc o => Sys2Proof.Machine.execVstW d a sc o s
  | .vstD d a sc o => Sys2Proof.Machine.execVstD d a sc o s
  | .vstQ d a sc o => Sys2Proof.Machine.execVstQ d a sc o s
  | .sldB d a sc o => Sys2Proof.Machine.execSldB d a sc o s
  | .sldH d a sc o => Sys2Proof.Machine.execSldH d a sc o s
  | .sldW d a sc o => Sys2Proof.Machine.execSldW d a sc o s
  | .sldD d a sc o => Sys2Proof.Machine.execSldD d a sc o s
  | .sstB d a sc o => Sys2Proof.Machine.execSstB d a sc o s
  | .sstH d a sc o => Sys2Proof.Machine.execSstH d a sc o s
  | .sstW d a sc o => Sys2Proof.Machine.execSstW d a sc o s
  | .sstD d a sc o => Sys2Proof.Machine.execSstD d a sc o s
  | .spldB d a sc o => Sys2Proof.Machine.execSpldB d a sc o s
  | .spldH d a sc o => Sys2Proof.Machine.execSpldH d a sc o s
  | .spldW d a sc o => Sys2Proof.Machine.execSpldW d a sc o s
  | .spldD d a sc o => Sys2Proof.Machine.execSpldD d a sc o s
  | .spstB d a sc o => Sys2Proof.Machine.execSpstB d a sc o s
  | .spstH d a sc o => Sys2Proof.Machine.execSpstH d a sc o s
  | .spstW d a sc o => Sys2Proof.Machine.execSpstW d a sc o s
  | .spstD d a sc o => Sys2Proof.Machine.execSpstD d a sc o s
  | .vldb d a sc o => Sys2Proof.Machine.execVldb d a sc o s
  | .vstb d a sc o => Sys2Proof.Machine.execVstb d a sc o s
  | .spldb d a sc o => Sys2Proof.Machine.execSpldb d a sc o s
  | .spstb d a sc o => Sys2Proof.Machine.execSpstb d a sc o s
  | .rsld d a sc o => Sys2Proof.Machine.execRsld d a sc o s
  | .rsst d a sc o => Sys2Proof.Machine.execRsst d a sc o s
  | .pld a sc o => Sys2Proof.Machine.execPld a sc o s
  | .pldc d a sc o => Sys2Proof.Machine.execPldc d a sc o s
  | .claim d a sc o => Sys2Proof.Machine.execClaim d a sc o s
  | .cwb a sc o => Sys2Proof.Machine.execCwb a sc o s
  | .cinv a sc o => Sys2Proof.Machine.execCinv a sc o s
  | .xq d a sc o => Sys2Proof.Machine.execXq d a sc o s
  | .fence k sc => Sys2Proof.Machine.execFence k sc s
  | .fencet => Sys2Proof.Machine.execFencet s
  | .vldaW d a sc o => Sys2Proof.Machine.execVldaW d a sc o s
  | .vldaD d a sc o => Sys2Proof.Machine.execVldaD d a sc o s
  | .vstrW d a sc o => Sys2Proof.Machine.execVstrW d a sc o s
  | .vstrD d a sc o => Sys2Proof.Machine.execVstrD d a sc o s
  | .acqp d a sc b => Sys2Proof.Machine.execAcqp d a sc b s
  | .atom d a p o f => Sys2Proof.Machine.execAtom d a p o f s
  | .ared d a p o f => Sys2Proof.Machine.execAred d a p o f s
  | .acas d a p o z => Sys2Proof.Machine.execAcas d a p o z s
  | .bari sc c n => Sys2Proof.Machine.execBari sc c n s
  | .bara sc c n => Sys2Proof.Machine.execBara sc c n s
  | .barw sc c n => Sys2Proof.Machine.execBarw sc c n s
  | .barx sc c n => Sys2Proof.Machine.execBarx sc c n s
  | .barj c n => Sys2Proof.Machine.execBarj c n s
  | .barl c n => Sys2Proof.Machine.execBarl c n s
  | .pqpush q a => Sys2Proof.Machine.execPqpush q a s
  | .pqpop d q => Sys2Proof.Machine.execPqpop d q s
  | .pqtry d q => Sys2Proof.Machine.execPqtry d q s
  | .pqgive q a b => Sys2Proof.Machine.execPqgive q a b s
  | .unassignedOpcode w => Sys2Proof.Machine.execUnassignedOpcode w s
  | .clauseChoice quarter => Sys2Proof.Machine.execClauseChoice quarter s
  | .escalatedSquadResume squad pos => Sys2Proof.Machine.execEscalatedSquadResume squad pos s
  | .loadReturn squad op ext => Sys2Proof.Machine.execLoadReturn squad op ext s
  | .writePerformed squad op => Sys2Proof.Machine.execWritePerformed squad op s
  | .eviction core line => Sys2Proof.Machine.execEviction core line s
  | .tableWalk die => Sys2Proof.Machine.execTableWalk die s
  | .faultRetry who fid => Sys2Proof.Machine.execFaultRetry who fid s
  | .faultFail who fid => Sys2Proof.Machine.execFaultFail who fid s
  | .faultDeny who fid => Sys2Proof.Machine.execFaultDeny who fid s
  | .faultTimeout core entry => Sys2Proof.Machine.execFaultTimeout core entry s
  | .zpSweep squad op => Sys2Proof.Machine.execZpSweep squad op s
  | .zpSweepEnd page => Sys2Proof.Machine.execZpSweepEnd page s
  | .claimPageMove squad op => Sys2Proof.Machine.execClaimPageMove squad op s
  | .sectorJoin core => Sys2Proof.Machine.execSectorJoin core s
  | .windowAccessAtTarget squad op => Sys2Proof.Machine.execWindowAccessAtTarget squad op s
  | .depositArrival squad op => Sys2Proof.Machine.execDepositArrival squad op s
  | .atomicExecute squad op => Sys2Proof.Machine.execAtomicExecute squad op s
  | .ownershipRecall core line => Sys2Proof.Machine.execOwnershipRecall core line s
  | .hostAtomicopCompletion squad op lane ok => Sys2Proof.Machine.execHostAtomicopCompletion squad op lane ok s
  | .podAccessRefused squad op lane => Sys2Proof.Machine.execPodAccessRefused squad op lane s
  | .incomingPodAccess peer handle offset access data => Sys2Proof.Machine.execIncomingPodAccess peer handle offset access data s
  | .hostAccess addr write data => Sys2Proof.Machine.execHostAccess addr write data s
  | .copy squad => Sys2Proof.Machine.execCopy squad s
  | .stackLoad squad => Sys2Proof.Machine.execStackLoad squad s
  | .gather squad => Sys2Proof.Machine.execGather squad s
  | .scatter squad => Sys2Proof.Machine.execScatter squad s
  | .collectiveRendezvous squad => Sys2Proof.Machine.execCollectiveRendezvous squad s
  | .reduce id => Sys2Proof.Machine.execReduce id s
  | .allgather id => Sys2Proof.Machine.execAllgather id s
  | .mmaComplete core sub => Sys2Proof.Machine.execMmaComplete core sub s
  | .firstUseEvent core => Sys2Proof.Machine.execFirstUseEvent core s
  | .ringStep cluster => Sys2Proof.Machine.execRingStep cluster s
  | .captureRelease cluster stop => Sys2Proof.Machine.execCaptureRelease cluster stop s
  | .holdEnd cluster hold => Sys2Proof.Machine.execHoldEnd cluster hold s
  | .captureExpiry squad split => Sys2Proof.Machine.execCaptureExpiry squad split s
  | .starvation core => Sys2Proof.Machine.execStarvation core s
  | .launch vf iface slot blk => Sys2Proof.Machine.execLaunch vf iface slot blk s
  | .gangClaim die launch => Sys2Proof.Machine.execGangClaim die launch s
  | .gangAdmission die launch => Sys2Proof.Machine.execGangAdmission die launch s
  | .coopAdmission launch => Sys2Proof.Machine.execCoopAdmission launch s
  | .wakeInterrupt vf iface vector => Sys2Proof.Machine.execWakeInterrupt vf iface vector s
  | .svcTimeout squad op => Sys2Proof.Machine.execSvcTimeout squad op s
  | .serviceReply vf iface value idx => Sys2Proof.Machine.execServiceReply vf iface value idx s
  | .gangHalt gang cause => Sys2Proof.Machine.execGangHalt gang cause s
  | .releaseLogDrain core ctx => Sys2Proof.Machine.execReleaseLogDrain core ctx s
  | .imageCommit gang => Sys2Proof.Machine.execImageCommit gang s
  | .gangRestore gang => Sys2Proof.Machine.execGangRestore gang s
  | .promotionRequest squad op => Sys2Proof.Machine.execPromotionRequest squad op s
  | .eagerPromotion core => Sys2Proof.Machine.execEagerPromotion core s
  | .noResidentDrain core ctx => Sys2Proof.Machine.execNoResidentDrain core ctx s
  | .routerArrival gang n => Sys2Proof.Machine.execRouterArrival gang n s
  | .intervalStart => Sys2Proof.Machine.execIntervalStart s
  | .dsbPin ctx die entry => Sys2Proof.Machine.execDsbPin ctx die entry s
  | .railClockLower die rail => Sys2Proof.Machine.execRailClockLower die rail s
  | .hbmRetrainEnd stack => Sys2Proof.Machine.execHbmRetrainEnd stack s
  | .bidClose => Sys2Proof.Machine.execBidClose s
  | .clearingComplete => Sys2Proof.Machine.execClearingComplete s
  | .leaseNotice => Sys2Proof.Machine.execLeaseNotice s
  | .indexRecordReceive pkg seq prices => Sys2Proof.Machine.execIndexRecordReceive pkg seq prices s
  | .thermalLimit die => Sys2Proof.Machine.execThermalLimit die s
  | .powerInputFault => Sys2Proof.Machine.execPowerInputFault s
  | .uncorrectableError ctx addr => Sys2Proof.Machine.execUncorrectableError ctx addr s
  | .linkCrcFailure die lane => Sys2Proof.Machine.execLinkCrcFailure die lane s
  | .hbmLinkTagFailure stack again ctx addr => Sys2Proof.Machine.execHbmLinkTagFailure stack again ctx addr s
  | .hbmLinkRekey stack => Sys2Proof.Machine.execHbmLinkRekey stack s
  | .podLinkDown link => Sys2Proof.Machine.execPodLinkDown link s
  | .functionLevelReset vf => Sys2Proof.Machine.execFunctionLevelReset vf s
  | .scrubPage die => Sys2Proof.Machine.execScrubPage die s
  | .sessionCreate vf iface key grace period => Sys2Proof.Machine.execSessionCreate vf iface key grace period s
  | .rekey vf iface => Sys2Proof.Machine.execRekey vf iface s
  | .heartbeat vf iface => Sys2Proof.Machine.execHeartbeat vf iface s
  | .heartbeatTimeout vf iface => Sys2Proof.Machine.execHeartbeatTimeout vf iface s
  | .graceExpiry vf iface => Sys2Proof.Machine.execGraceExpiry vf iface s
  | .importCmd vf iface seq src dst len => Sys2Proof.Machine.execImportCmd vf iface seq src dst len s
  | .exportCmd vf iface seq src dst len => Sys2Proof.Machine.execExportCmd vf iface seq src dst len s
  | .submitDropped vf iface launch => Sys2Proof.Machine.execSubmitDropped vf iface launch s
  | .attestationReport vf iface nonce => Sys2Proof.Machine.execAttestationReport vf iface nonce s
  | .invs1 win vf iface base len => Sys2Proof.Machine.execInvs1 win vf iface base len s
  | .invs1all win vf iface => Sys2Proof.Machine.execInvs1all win vf iface s
  | .invs2 win vf base len => Sys2Proof.Machine.execInvs2 win vf base len s
  | .invs2all win vf => Sys2Proof.Machine.execInvs2all win vf s
  | .suspend win launch auth => Sys2Proof.Machine.execSuspend win launch auth s
  | .resume win launch auth => Sys2Proof.Machine.execResume win launch auth s
  | .endCmd win launch => Sys2Proof.Machine.execEndCmd win launch s
  | .ckpt win vf dst size => Sys2Proof.Machine.execCkpt win vf dst size s
  | .restore win vf list count => Sys2Proof.Machine.execRestore win vf list count s
  | .keyload win slot addr => Sys2Proof.Machine.execKeyload win slot addr s
  | .keydestroy win slot => Sys2Proof.Machine.execKeydestroy win slot s
  | .retire win cls unit => Sys2Proof.Machine.execRetire win cls unit s
  | .unknownCommand win code => Sys2Proof.Machine.execUnknownCommand win code s
  | .flashwrite => Sys2Proof.Machine.execFlashwrite s
  | .flashcommit => Sys2Proof.Machine.execFlashcommit s
  | .status => Sys2Proof.Machine.execStatus s
  | .restart => Sys2Proof.Machine.execRestart s
  | .packageStart training => Sys2Proof.Machine.execPackageStart training s
  | .bootWatchdog => Sys2Proof.Machine.execBootWatchdog s
  | .claimReservePush who vf die large v => Sys2Proof.Machine.execClaimReservePush who vf die large v s
  | .claimReservePop who vf die => Sys2Proof.Machine.execClaimReservePop who vf die s
  | .queueConsume off cons => Sys2Proof.Machine.execQueueConsume off cons s
  | .rightsWrite who off v => Sys2Proof.Machine.execRightsWrite who off v s
  | .placeTableWrite who off v => Sys2Proof.Machine.execPlaceTableWrite who off v s
  | .fixedWrite who off v => Sys2Proof.Machine.execFixedWrite who off v s
  | .pmktctlWrite who off v => Sys2Proof.Machine.execPmktctlWrite who off v s
  | .connectionTableWrite who off v => Sys2Proof.Machine.execConnectionTableWrite who off v s
  | .ckctlWrite who off v => Sys2Proof.Machine.execCkctlWrite who off v s
  | .migpolWrite who off v => Sys2Proof.Machine.execMigpolWrite who off v s
  | .vfportWrite who off v => Sys2Proof.Machine.execVfportWrite who off v s
  | .podcfgWrite who off v => Sys2Proof.Machine.execPodcfgWrite who off v s
  | .exportTableWrite who off v => Sys2Proof.Machine.execExportTableWrite who off v s
  | .registerWrite who off v => Sys2Proof.Machine.execRegisterWrite who off v s
  | .clockSwitchEnd die rail => Sys2Proof.Machine.execClockSwitchEnd die rail s
  | .dsbUnpinComplete bank => Sys2Proof.Machine.execDsbUnpinComplete bank s
  | .podLinkUp link => Sys2Proof.Machine.execPodLinkUp link s
  | .authEntryDropped vf iface => Sys2Proof.Machine.execAuthEntryDropped vf iface s

end Sys2Proof.Machine
end

