-- ==== Sys2Proof/Machine/Progress.lean ====
section
/-! DEFINITION. What acts when no word issues and no device step is named: the quarters in turn, and between them one kind of
device work after another (log 2), with the submission queues (R388, R389, R402). -/

namespace Sys2Proof.Machine

/-! ## Submission queues (R388, R389, R401, R402) -/

/-- The next entry of a submission queue, and the state with it consumed. -/
def State.nextEntry (s : State) (off vf : Nat) : Option (List Byte × State) :=
  let ctl := s.reg (off + 8)
  if s.submissionsStopped || !has ctl 63 || decide (11 < bits ctl 51 48) || decide (bits ctl 31 16 = bits ctl 15 0) then none
  else
    let a := bits (s.reg off) 63 6 * 64 + bits ctl 15 0 % ringSize ctl * 64
    some (s.homeBytes 0 (portMemory (s.portOf vf) + a % 2 ^ 44) 64,
      s.setReg (off + 8) (withBits ctl 15 0 ((bits ctl 15 0 + 1) % 65536)))

/-- Perform an entry of KIND 1, 3, 4 or 5 (R225, R332, R388). -/
def State.performEntry (s : State) (ctx : Nat) (b : List Byte) (auth : Bool) : State :=
  let kind := field b 8 1
  let arg := field b 16 8
  if kind = 1 then s.submit ctx (BitVec.ofNat 64 arg)
  else
    match s.launchNamed ctx arg with
    | none => s
    | some (lk, l) =>
      if kind = 3 then s.suspendLaunch lk l else if kind = 4 then s.resumeLaunch lk l auth
      else if kind = 5 then s.endFromOutside lk else s

/-- One entry of an interface's plain queue (R402). -/
def State.plainEntry (s : State) (vf iface : Nat) : State :=
  match s.nextEntry (ifaceBase vf iface + 0x200) vf with
  | none => s
  | some (b, s) =>
    if s.guarded vf iface || !([1, 3, 4, 5].contains (field b 8 1)) then s.dropSubmit vf iface 0
    else s.performEntry (contextKey vf iface (field b 9 1 % 4)) b false

/-- One entry of an interface's authenticated queue (R388, R389). -/
def State.authEntry (s : State) (vf iface : Nat) : State :=
  match if s.queueHalted vf iface then none else s.nextEntry (authQueue vf iface) vf with
  | none => s
  | some (b, s) =>
    let ctx := sessionContext vf iface
    let seq := field b 0 8
    let kind := field b 8 1
    let word := fun (o : Nat) => BitVec.ofNat 64 (field b o 8)
    if !s.guarded vf iface || decide (field b 9 7 ≠ 0) || decide (field b 40 8 ≠ 0) || decide (kind = 0) || decide (7 < kind) ||
        Config.gmac (s.context ctx).submissionKey (seq * 2 ^ 32 + 1) (b.take 48) != b.drop 48 then s.dropAuth vf iface seq
    else
      match s.sequence vf iface seq with
      | (s, false) => s
      | (s, true) =>
        if kind = 6 then s.importData vf iface (word 0) (word 16) (word 24) (word 32)
        else if kind = 7 then s.exportData vf iface (word 0) (word 16) (word 24) (word 32)
        else s.performEntry ctx b true

/-- One entry of each submission queue in use. -/
def State.takeEntries (s : State) : State :=
  let ifs := distinct (s.regs.filterMap fun (e : Nat × DWord) =>
    if isIface e.1 ∧ (inIface e.1 = 0x208 ∨ inIface e.1 = 0x228) then some (ifaceOf e.1) else none)
  ifs.foldl (fun s x => (s.plainEntry x.1 x.2).authEntry x.1 x.2) s

/-! ## The device's own work -/

/-- The oldest outstanding operation of a squad that is the device's to do; a service call waits for its reply (R60, R68). -/
def Squad.oldest (q : Squad) : Option Op :=
  if q.halted then none
  else q.ops.find? fun o => !o.finished && !o.translate && !o.asks && match o.kind with
    | .svc .. => false
    | _ => true

/-- The oldest outstanding operation of a squad is performed (R60, R68). -/
def State.oldestOp (s : State) (k : Nat) : State :=
  match (s.squads.get? k).bind Squad.oldest with
  | none => s
  | some o =>
    match o.kind with
    | .claim .. => s.claimStep k o.id
    | .deposit .. => s.depositArrival k o.id
    | _ => s.performInOrder k o.id

/-- Whether every HBM request of an operation is in budget (R325). -/
def State.opInBudget (s : State) (o : Op) : Bool := o.lanes.all fun l => match l.place with
  | .memory x => !isHbm x.pa || ((x.context.map fun c => s.inBudget c (dieOfPa x.pa)).getD true)
  | _ => true

/-- The oldest operations of the squads in the order in which they are served: those in budget ahead of the others, and the others
in arrival order (R325). -/
def State.serveOrder (s : State) : List Nat :=
  let l : List (Nat × Op) := s.squads.filterMap fun (e : Nat × Squad) => e.2.oldest.map (e.1, ·)
  let late : Tbl Nat := (l.filter fun e => !s.opInBudget e.2).foldl (fun (t : Tbl Nat) e => t.set e.2.id e.1) []
  ((l.filter fun e => s.opInBudget e.2).map (·.1)) ++ late.map (·.2)

/-- The next command of each port of a squad (R219 to R223). -/
def State.serveEngines (s : State) (k : Nat) : State :=
  match s.squads.get? k with
  | none => s
  | some q =>
    if q.halted then s
    else
      let s := [0, 1].foldl (fun s p => match q.nextCommand p with
        | some (_, c) => s.runCommand k p c.code
        | none => s) s
      s.rendezvous k

/-- Collectives that have met run (R220). -/
def State.serveCollectives (s : State) : State :=
  s.dies.foldl (fun s d => (d.2.collectives.map (·.1)).foldl (fun s id => (s.runCollective id 0x20).runCollective id 0x21) s) s

/-- A position of a cluster's ring; captures held too long, holds that may end, and captures of clauses that have not begun in time
end (R256 to R264). -/
def State.serveRing (s : State) (cl : Nat) : State :=
  let s := s.ringStep cl
  let s := (List.range 10).foldl (fun s k => s.releaseCapture cl k) s
  let s := ((s.cluster cl).holds.map fun (h : Nat × Hold) => h.1).foldl (fun s h => s.endHold cl h) s
  ((clusterCores cl).flatMap s.squadsOn).foldl (fun s e => (e.2.splits.map (·.id)).foldl (fun s p => s.expireCapture e.1 p) s) s

/-- The rings move a position once every quarter has been in turn, so that a captured clause can begin within its lap (log 54). -/
def State.serveRings (s : State) (clusters : List Nat) : State :=
  if s.rotor / (2 * 18) % (s.squads.length / 18 + 1) = 0 then clusters.foldl (fun s c => s.serveRing c) s else s

/-- Claims and admissions of every launch that has not ended (R50, R227). -/
def State.serveLaunches (s : State) : State :=
  (s.launches.filter fun l => l.2.ended.isNone).foldl (fun s l =>
    (List.range 8).foldl (fun s d => (s.admitGang d l.1).claimGang d l.1) (s.admitAll l.1)) s

/-- Halted gangs are drained and committed (R290, R338). -/
def State.serveHalted (s : State) : State :=
  (s.gangs.filter fun g => g.2.phase == .halted).foldl (fun s g =>
    ((s.gangCores g.1).foldl (fun s c => s.drainHalted c (s.gangContext g.2)) s).commitGang g.1) s

/-- Saved gangs in the order of their halts (R204). -/
def State.serveSaved (s : State) : State :=
  let l := s.gangs.filter fun g => g.2.phase == .saved
  let order : Tbl Nat := l.foldl (fun (t : Tbl Nat) (g : Nat × Gang) => Tbl.set t g.2.haltOrder g.1) []
  order.foldl (fun s g => match s.gangs.get? g.2 with
    | some x => if x.phase = .saved then s.restoreGang g.2 else s
    | none => s) s

/-- Release logs: full ones, and those of contexts that have left (R286, R290). -/
def State.serveLogs (s : State) : State :=
  (s.cores.map (·.1)).foldl (fun s c =>
    ((distinct ((s.core c).log.map (·.context))).foldl (fun s x => s.drainAbsent c (4 * x)) (s.eagerPromote c))) s

/-- Pins, swept ways, rails, stacks and link keys (R272, R273, R317, R320, R382). -/
def State.serveDies (s : State) : State :=
  let s := (s.fabric.pins.filter (·.leaving)).foldl (fun s p => (s.unpin p.bank).resumed s) s
  let s := (s.fabric.pins.filter fun p => !p.leaving && !p.home).foldl
    (fun s p => (s.pinRegion p.context (p.bank / 64) p.entry).resumed s) s
  let s := s.sweepWays
  let s := s.dies.foldl (fun s d => (List.range 4).foldl (fun s r => (s.switchEnd d.1 r).lowerClock d.1 r) s) s
  (List.range 16).foldl (fun s x => (s.retrainEnd x).resumed s) s.rekeyLinks

/-- The interval goes on (R361). -/
def State.serveMarket (s : State) : State :=
  if s.market.noticed || s.market.lateNoticed then s.intervalStart
  else if s.market.cleared || !s.market.late.isEmpty then s.notice
  else if s.market.closed then s.clearing
  else s.bidClose

/-- Hot ranges are claimed where a moved context has been restored (R352). -/
def State.serveMoves (s : State) : State :=
  s.contexts.foldl (fun s c => c.2.arrived.foldl (fun s d => s.claimAfterMove c.1 d) s) s

/-- The kinds of device work, one after another. -/
def State.deviceWork (s : State) (n : Nat) : State :=
  let squads := s.squads.map fun (e : Nat × Squad) => e.1
  let cores := distinct (s.squads.map fun (e : Nat × Squad) => e.2.core)
  match n with
  | 0 => s.dies.foldl (fun s d => s.tableWalk d.1) s
  | 1 => s.serveOrder.foldl (fun s k => s.oldestOp k) s
  | 2 => (squads.foldl (fun s k => s.serveEngines k) s).serveCollectives
  | 3 => cores.foldl (fun s c => (s.firstUse c).yieldSlot c) s
  | 4 => s.serveRings (distinct (cores.map clusterOf ++ (s.clusters.filter fun c => decide (0 < c.2.withdraw)).map (·.1)))
  | 5 => s.serveLaunches
  | 6 => s.serveHalted.settleCheckpoints
  | 7 => s.serveSaved
  | 8 => squads.foldl (fun s k => s.replay k) s
  | 9 => ((s.cores.filter fun c => decide (0 < c.2.draining)).foldl (fun s c => s.sectorJoin c.1) s.settleSweeps).dropDrained.serveLogs
  | 10 => s.serveDies.serveChecks.settleInvalidations
  | 11 => s.routerPending.foldl (fun s r => s.routeArrival r.1 r.2) s
  | 12 => s.takeEntries
  | 13 => s.serveMarket
  | 14 => cores.foldl (fun s c => s.starve c) s
  | 15 => (s.wakes.map fun (w : Nat × Nat) => w.1).foldl (fun s w => s.wakeInterrupt (w / 2 ^ 22) (w / 2 ^ 16 % 64) (w % 2 ^ 16)) s
  | 16 => (List.range 8).foldl (fun s d => s.scrub d) s.serveMoves
  | _ => (distinct (s.waiting.map (·.queue))).foldl (fun s q => s.drainWaiting (s.ringAt q) s.waiting) s

/-- Kinds of device work. -/
def workKinds : Nat := 18

/-- With no word to issue: the quarter in turn chooses, or one kind of device work is done, in alternation. -/
def State.proceed (s : State) : State :=
  let s := { s with rotor := s.rotor + 1 }
  if s.rotor % 2 = 1 then s.choose s.turn else s.deviceWork (s.rotor / 2 % workKinds)

end Sys2Proof.Machine
end

