-- ==== Sys2Proof/Machine/Program.lean ====
section
/-! DEFINITION. A program loaded from outside the machine: one clause, on a resident squad that its quarter has chosen
(log 37: what `State.withFetchWord` stands for). -/

namespace Sys2Proof.Machine

/-- Where the clause is placed, as a virtual and as a device-physical address. -/
def programBase : Nat := 0x10000

/-- A one-clause program: a header that names no flags (R22), then a word, with its literal word when it takes one. -/
def programClause (w literal : Word) : Clause :=
  let ws := if literalTaking w then [w, literal] else [w]
  ⟨0xF8000FF0#32 ||| BitVec.ofNat 32 ((ws.length - 1) * 2 ^ 24), ws⟩

/-- The launch of the program: one gang of one team of one squad, with 32 registers and eight tiles. -/
def programLaunch : Launch where
  context := contextKey 0 0 0
  id := 1
  block := 0
  entry := BitVec.ofNat 64 programBase
  accums := 8
  claimed := []
  started := true

/-- The translation of the page that holds the program. -/
def programPage : TlbEntry where
  vf := 0
  iface := 0
  va := programBase
  size := 0x10000
  pa := programBase
  r := true
  w := false
  x := true
  nc := false
  claimable := false
  zp := false
  key := 0
  dirty := false
  leaf2 := 0
  size2 := 0x10000
  leaf1 := 0
  ppa := programBase

/-- The squad of the program, at its clause, with the tokens of the word captured (R261). -/
def programSquad (team : Nat) (c : Clause) (tokens : List (Nat × Nat)) : Squad :=
  { newSquad programLaunch team 0 0 0 0 0 with
    splits := [{ id := 0, pos := position programBase 0, mask := 0xFFFFFFFF#32, clause := some c, tokens, captured := true }] }

/-- A program of one clause is loaded and its squad is chosen: context 0 of interface 0 of partition 0 holds cluster 0, the
code page is mapped, and quarter 0 of core 0 is in turn with the squad's split, so that the next step runs the word. -/
def State.load (s : State) (w literal : Word) : State :=
  let c := programClause w literal
  let lk := s.nextId
  let q := programSquad (lk + 2) c []
  let s : State := { s with
    agenda := []
    powered := true
    turn := 0
    nextId := lk + 4
    launches := s.launches.set lk programLaunch
    gangs := s.gangs.set (lk + 1) { launch := lk, index := 0, ticket := BitVec.ofNat 32 s.tickets, age := s.admissions, cluster := 0, teams := [lk + 2] }
    teams := s.teams.set (lk + 2) { gang := lk + 1, index := 0, core := 0, squads := [lk + 3] }
    squads := s.squads.set (lk + 3) q
    leases := s.leases.set (unitKey 0 0) (contextKey 0 0 0)
    tickets := if s.tickets + 1 < 2 ^ 32 then s.tickets + 1 else 1
    admissions := s.admissions + 1 }
  let s := s.homePuts 0 programBase ((leBytes c.header.toNat 4) ++ (c.words.flatMap fun x => leBytes x.toNat 4))
  let s := s.setCore 0 { s.core 0 with tlb := programPage :: (s.core 0).tlb }
  let s := s.setSquad (lk + 3) (programSquad (lk + 2) c (s.clausePrices q c 0))
  s.onQuarter 0 0 fun x => { x with chosen := some (lk + 3, 0) }

end Sys2Proof.Machine
end

