-- ==== Sys2Proof/Machine/Step.lean ====
section
/-! DEFINITION. One step of the package, and the placing of an instruction where the next step runs it. -/

namespace Sys2Proof.Machine

/-- One step: the device step or host action that comes next; with none, the word that the quarter in turn issues; with
none, the package's own work goes on (log 2). Without power only what is on the agenda happens. -/
def step (s : State) : Host.Outcome State Fault Refusal :=
  match s.agenda with
  | i :: rest => exec i { s with agenda := rest }
  | [] =>
    if s.powered then
      match s.nextWord with
      | some (i, t) => exec i t
      | none => .next s.proceed
    else .fault .powerOff

/-- The instruction of `nbits` bits `w`, bit 0 the least significant of its first word, loaded as the clause that the next
step runs; a literal word that the table gives no bits is 0 (log 37). -/
def State.withFetchWord (s : State) (_nbits w : Nat) : State := s.load (BitVec.ofNat 32 w) (BitVec.ofNat 32 (w / 2 ^ 32))

end Sys2Proof.Machine
end

