-- ==== Sys2Proof/Safety.lean ====
section
/-! DEFINITION. The terms in which claims about Lerolo are stated: when a word issues, what is left when it has taken
effect, when its operands are ready, what a step leaves alone, and the canonical forms that every step keeps. -/

namespace Sys2Proof.Machine

/-! ## Issuing -/

/-- The word `i` issues for `u`: `u` is the issuing split, the encoding is legal (R42), and the tokens that the word
costs fit the ring and are captured (R260, R265); a word with no price needs none. -/
structure Issues (s : State) (i : Instr) (u : Issuer) : Prop where
  issuer : s.issuer = some u
  legal : i.wf = true
  fits : s.price u.squad i ≤ s.cap (clusterOf u.squad.core)
  paid : s.price u.squad i ≤ u.split.heldFor (indexOf u.split.pos)

/-- The state after the word `i` has taken effect, `t` being the state with its effect: the captured tokens of a priced
word are held (R264), and the split moves as `m` says (R26, R28). -/
def State.taken (s : State) (u : Issuer) (i : Instr) (m : Move) (t : State) : State :=
  if s.price u.squad i = 0 ∧ u.split.heldFor (indexOf u.split.pos) = 0 then State.conclude u (wordsOf i) (.takes m t)
  else
    State.conclude { u with split := { u.split with tokens := u.split.tokens.filter fun x => x.1 != indexOf u.split.pos } }
      (wordsOf i) (.takes m (t.holdTokens u (indexOf u.split.pos) (s.price u.squad i) (some s.nextId)))

/-- The vector names of a word are ready: below the declared count (R197), with no value outstanding (R26, R199), and with
physical registers for the ones that need them (R202). -/
structure NamesReady (s : State) (q : Squad) (names dests : List Nat) : Prop where
  declared : ∀ n ∈ names ++ dests, n < s.regCount q
  arrived : q.awaited &&& nameMask (names ++ dests) = 0
  registers : s.canTake q (dests.filter q.needsNew).length = true

/-! ## What a step leaves alone -/

/-- Everything a squad holds but where its splits stand: its registers, modes, trap registers, operations and queues. -/
def Squad.still (q : Squad) : Squad := { q with splits := [], bench := [], lastServed := none }

/-- Everything a core holds but the turns and the TLBs of its quarters. -/
def Core.still (c : Core) : Core := { c with quarters := Vector.replicate 4 {} }

/-- Everything the state holds but the squads, the cores, the tokens of the rings, whose turn it is, and the counter of
keys. -/
def State.around (s : State) : State := { s with squads := [], cores := [], clusters := [], turn := 0, nextId := 0 }

/-- What a word that touches no memory leaves alone: every byte of memory, scratchpad, operand stack and caches, every other
squad, the teams and the gangs. -/
structure LeavesMemory (s t : State) : Prop where
  mem : t.mem = s.mem
  keys : t.burstKey = s.burstKey
  fabric : t.fabric = s.fabric
  dirty : ∀ c, (t.core c).dirty = (s.core c).dirty
  log : ∀ c, (t.core c).log = (s.core c).log
  tiles : ∀ c, (t.core c).tiles = (s.core c).tiles
  teams : t.teams = s.teams
  gangs : t.gangs = s.gangs
  squads : ∀ k, k ≠ s.cur.squad → t.squads.get? k = s.squads.get? k

/-- A step that places the issuing split: the squad is as `q` but for its splits, the split stands before the clause at `pos`
with a mask and has begun nothing there, and no memory has changed. -/
structure Arrives (s t : State) (u : Issuer) (q : Squad) (pos : DWord) (mask : Mask) : Prop where
  squad : ∃ q' p', t.squads.get? u.key = some q' ∧ q'.still = q.still ∧ q'.split? u.split.id = some p' ∧ p'.pos = pos ∧
    p'.mask = mask ∧ p'.clause = none ∧ p'.wait = none ∧ p'.tokens = []
  rest : LeavesMemory s t

/-- The header that is `o` words from the header of a split's clause (R36), with IDX 0. -/
def branchTarget (p : Split) (o : BitVec 18) : DWord := position ((headerOf p.pos + 4 * o.toInt) % 2 ^ 48).toNat 0

/-- The vote of R82 over some lanes: any, all, none, nall. -/
def voteHolds (m : BitVec 2) (lanes p : Mask) : Prop :=
  match m.toNat with
  | 0 => ∃ k, k < 32 ∧ has lanes k = true ∧ has p k = true
  | 1 => ∀ k, k < 32 → has lanes k = true → has p k = true
  | 2 => ¬ ∃ k, k < 32 ∧ has lanes k = true ∧ has p k = true
  | _ => ∃ k, k < 32 ∧ has lanes k = true ∧ has p k = false

/-! ## Scalar words (R77, R79) -/

/-- The signed quotient of R77 and R78. -/
def signedQuotient (x y : DWord) : DWord :=
  if y = 0 then 0xFFFFFFFFFFFFFFFF#64
  else if x = 0x8000000000000000#64 ∧ y = 0xFFFFFFFFFFFFFFFF#64 then 0x8000000000000000#64
  else BitVec.ofInt 64 (x.toInt.tdiv y.toInt)

/-- The results of R77 for the values of slots A and B. -/
def scalarResults (x y : DWord) : List DWord :=
  [x + y, x - y, x * y, (BitVec.ofInt 128 (x.toInt * y.toInt)).extractLsb' 64 64, signedQuotient x y,
   x - y * signedQuotient x y, x &&& y, x ||| y, x ^^^ y,
   x <<< (y.toNat % 64), x >>> (y.toNat % 64), x.sshiftRight (y.toNat % 64),
   if x.toInt ≤ y.toInt then x else y, if x.toInt ≤ y.toInt then y else x,
   if x.toNat ≤ y.toNat then x else y, if x.toNat ≤ y.toNat then y else x,
   if x.toInt < y.toInt then 1 else 0, if x.toNat < y.toNat then 1 else 0, if x = y then 1 else 0]

/-- The words of R77 with slot B, in its order. -/
def scalarWords (d a : BitVec 5) (b : SSrc) : List Instr :=
  [.sadd d a b, .ssub d a b, .smul d a b, .smulh d a b, .sdiv d a b, .srem d a b, .sand d a b, .sor d a b, .sxor d a b,
   .sshl d a b, .sshr d a b, .ssar d a b, .smin d a b, .smax d a b, .sminu d a b, .smaxu d a b, .sslt d a b, .ssltu d a b,
   .sseq d a b]

/-- The immediate words of R77, in its order. -/
def scalarImmediates (d a : BitVec 5) (i : BitVec 9) : List Instr :=
  [.saddI d a i, .ssubI d a i, .smulI d a i, .smulhI d a i, .sdivI d a i, .sremI d a i, .sandI d a i, .sorI d a i,
   .sxorI d a i, .sshlI d a i, .sshrI d a i, .ssarI d a i, .sminI d a i, .smaxI d a i, .sminuI d a i, .smaxuI d a i,
   .ssltI d a i, .ssltuI d a i, .sseqI d a i]

/-- The value of a scalar slot B that is a register or a literal, none for a port (R32, R33). -/
def Squad.plainB (q : Squad) : SSrc → Option DWord
  | .reg r => if r.toNat < 28 then some (q.sreg r.toNat) else none
  | .lit w => some (w.signExtend 64)
  | .bad _ => none

/-! ## MODE and XP (R37 to R39, R88) -/

/-- What each word that writes MODE leaves in it (R88), from the old value. -/
def modeWords (m : Word) (lit : Word) (n : BitVec 1) (g : BitVec 3) (t r : BitVec 4) (f x : BitVec 1) (w sc : BitVec 3) :
    List (Instr × Word) :=
  [(.setm lit, lit), (.setg n g, m.extractLsb' 4 28 ++ n ++ g),
   (.sett t, m.extractLsb' 8 24 ++ t ++ m.extractLsb' 0 4),
   (.setr r f x, m.extractLsb' 14 18 ++ f ++ x ++ r ++ m.extractLsb' 0 8),
   (.setw w, m.extractLsb' 17 15 ++ w ++ m.extractLsb' 0 14),
   (.setd sc, m.extractLsb' 20 12 ++ sc ++ m.extractLsb' 0 17)]

/-- The special registers of the squad that read without moving anything, and their values (R90, R94). -/
def plainSpecials (s : State) (q : Squad) : List (BitVec 12 × DWord) :=
  [(0x000, q.mode.setWidth 64), (0x001, q.xp.setWidth 64), (0x002, q.fstat.setWidth 64), (0x010, q.tvec), (0x011, q.tpc),
   (0x012, BitVec.ofBool q.active ++ 0#57 ++ q.tcause), (0x013, q.tval), (0x014, q.tmask), (0x020, q.arrv),
   (0x030, BitVec.ofNat 64 q.sq), (0x031, BitVec.ofNat 64 (((s.teamOf q).map (·.index)).getD 0)),
   (0x032, BitVec.ofNat 64 (((s.gangOf q).map (·.index)).getD 0)),
   (0x033, BitVec.ofNat 64 (((s.launchOf q).map (·.id)).getD 0)),
   (0x034, BitVec.ofNat 64 (((s.launchOf q).map (·.squads)).getD 1)), (0x100, 0x0100)]

/-- The special registers of the machine that read without moving anything, and their values for a squad (R90, R258, R259, R357, R367,
R410, R417): the price table, RING of the cluster, the market by logical die, the purse and the bids, what the notices say, and the
capability registers. A logical die that the place table does not map reads 0. -/
def machineSpecials (s : State) (q : Squad) : List (Nat × Nat) :=
  let ctx := s.contextOf q
  let state := s.railState (clusterOf q.core)
  let rail := (s.die (dieOf q.core)).railOf.getD (clusterOf q.core % 20) 0
  let onDie := fun (l : Nat) (f : Nat → Nat) => match s.physDie? ctx l with
    | some d => f d
    | none => 0
  let told := fun (d : Nat) => if s.market.late.contains d then s.market.lateNoticed else s.market.noticed
  let loses := fun (b : Nat) => (s.physDie? ctx (b % 8)).any fun d =>
    told d && decide (s.unitsNext ctx (b / 8) d < s.unitsHeld ctx (b / 8) d)
  [(0x060, 0), (0x061, 24), (0x062, 27), (0x063, 30), (0x064, 4 + 4 * 2 ^ 16), (0x065, 2 + 4 * 2 ^ 16), (0x066, 4 + 16 * 2 ^ 16),
   (0x067, 6), (0x068, 8)] ++
  ((List.range 22).map fun i => (0x069 + i, 0)) ++
  [(0x07F, [4095, 3200, 2400, 1600].getD state 1600 + state * 2 ^ 12 + rail * 2 ^ 16),
   (0x0D0, (s.reg (purseIface (contextVf ctx) (contextIface ctx))).toNat % 2 ^ 32),
   (0x0E1, if s.market.noticed || s.market.lateNoticed then 2 ^ 63 + (((List.range 40).filter loses).map fun b => 2 ^ b).sum else 0),
   (0x109, s.market.pod.toNat), (0x10A, s.market.length)] ++
  ((List.range 5).map fun c => (0x0D8 + c, (at' (s.context ctx).bids c 0).toNat)) ++
  ((List.range 40).map fun b => (0x080 + b, onDie (b % 8) fun d =>
    match s.market.spot.getD ((contextVf ctx * 5 + b / 8) * 8 + d) (0, 0) with
    | (price, sold) => price % 2 ^ 32 + sold % 2 ^ 16 * 2 ^ 32)) ++
  ((List.range 40).map fun b => (0x0A8 + b, onDie (b % 8) (s.unitsHeld ctx (b / 8)))) ++
  ((List.range 8).map fun l => (0x101 + l, match dieIn (s.context ctx).dies l with
    | some d => ((List.range 5).map fun c => s.inService c d * 2 ^ (8 * c)).sum
    | none => 0)) ++
  ((List.range 245).map fun i => (0x10B + i, 0))

/-- The squad after SWR of a special register of its own, under the access codes of R39, R94, R123 and R209. -/
def writtenSpecials (q : Squad) (v : DWord) : List (BitVec 12 × Squad) :=
  [(0x001, { q with xp := v.setWidth 32 &&& 0x7FFF7FFF#32 }), (0x002, { q with fstat := v.setWidth 5 }),
   (0x010, { q with tvec := 0#16 ++ v.extractLsb' 2 46 ++ 0#2 }), (0x011, { q with tpc := 0#13 ++ v.extractLsb' 2 49 ++ 0#2 }),
   (0x012, { q with tcause := v.setWidth 6 }), (0x013, { q with tval := v }),
   (0x014, { q with tmask := q.tmask.extractLsb' 32 32 ++ v.extractLsb' 0 32 }), (0x020, { q with arrv := v })]

/-! ## Vector words -/

/-- What a word that writes vector lanes leaves (R110, R121, R123, R199, R200): the sticky flags, the stochastic state when it
has advanced, the released names, and the destination's lanes. -/
def State.lanesWritten (s : State) (u : Issuer) (rels : List Nat) (d : Nat) (wide advance : Bool) (lanes : Mask)
    (f : Nat → LaneOut) : State :=
  let q := { u.squad with
    fstat := u.squad.fstat ||| laneFlags lanes f
    rng := if advance ∧ u.squad.rm = 5 then rngNext u.squad.rng else u.squad.rng }
  let w := if wide then [(d, fun i => (f i).lo), (d + 1, fun i => (f i).hi)] else [(d, fun i => (f i).lo)]
  { s.setSquad u.key (q.commit s.nextId rels w lanes) with nextId := s.nextId + 2 }

/-- The names that a word with destination `d` writes (R197). -/
def destNames (d : Nat) (wide : Bool) : List Nat := if wide then [d, d + 1] else [d]

/-- A word that computes each element of D from those of A and B, and the old one of D (R122, R125). -/
structure ElementWord where
  instr : Instr
  a : Operand
  b : Operand
  /-- The element types of R122. -/
  legal : Nat → Bool
  /-- Whether it rounds a float type (R110). -/
  rounds : Bool
  /-- Element mode, old element, elements of A and B, draw. -/
  op : ElemMode → Nat → Nat → Nat → Nat → Elem

/-- The words of R125 to R134 that act on elements, with slot B. -/
def elementWords (q : Squad) (d : BitVec 5) (a b : VSrc) : List ElementWord :=
  let x := q.operand false a
  let y := q.operand true b
  [⟨.vadd d a b, x, y, legalArith, true, fun e _ x y z => e.add x y z⟩,
   ⟨.vsub d a b, x, y, legalArith, true, fun e _ x y z => e.sub x y z⟩,
   ⟨.vmul d a b, x, y, legalArith, true, fun e _ x y z => e.mul x y z⟩,
   ⟨.vmad d a b, x, y, legalArith, true, fun e d x y z => e.fma false false d x y z⟩,
   ⟨.vmsb d a b, x, y, legalArith, true, fun e d x y z => e.fma true false d x y z⟩,
   ⟨.vnmad d a b, x, y, legalArith, true, fun e d x y z => e.fma false true d x y z⟩,
   ⟨.vmulh d a b, x, y, isInt, false, fun e _ x y _ => e.mulh x y⟩,
   ⟨.vmin d a b, x, y, legalArith, false, fun e _ x y _ => e.minMax false x y⟩,
   ⟨.vmax d a b, x, y, legalArith, false, fun e _ x y _ => e.minMax true x y⟩,
   ⟨.vabs d b, noOperand, y, legalArith, false, fun e _ _ y _ => e.abs y⟩,
   ⟨.vneg d b, noOperand, y, legalArith, false, fun e _ _ y _ => e.neg y⟩,
   ⟨.vand d a b, x, y, legalArith, false, fun _ _ x y _ => ⟨x &&& y, 0⟩⟩,
   ⟨.vor d a b, x, y, legalArith, false, fun _ _ x y _ => ⟨x ||| y, 0⟩⟩,
   ⟨.vxor d a b, x, y, legalArith, false, fun _ _ x y _ => ⟨x ^^^ y, 0⟩⟩,
   ⟨.vnot d b, noOperand, y, legalArith, false, fun e _ _ y _ => ⟨2 ^ e.width - 1 - y, 0⟩⟩,
   ⟨.vshl d a b, x, y, isInt, false, fun e _ x y _ => e.shl x y⟩,
   ⟨.vshr d a b, x, y, isInt, false, fun e _ x y _ => e.shr x y⟩,
   ⟨.vrol d a b, x, y, isInt, false, fun e _ x y _ => e.rol x y⟩,
   ⟨.vclz d b, noOperand, y, isInt, false, fun e _ _ y _ => ⟨leadingZeros e.width y, 0⟩⟩,
   ⟨.vpopc d b, noOperand, y, isInt, false, fun e _ _ y _ => ⟨onesOf e.width y, 0⟩⟩,
   ⟨.vbrev d b, noOperand, y, isInt, false, fun e _ _ y _ => ⟨bitReverse e.width y, 0⟩⟩,
   ⟨.vrnd d a, x, noOperand, legalFloat, true, fun e _ x _ z => e.integral x z⟩,
   ⟨.vrcp d b, noOperand, y, legalFloat, true, fun e _ _ y z => e.float (fun f => f.div e.round f.one y z) y⟩,
   ⟨.vrsq d b, noOperand, y, legalFloat, true, fun e _ _ y z => e.float (fun f => f.rsqrt e.round y z) y⟩,
   ⟨.vsqrt d b, noOperand, y, legalFloat, true, fun e _ _ y z => e.float (fun f => f.sqrt e.round y z) y⟩,
   ⟨.vdiv d a b, x, y, legalFloat, true, fun e _ x y z => e.float (fun f => f.div e.round x y z) y⟩,
   ⟨.vexp2 d b, noOperand, y, legalFaithful, false, fun e _ _ y _ => e.float (fun f => f.exp2 e.et y e.round.ftz) y⟩,
   ⟨.vlog2 d b, noOperand, y, legalFaithful, false, fun e _ _ y _ => e.float (fun f => f.log2 e.et y e.round.ftz) y⟩,
   ⟨.vsin d b, noOperand, y, legalFaithful, false, fun e _ _ y _ => e.float (fun f => f.sin e.et y e.round.ftz) y⟩,
   ⟨.vcos d b, noOperand, y, legalFaithful, false, fun e _ _ y _ => e.float (fun f => f.cos e.et y e.round.ftz) y⟩,
   ⟨.vtanh d b, noOperand, y, legalFaithful, false, fun e _ _ y _ => e.float (fun f => f.tanh e.et y e.round.ftz) y⟩]

/-- The same words with an immediate in slot B. -/
def elementImmediates (q : Squad) (d : BitVec 5) (a : VSrc) (i : BitVec 9) : List ElementWord :=
  let x := q.operand false a
  let y := q.immediate i
  [⟨.vaddI d a i, x, y, legalArith, true, fun e _ x y z => e.add x y z⟩,
   ⟨.vsubI d a i, x, y, legalArith, true, fun e _ x y z => e.sub x y z⟩,
   ⟨.vmulI d a i, x, y, legalArith, true, fun e _ x y z => e.mul x y z⟩,
   ⟨.vmadI d a i, x, y, legalArith, true, fun e d x y z => e.fma false false d x y z⟩,
   ⟨.vmsbI d a i, x, y, legalArith, true, fun e d x y z => e.fma true false d x y z⟩,
   ⟨.vnmadI d a i, x, y, legalArith, true, fun e d x y z => e.fma false true d x y z⟩,
   ⟨.vmulhI d a i, x, y, isInt, false, fun e _ x y _ => e.mulh x y⟩,
   ⟨.vminI d a i, x, y, legalArith, false, fun e _ x y _ => e.minMax false x y⟩,
   ⟨.vmaxI d a i, x, y, legalArith, false, fun e _ x y _ => e.minMax true x y⟩,
   ⟨.vabsI d i, noOperand, y, legalArith, false, fun e _ _ y _ => e.abs y⟩,
   ⟨.vnegI d i, noOperand, y, legalArith, false, fun e _ _ y _ => e.neg y⟩,
   ⟨.vandI d a i, x, y, legalArith, false, fun _ _ x y _ => ⟨x &&& y, 0⟩⟩,
   ⟨.vorI d a i, x, y, legalArith, false, fun _ _ x y _ => ⟨x ||| y, 0⟩⟩,
   ⟨.vxorI d a i, x, y, legalArith, false, fun _ _ x y _ => ⟨x ^^^ y, 0⟩⟩,
   ⟨.vnotI d i, noOperand, y, legalArith, false, fun e _ _ y _ => ⟨2 ^ e.width - 1 - y, 0⟩⟩,
   ⟨.vshlI d a i, x, y, isInt, false, fun e _ x y _ => e.shl x y⟩,
   ⟨.vshrI d a i, x, y, isInt, false, fun e _ x y _ => e.shr x y⟩,
   ⟨.vrolI d a i, x, y, isInt, false, fun e _ x y _ => e.rol x y⟩]

/-- The compares of R129 that a relation, an operand A and an operand B make. -/
def compareWords (q : Squad) (m : BitVec 2) (p : BitVec 3) (a b : VSrc) (i : BitVec 9) : List (Instr × Rel × Operand) :=
  let y := q.operand true b
  let z := q.immediate i
  [(.vceq m p a b, .eq, y), (.vcne m p a b, .ne, y), (.vclt m p a b, .lt, y), (.vcle m p a b, .le, y), (.vcgt m p a b, .gt, y),
   (.vcge m p a b, .ge, y), (.vcun m p a b, .un, y), (.vceqI m p a i, .eq, z), (.vcneI m p a i, .ne, z), (.vcltI m p a i, .lt, z),
   (.vcleI m p a i, .le, z), (.vcgtI m p a i, .gt, z), (.vcgeI m p a i, .ge, z)]

/-- A compare of one lane (R129): NE and UN hold when some element does, the others when every element does. -/
def compareLane (q : Squad) (r : Rel) (a b : Operand) (i : Nat) : Bool :=
  let one := fun (j : Nat) =>
    (q.elemMode.compare r (elemAt q.et (a.src.lo i) (a.src.hi i) j) (elemAt q.et (b.src.lo i) (b.src.hi i) j)).1
  if r = .ne ∨ r = .un then (List.range (perLane q.et)).any one else (List.range (perLane q.et)).all one

/-- The exceptions of a compare, from active lanes only (R123, R129). -/
def compareFlags (q : Squad) (r : Rel) (lanes : Mask) (a b : Operand) : Flags :=
  (lanesIn lanes).foldl (fun acc i => (List.range (perLane q.et)).foldl (fun acc j => acc |||
    (q.elemMode.compare r (elemAt q.et (a.src.lo i) (a.src.hi i) j) (elemAt q.et (b.src.lo i) (b.src.hi i) j)).2) acc) 0

/-- One lane of an element word: the elements of D, A and B to the elements of the result, with a draw for each. -/
def ElementWord.lane (e : ElementWord) (q : Squad) (d i : Nat) : LaneOut :=
  laneOut q.et fun j =>
    e.op q.elemMode (elemAt q.et (Machine.lane (q.vreg d) i) (Machine.lane (q.vreg (d + 1)) i) j)
      (elemAt q.et (e.a.src.lo i) (e.a.src.hi i) j) (elemAt q.et (e.b.src.lo i) (e.b.src.hi i) j) (drawOf q.rng (4 * i + j))

/-- A word that writes vector lanes from a function of its own: the names it reads and releases, whether its encoding is legal
under MODE.ET, the lanes it writes, whether it advances the stochastic state, and the result of each lane. -/
structure LaneCase where
  instr : Instr
  names : List Nat
  rels : List Nat
  legal : Bool
  wide : Bool
  advance : Bool
  lanes : Mask
  out : Nat → LaneOut

/-- Elements of a lane from `first` on, converted, in place of those of the old lane (R131). -/
def convertedLane (q : Squad) (d src from_ to_ n : Nat) (a : VSrc) (i : Nat) : LaneOut :=
  let x := q.src src false a
  laneOut q.et fun j =>
    if to_ ≤ j ∧ j < to_ + n then
      convert src q.et ⟨q.rm, q.ftz, false⟩ q.sat (elemAt src (x.lo i) (x.hi i) (from_ + (j - to_))) (drawOf q.rng (4 * i + (j - to_)))
    else ⟨elemAt q.et (lane (q.vreg d) i) (lane (q.vreg (d + 1)) i) j, 0⟩

/-- The reduction of R140 and R143 in one lane, over the lanes of its segment from `start` on that are active and satisfy
`among`. -/
def reducedLane (q : Squad) (lanes : Mask) (op start : Nat) (among : Nat → Bool) (a : Operand) (i : Nat) : LaneOut :=
  laneOut q.et fun j =>
    q.elemMode.treeElem ((q.elemMode.tree op ((List.range q.segWidth).map fun k =>
      if start + k < q.base i + q.segWidth ∧ has lanes (start + k) ∧ among (start + k) then
        some (q.elemMode.treeVal (elemAt q.et (a.src.lo (start + k)) (a.src.hi (start + k)) j))
      else none)).getD (q.elemMode.identity op))

/-- The words of R130 to R133, R138 to R143 and R206 that write lanes, with what each lane receives. -/
def laneCases (u : Issuer) (d : BitVec 5) (a b : VSrc) (sc o : BitVec 4) (p : BitVec 3) (e : BitVec 1) : List LaneCase :=
  let q := u.squad
  let w := isWide q.et
  let x := q.operand false a
  let y := q.operand true b
  let xy := x.names ++ y.names
  let rel := x.rels ++ y.rels
  let n := (q.src 5 true b).lo
  let even := !w || decide (d.toNat % 2 = 0)
  let reduces := legalReduce o.toNat q.et && !x.odd && even
  let plan := (cvtPlan sc.toNat q.et p.toNat).getD (0, 0, 0)
  let pp := q.pred p.toNat
  let z := q.src 5 false a
  [⟨.vcvt d a sc p, a.names (isWide sc.toNat), a.released (isWide sc.toNat),
      (cvtPlan sc.toNat q.et p.toNat).isSome && !a.odd (isWide sc.toNat) && even, w, !isInt sc.toNat || !isInt q.et, u.lanes,
      convertedLane q d.toNat sc.toNat plan.2.1 plan.2.2 plan.1 a⟩,
   ⟨.vscl d a b, xy, rel, legalFloat q.et && !x.odd && !y.odd && even, w, true, u.lanes, fun i => laneOut q.et fun j =>
      q.elemMode.scale (elemAt q.et (x.src.lo i) (x.src.hi i) j) (n i).toInt (drawOf q.rng (4 * i + j))⟩,
   ⟨.vsel d a b, xy, rel, !x.odd && !y.odd && even, w, false, u.split.mask, fun i =>
      if has q.guard i then ⟨x.src.lo i, x.src.hi i, 0⟩ else ⟨y.src.lo i, y.src.hi i, 0⟩⟩,
   ⟨.vmov d b, y.names, y.rels, !y.odd && even, w, false, u.lanes, fun i => ⟨y.src.lo i, y.src.hi i, 0⟩⟩,
   ⟨.vshf d a b, xy, rel, !x.odd && !y.odd && even, w, false, u.lanes, fun i =>
      let k := q.base i + (n i).toNat % q.segWidth
      ⟨x.src.lo k, x.src.hi k, 0⟩⟩,
   ⟨.vbal d p, [], [], true, false, false, u.lanes, fun i => ⟨q.ballot u.lanes pp i, 0, 0⟩⟩,
   ⟨.rwalk d a b, a.names false ++ b.names false, a.released false ++ b.released false, true, false, false, u.lanes, fun i =>
      ⟨q.walkRow z.lo i (n i + BitVec.ofNat 32 (i - q.base i)), 0, 0⟩⟩,
   ⟨.vrdc d a o, x.names, x.rels, reduces, w, false, u.lanes, fun i =>
      reducedLane q u.lanes o.toNat (q.base i) (fun _ => true) x i⟩,
   ⟨.vscn d a e o, x.names, x.rels, reduces, w, false, u.lanes, fun i =>
      reducedLane q u.lanes o.toNat (q.base i) (fun k => decide (k < i) || (k == i && e == 0#1)) x i⟩,
   ⟨.vsred d a p o, x.names, x.rels, reduces, w, false, u.lanes, fun i =>
      reducedLane q u.lanes o.toNat (q.runStart pp i) (fun k => q.runStart pp k == q.runStart pp i) x i⟩]

/-- The words that write a predicate from predicates and a scalar (R136, R138), and the value of each lane. -/
def predicateWords (u : Issuer) (d a b : BitVec 3) (m : BitVec 2) : List (Instr × (Nat → Bool)) :=
  let q := u.squad
  let x := q.pred a.toNat
  let y := q.pred b.toNat
  let seg := fun (i k : Nat) => k / q.segWidth == i / q.segWidth && has u.lanes k
  [(.pand d a b, fun i => has x i && has y i), (.por d a b, fun i => has x i || has y i),
   (.pxor d a b, fun i => has x i != has y i), (.pandn d a b, fun i => has x i && !has y i), (.pnot d a, fun i => !has x i),
   (.vote m d a, fun i =>
      let any := (List.range 32).any fun k => seg i k && has x k
      let nall := (List.range 32).any fun k => seg i k && !has x k
      if m = 0 then any else if m = 1 then !nall else if m = 2 then !any else nall)]

/-! ## Memory words -/

/-- A word that accesses memory lane by lane: its access size, and the operation it becomes. -/
structure AccessWord where
  instr : Instr
  size : Nat
  word : MemWord

/-- The loads and stores of R188, R190 and R285: each active lane whose guard passes accesses `s[A]` plus its offset, or one
access is made for the squad; a load of `size` bytes returns to D, a store takes its bytes from D. -/
def globalWords (u : Issuer) (d a : BitVec 5) (sc : BitVec 3) (o : VSrc) : List AccessWord :=
  let q := u.squad
  let va := q.addresses a o
  let load := fun (i : Instr) (n : Nat) =>
    loadOp i n (q.scope sc) 0 d o (accessLanes u.lanes va (fun _ => untranslated) fun _ => [])
  let store := fun (i : Instr) (n : Nat) =>
    storeOp i n (q.scope sc) 1 d o (accessLanes u.lanes va (fun _ => untranslated) fun k => q.laneBytes d.toNat n k)
  let sload := fun (i : Instr) (n : Nat) => ({ op := {
    id := 0, instr := i, pos := 0, kind := .sload d, flag := none, path := some 0, loadClass := true, scope := q.scope sc
    size := n, lanes := [{ lane := 0, va := va 0, place := untranslated }] } } : MemWord)
  let sstore := fun (i : Instr) (n : Nat) => ({ op := {
    id := 0, instr := i, pos := 0, kind := .store, flag := none, path := some 1, loadClass := false, scope := q.scope sc
    size := n
    lanes := [{ lane := 0, va := va 0, place := untranslated, data := leBytes (q.sreg d.toNat).toNat n }] } } : MemWord)
  [⟨.vldB d a sc o, 1, load (.vldB d a sc o) 1⟩, ⟨.vldH d a sc o, 2, load (.vldH d a sc o) 2⟩,
   ⟨.vldW d a sc o, 4, load (.vldW d a sc o) 4⟩, ⟨.vldD d a sc o, 8, load (.vldD d a sc o) 8⟩,
   ⟨.vldQ d a sc o, 16, load (.vldQ d a sc o) 16⟩, ⟨.vldaW d a sc o, 4, load (.vldaW d a sc o) 4⟩,
   ⟨.vldaD d a sc o, 8, load (.vldaD d a sc o) 8⟩, ⟨.vstB d a sc o, 1, store (.vstB d a sc o) 1⟩,
   ⟨.vstH d a sc o, 2, store (.vstH d a sc o) 2⟩, ⟨.vstW d a sc o, 4, store (.vstW d a sc o) 4⟩,
   ⟨.vstD d a sc o, 8, store (.vstD d a sc o) 8⟩, ⟨.vstQ d a sc o, 16, store (.vstQ d a sc o) 16⟩,
   ⟨.vstrW d a sc o, 4, store (.vstrW d a sc o) 4⟩, ⟨.vstrD d a sc o, 8, store (.vstrD d a sc o) 8⟩,
   ⟨.sldB d a sc o, 1, sload (.sldB d a sc o) 1⟩, ⟨.sldH d a sc o, 2, sload (.sldH d a sc o) 2⟩,
   ⟨.sldW d a sc o, 4, sload (.sldW d a sc o) 4⟩, ⟨.sldD d a sc o, 8, sload (.sldD d a sc o) 8⟩,
   ⟨.sstB d a sc o, 1, sstore (.sstB d a sc o) 1⟩, ⟨.sstH d a sc o, 2, sstore (.sstH d a sc o) 2⟩,
   ⟨.sstW d a sc o, 4, sstore (.sstW d a sc o) 4⟩, ⟨.sstD d a sc o, 8, sstore (.sstD d a sc o) 8⟩]

/-- The block words of R189: 32 words in a line, one for each lane; the word carries the check of its block address. -/
def blockWords (u : Issuer) (d a : BitVec 5) (sc : BitVec 3) (o : VSrc) : List AccessWord :=
  let q := u.squad
  let x := q.addresses a o 0
  let va := fun (k : Nat) => x + BitVec.ofNat 64 (4 * k)
  [⟨.vldb d a sc o, 128, { loadOp (.vldb d a sc o) 4 (q.scope sc) 0 d o
      (accessLanes u.lanes va (fun _ => untranslated) fun _ => []) with pre := laneCheck 128 x }⟩,
   ⟨.vstb d a sc o, 128, { storeOp (.vstb d a sc o) 4 (q.scope sc) 1 d o
      (accessLanes u.lanes va (fun _ => untranslated) fun k => q.laneBytes d.toNat 4 k) with pre := laneCheck 128 x }⟩]

/-- The scratchpad words of R155: team scope, path SP, addresses of the team's allocation. -/
def scratchWords (u : Issuer) (d a : BitVec 5) (sc : BitVec 3) (o : VSrc) : List AccessWord :=
  let q := u.squad
  let va := q.addresses a o
  let load := fun (i : Instr) (n : Nat) =>
    loadOp i n 1 2 d o (accessLanes u.lanes va (fun k => .scratch (va k).toNat) fun _ => [])
  let store := fun (i : Instr) (n : Nat) =>
    storeOp i n 1 2 d o (accessLanes u.lanes va (fun k => .scratch (va k).toNat) fun k => q.laneBytes d.toNat n k)
  [⟨.spldB d a sc o, 1, load (.spldB d a sc o) 1⟩, ⟨.spldH d a sc o, 2, load (.spldH d a sc o) 2⟩,
   ⟨.spldW d a sc o, 4, load (.spldW d a sc o) 4⟩, ⟨.spldD d a sc o, 8, load (.spldD d a sc o) 8⟩,
   ⟨.spstB d a sc o, 1, store (.spstB d a sc o) 1⟩, ⟨.spstH d a sc o, 2, store (.spstH d a sc o) 2⟩,
   ⟨.spstW d a sc o, 4, store (.spstW d a sc o) 4⟩, ⟨.spstD d a sc o, 8, store (.spstD d a sc o) 8⟩]

/-- The scratchpad block words of R157. -/
def scratchBlocks (s : State) (u : Issuer) (d a : BitVec 5) (sc : BitVec 3) (o : VSrc) : List AccessWord :=
  let q := u.squad
  let x := q.addresses a o 0
  let va := fun (k : Nat) => x + BitVec.ofNat 64 (4 * k)
  [⟨.spldb d a sc o, 128, { loadOp (.spldb d a sc o) 4 1 2 d o
      (accessLanes u.lanes va (fun k => .scratch (va k).toNat) fun _ => []) with pre := blockCheck (s.scratchSize q) x }⟩,
   ⟨.spstb d a sc o, 128, { storeOp (.spstb d a sc o) 4 1 2 d o
      (accessLanes u.lanes va (fun k => .scratch (va k).toNat) fun k => q.laneBytes d.toNat 4 k) with
      pre := blockCheck (s.scratchSize q) x }⟩]

/-- The window words of R159: cluster scope, path RM; bits [22:20] of an address name a team of the gang, bits [19:0] lie in
its allocation (R158). -/
def windowWords (u : Issuer) (d a : BitVec 5) (sc : BitVec 3) (o : VSrc) : List AccessWord :=
  let q := u.squad
  let va := q.addresses a o
  let at_ := fun (k : Nat) => Place.window (bits (va k) 22 20) (bits (va k) 19 0)
  [⟨.rsld d a sc o, 4, loadOp (.rsld d a sc o) 4 2 3 d o (accessLanes u.lanes va at_ fun _ => [])⟩,
   ⟨.rsst d a sc o, 4, storeOp (.rsst d a sc o) 4 2 3 d o (accessLanes u.lanes va at_ fun k => q.laneBytes d.toNat 4 k)⟩]

/-- The path counter of a word has room (R61). -/
def PathRoom (q : Squad) (p : Option Nat) : Prop := ∀ n, p = some n → q.path n < 63

/-- The state in which a word has become outstanding (R24, R60) and the cycles that its lanes take beyond the first are counted
(R156, R191). -/
def State.launched (s : State) (u : Issuer) (w : MemWord) (ls : List LaneAccess) : State :=
  (s.launchOp u u.squad w ls).tallyLanes u.squad w

/-- Every earlier access of a squad can be performed now: a retraining stack or a passing home holds none back (R273, R283,
R320). -/
def State.canPerform (s : State) (k : Nat) : Prop := (s.performAll k).unperformed k none = false

/-- The atomic words (R298 to R301) under an element type: location size, registers of D read, registers written, and what
the operation is. -/
def atomicWords (q : Squad) (d a o : BitVec 5) (p : BitVec 3) (f z : BitVec 4) : List (Instr × Nat × Nat × Nat × Bool × OpKind) :=
  let n := (atomicWidth f.toNat q.et).getD 4
  let c := 2 ^ z.toNat
  [(.atom d a p o f, n, n / 4, n / 4, true, .atomic f.toNat q.et true d),
   (.ared d a p o f, n, n / 4, 0, false, .atomic f.toNat q.et false d),
   (.acas d a p o z, 4 * c, 2 * c, c, true, .compareSwap d)]

/-! ## Matrix words (R239, R240, R245 to R249) -/

/-- The parts of a matrix word: accumulator name, row half and column half (R246). -/
def matrixParts (wide : Bool) (acc : Nat) : List (Nat × Nat × Nat) :=
  if wide then [(acc, 0, 0), (acc + 1, 0, 1), (acc + 2, 1, 0), (acc + 3, 1, 1)] else [(acc, 0, 0)]

/-- The conditions under which a matrix word issues: the whole squad in one split (R245), names declared, no outstanding
TIDSET of a tensor it names (R218), every check of R240 and R247 passed, the core's tiles of its own context (R255), its
registers arrived, no reader of a tile it updates (R241), room on its sub-arrays (R232), no earlier access that waits (R239),
and fresh tiles for the names that need one. -/
structure MatrixReady (s : State) (u : Issuer) (fresh wide inRegs : Bool) (acc ta tb : Nat) (t : Team) (slots : List Nat) :
    Prop where
  whole : u.split.mask = 0xFFFFFFFF#32 ∧ u.squad.splits.length = 1 ∧ u.squad.bench = []
  names : s.accGate u.squad ((matrixParts wide acc).map (·.1)) = none
  registers : inRegs = true → ∀ k, k < (if wide then 32 else 16) → ta + k < s.regCount u.squad ∧ has u.squad.awaited (ta + k) = false
  tensors : u.squad.tensorBusy tb = false ∧ (inRegs = false → u.squad.tensorBusy ta = false)
  team : s.teamOf u.squad = some t
  validA : inRegs = false → (s.tensor u.squad ta).valid = true ∧ (s.tensor u.squad ta).space = 1
  validB : (s.tensor u.squad tb).valid = true ∧ (s.tensor u.squad tb).space = 2
  pair : (if inRegs then (if (s.tensor u.squad tb).fmt.scaled then 0 else pairClass (s.tensor u.squad tb).fmtCode (s.tensor u.squad tb).fmtCode)
    else pairClass (s.tensor u.squad ta).fmtCode (s.tensor u.squad tb).fmtCode) ≠ 0
  rangeA : inRegs = false → ∀ e ∈ checkA ta (s.scratchSize u.squad) (if wide then 64 else 32) (s.tensor u.squad tb).fmt.kb
    (s.tensor u.squad ta), e.1 = false
  rangeB : ∀ e ∈ checkB tb (s.scratchSize u.squad) (if wide then 64 else 32) (s.tensor u.squad tb).fmt.kb wide
    (s.tensor u.squad tb), e.1 = false
  inPlace : fresh = false → ∀ p ∈ matrixParts wide acc, ∀ x, at' u.squad.accs p.1 none = some x →
    x / 4 = (s.tensor u.squad tb).slice + (s.tensor u.squad tb).col0 / 32 + p.2.2 ∧ u.squad.readersOf [x] = false
  owner : s.ownerGate u.squad = none
  stages : ∀ c, c < (if wide then 2 else 1) →
    ((s.core u.squad.core).subs.getD ((s.tensor u.squad tb).slice + (s.tensor u.squad tb).col0 / 32 + c) []).length < 2
  earlier : s.canPerform u.key
  tiles : s.freshSlots u.key u.squad ((if fresh then matrixParts wide acc
    else (matrixParts wide acc).filter fun p => (at' u.squad.accs p.1 none).isNone).map fun p =>
      (s.tensor u.squad tb).slice + (s.tensor u.squad tb).col0 / 32 + p.2.2) = .ok slots

/-- The three matrix words with their kinds: a word without an incoming value (R245), and a wide one (R246). -/
def matrixWords (sat adv inRegs : BitVec 1) (c : BitVec 3) (ta tb : BitVec 5) : List (Instr × Bool × Bool) :=
  [(.mma sat adv c ta inRegs tb, false, false), (.mmaz sat adv c ta inRegs tb, true, false), (.mmaw sat adv c ta inRegs tb, false, true)]

/-! ## Outstanding operations (R24, R60) -/

/-- The operation `o` of squad `k` is outstanding and nothing comes before it: no earlier access of its squad, no earlier word
on its tiles, no page being swept; and no lane of it waits at a retraining stack or a passing home (R273, R320). -/
structure OpReady (s : State) (k id : Nat) (q : Squad) (o : Op) : Prop where
  found : s.op? k id = some (q, o)
  unique : (q.ops.map fun x => x.id).Nodup
  first : ∀ x ∈ q.ops.takeWhile (fun x => x.id != id), x.finished = true ∨ x.kind.forced = false
  tiles : q.earlierOnTiles id o.kind.tiles = []
  sweeps : s.sweeps = []
  open_ : ∀ l ∈ o.lanes, l.finished = false
  held : s.heldOp o = false

/-- The operation has completed, `q'` being its squad then: its flag is busy only for others, its counter has fallen unless an
older operation of its path is outstanding, its tokens are free, and no other squad has changed (R24, R60, R264). -/
structure Completes (s t : State) (k id : Nat) (q : Squad) (o : Op) (q' : Squad) : Prop where
  squad : t.squads.get? k = some q'
  done : ∀ x ∈ q'.ops, x.id = id → x.finished = true
  flags : ∀ f, f < 12 → has q'.busy f = q.ops.any fun x => !x.finished && x.id != id && x.flag == some f
  counter : (∀ x ∈ q.ops.takeWhile (fun x => x.id != id), o.path = none ∨ x.path ≠ o.path) → ∀ x ∈ q'.ops, x.id ≠ id
  tokens : ∀ h ∈ (t.cluster (clusterOf q.core)).holds, h.2.squad = k → h.2.op ≠ some id
  splits : q'.splits = q.splits
  others : ∀ j, j ≠ k → t.squads.get? j = s.squads.get? j

/-- Bytes written over a map of memory. -/
def overlay (m : Nat → Byte) (a : Nat) (bs : List Byte) : Nat → Byte :=
  fun x => if a ≤ x ∧ x < a + bs.length then bs.getD (x - a) 0 else m x

/-- The device-physical address of a lane's memory place. -/
def LaneAccess.pa (l : LaneAccess) : Nat :=
  match l.place with
  | .memory x => x.pa
  | _ => 0

/-- The team whose scratchpad a lane's place lies in, and the address there (R154, R158, R160). -/
def State.laneTeam (s : State) (q : Squad) (l : LaneAccess) : Option (Nat × Nat) :=
  match l.place with
  | .scratch a => some (q.team, a)
  | .window i a => (s.windowTeam q i).map fun t => (t, a)
  | _ => none

/-- A place lies in the frame that the leaf it was translated by still maps, or belongs to no context: no slice, bank or port refuses
its packets (R379). -/
def State.ownsFrame (s : State) (x : Xlate) : Prop :=
  x.context = none ∨ ((s.homeWord 0 x.leaf).testBit 0 = true ∧ frameOf (s.homeWord 0 x.leaf) ≤ x.pa ∧
    x.pa < frameOf (s.homeWord 0 x.leaf) + x.size)

/-- What a lane reads, where its reading moves no byte: nothing of another partition's frame, so that a free value returns (R379; log
129); zero on a page with ZP set (R183); memory as the scope lets the core see it (R276, R277, R414), at the line that a bank has
recorded for a pinned region (R320): through the slices of the core's L1, with their dirty bytes, where the lines are valid there, or at
the home, where the L1 holds no dirty byte of the lines; or a scratchpad. -/
def State.sees (s : State) (q : Squad) (scope n : Nat) (l : LaneAccess) : Option (List Byte) :=
  match l.place with
  | .memory x =>
    let y := s.homed x
    if s.foreign x then some ((List.range n).map fun i => Config.foreignByte (x.pa + i))
    else if s.zpSet x then some (List.replicate n 0)
    else if scope ≤ 2 ∧ y.nc = false then
      if (linesOf y.pa n).all fun line => ((s.core (s.l1Core q.core (128 * line))).lines.get? line).isSome then
        some ((List.range n).map fun i => (s.dirtyByte (s.l1Core q.core (y.pa + i)) (y.pa + i)).getD (s.homeByte y.key (y.pa + i)))
      else none
    else if (linesOf y.pa n).all fun line => (s.core (s.l1Core q.core (128 * line))).dirty.all fun e => e.1 / 128 != line then
      some (s.homeBytes y.key y.pa n)
    else none
  | .scratch a => (s.teams.get? q.team).map fun t => readBytes t.scratch a n
  | .window i a => ((s.windowTeam q i).bind fun t => s.teams.get? t).map fun t => readBytes t.scratch a n
  | .pod _ => none

/-- Lanes that may read one after another: what one fills drops no line of another, or no region of theirs is pinned and none is
filled. -/
def State.apart (s : State) (ls : List LaneAccess) : Prop := ls.length ≤ 1 ∨ ∀ l ∈ ls, ∀ x, l.place = .memory x → s.pinOf x = none

/-- No L1 holds a dirty byte of the lines that `n` bytes touch, so a write that removes their copies writes none of them home
(R414). -/
def State.cleanLines (s : State) (pa n : Nat) : Prop := ∀ c, ∀ e ∈ (s.core c).dirty, e.1 / 128 ∉ linesOf pa n

/-- A lane's access of `n` bytes is performed at the home of its memory: its scope is wide or its page not cacheable (R277), its
page lies in a frame of its own partition (R379) and has not ZP set, its region is not pinned, and no L1 holds a dirty byte of its
lines. -/
structure AtHome (s : State) (scope n slot : Nat) (l : LaneAccess) (x : Xlate) : Prop where
  place : l.place = .memory x
  key : x.key = slot
  own : s.ownsFrame x
  wide : 2 ≤ scope ∨ x.nc = true
  clear : s.zpSet x = false
  unpinned : s.pinOf x = none
  clean : s.cleanLines x.pa n

/-- A lane's access of `n` bytes is performed in the core's own L1: its page is cacheable, lies in a frame of its own partition (R379)
and has not ZP set, its region is not pinned, its line is valid there (R150), and no other L1 holds a dirty byte of its location. -/
structure InL1 (s : State) (core n slot : Nat) (l : LaneAccess) (x : Xlate) : Prop where
  place : l.place = .memory x
  key : x.key = slot
  own : s.ownsFrame x
  cacheable : x.nc = false
  clear : s.zpSet x = false
  unpinned : s.pinOf x = none
  line : x.pa / 128 = (x.pa + n - 1) / 128
  valid : ((s.core (s.l1Core core x.pa)).lines.get? (x.pa / 128)).isSome = true
  alone : ∀ c, c ≠ s.l1Core core x.pa → ∀ e ∈ (s.core c).dirty, inRange x.pa n e.1 = false

/-- No location of `n` bytes of the lanes shares a burst with the stage-2 leaf of one of them. -/
def ApartFromLeaves (lanes : List LaneAccess) (n : Nat) : Prop :=
  ∀ l ∈ lanes, ∀ l' ∈ lanes, ∀ x, l'.place = .memory x → ∀ a b, inRange l.pa n a = true → inRange x.leaf 8 b = true → a / 64 ≠ b / 64

/-- The bytes that a lane of a store writes: its own, or the element of the tile (R188, R218, R251). -/
def State.laneData (s : State) (q : Squad) (o : Op) (l : LaneAccess) : List Byte :=
  match o.kind with
  | .accStore t => elementBytes (s.tileRow q.core t (l.lane / 32) (l.lane % 32))
  | _ => l.data

/-- A store, by the kind of its operation. -/
def OpKind.storesLanes (k : OpKind) : Prop := k = .store ∨ (∃ n, k = .tidget n) ∨ ∃ t, k = .accStore t

/-- The release of a VSTR has nothing to publish, or the operation is none (R285). -/
def Op.releaseDone (o : Op) (s : State) : Prop :=
  (∀ d a sc v, o.instr ≠ .vstrW d a sc v ∧ o.instr ≠ .vstrD d a sc v) ∨ ∀ c, (s.core c).dirty = []

/-- Atomics at their locations, one after another: what each read, and the memory after all (R294, R298 to R300). -/
def atomicRun (kind : OpKind) (n : Nat) : List (Nat × List Byte) → (Nat → Byte) → List (List Byte) × (Nat → Byte)
  | [], m => ([], m)
  | (a, data) :: ls, m =>
    let old := (List.range n).map fun i => m (a + i)
    let r := atomicRun kind n ls (match atomicBytes kind n old data with
      | some new => overlay m a new
      | none => m)
    (old :: r.1, r.2)

/-- The register that an atomic writes first, none for ARED. -/
def OpKind.atomicDest : OpKind → Option (BitVec 5)
  | .atomic _ _ true d => some d
  | .compareSwap d => some d
  | _ => none

/-- A register group that receives a value of `n` bytes in a lane, where its names are bound (R188, R199). -/
def Squad.holdsValue (q q' : Squad) (d n i v : Nat) : Prop :=
  ∀ j, j < (n + 3) / 4 → (at' q.vregs (d + j) none).isSome = true → lane (q'.vreg (d + j)) i = BitVec.ofNat 32 (v / 2 ^ (32 * j))

/-! ## Engine commands (R219 to R224) -/

/-- The oldest command of a port has the code, waits on no fault, its engine holds tokens or no row is left, and no access of
its squad comes before it. -/
structure CommandReady (s : State) (k port code : Nat) (q : Squad) (i : Nat) (c : Command) : Prop where
  squad : s.squads.get? k = some q
  next : q.nextCommand port = some (i, c)
  code : c.code = code
  noFault : c.fault = none
  earlier : ∀ o ∈ q.ops, o.finished = true ∨ o.kind.forced = false
  sweeps : s.sweeps = []
  running : q.halted = false
  tokens : c.nrows ≤ c.rows ∨ s.blockHeld q k port = true

/-- Rows done one after another from a row on, none where a row stops. -/
def rowsFrom (step : State → Nat → State × Except EngStop Unit) : State → Nat → Nat → Option State
  | s, _, 0 => some s
  | s, r, n + 1 => match step s r with
    | (t, .ok _) => rowsFrom step t (r + 1) n
    | (_, .error _) => none

/-- The command at a place of a squad's port has its record, with a status and rows done. -/
def HasRecord (t : State) (k port i : Nat) (c : Command) (status rows : Nat) : Prop :=
  ∃ q' c', t.squads.get? k = some q' ∧ (at' q'.commands port [])[i]? = some c' ∧ c'.words = c.words ∧
    c'.record = some (c.result status rows)

/-- A step of the copy or gather engine: its port, its code, the status of its checks, and what it does with a part of a row (R220,
R415). -/
def EngineStep (k : Nat) (c : Command) (q : Squad) (limit : Nat) (ix : List Int) (i : Instr) (port code status : Nat)
    (row : State → Nat → RowPart → State × Except EngStop Unit) : Prop :=
  (i = .copy k ∧ port = 0 ∧ code = 0x01 ∧ status = c.copyStatus limit ∧ row = fun s r p => s.copyRow q c r p) ∨
  (i = .stackLoad k ∧ port = 0 ∧ code = 0x02 ∧ status = c.stackStatus limit ∧ row = fun s r p => s.stackRow q c r p) ∨
  (i = .gather k ∧ port = 1 ∧ code = 0x10 ∧ status = c.gatherStatus ∧ row = fun s r p => s.gatherRow q c ix r p) ∨
  (i = .scatter k ∧ port = 1 ∧ code = 0x11 ∧ status = c.gatherStatus ∧ row = fun s r p => s.gatherRow q c ix r p)

/-! ## Squads and gangs -/

/-- An operation of a memory word that has not finished and reaches no window: a halt leaves it as a replay packet (R335). -/
def Op.plainAccess (o : Op) : Prop :=
  o.finished = false ∧ o.isWindow = false ∧
    ((∃ d, o.kind = .vload d) ∨ (∃ d, o.kind = .sload d) ∨ o.kind = .store ∨ (∃ f e r d, o.kind = .atomic f e r d) ∨
      ∃ d, o.kind = .compareSwap d)

/-- A command of a halted squad: it waits on no fault, but its translation comes first where it did, and a row of which only some
blocks are written is written again (R224, R334). -/
def Command.packed (c : Command) : Command :=
  { c with fault := none, translate := c.translate || c.fault.isSome, blocks := 0, upto := 0 }

/-- A squad as R54 creates it: registers from ARGS, the modes of reset, TVEC from the launch, and one split with every lane at
the launch's entry. -/
def freshSquad (l : Launch) (q : Squad) : Prop :=
  (∀ r, 0 < r → r < 28 → q.sreg r = l.args.getD (r - 1) 0) ∧ (∀ r, r < 32 → q.vreg r = zeroLanes) ∧
    (∀ p, p < 7 → q.pred p = 0) ∧ q.mode = 0x000800A7#32 ∧ q.xp = 0 ∧ q.fstat = 0 ∧ q.tvec = (l.trapEntry &&& 0x0000FFFFFFFFFFFC#64) ∧ q.arrv = 0 ∧
    q.active = false ∧ q.ops = [] ∧ q.splits = [{ id := 0, pos := position (headerOf l.entry) 0, mask := 0xFFFFFFFF#32 }]

end Sys2Proof.Machine
end

