-- ==== Sys2Proof/Certificates/Slice0/Obligations.lean ====
section
/-! DEFINITION. The statements about Lerolo for the provers: one proposition for each, citing the rules it rests on. -/

open Sys2Proof Sys2Proof.Machine

/-! ## Scalar words -/

/-- R77, R78, R79: each scalar ALU word writes the value of its row to s[D], for slots A and B in registers, literals and
immediates; a write to s0 is discarded, and nothing else of the squad changes. SSEL keeps the destination's test on its old
value; SMOV, SLI, SCLZ and SPOPC write their values. -/
def Obligations.ScalarResults : Prop :=
  (∀ (s : State) (u : Issuer) (d a : BitVec 5), d.toNat < 28 → a.toNat < 28 →
    (∀ (b : SSrc) (y : DWord) (i : Instr) (v : DWord), u.squad.plainB b = some y →
      (i, v) ∈ (scalarWords d a b).zip (scalarResults (u.squad.sreg a.toNat) y) → Issues s i u →
      exec i s = .next (s.taken u i .next (s.setSquad u.key (u.squad.setSreg d.toNat v)))) ∧
    (∀ (n : BitVec 9) (i : Instr) (v : DWord),
      (i, v) ∈ (scalarImmediates d a n).zip (scalarResults (u.squad.sreg a.toNat) (n.signExtend 64)) → Issues s i u →
      exec i s = .next (s.taken u i .next (s.setSquad u.key (u.squad.setSreg d.toNat v))))) ∧
  (∀ (s : State) (u : Issuer) (d a : BitVec 5) (b : SSrc) (y : DWord) (lit : Word) (i : Instr) (v : DWord),
    d.toNat < 28 → a.toNat < 28 → u.squad.plainB b = some y → Issues s i u →
    (i, v) ∈ [(.ssel d a b, if u.squad.sreg d.toNat ≠ 0 then u.squad.sreg a.toNat else y), (.smov d b, y),
      (.sli d lit, lit ++ (u.squad.sreg d.toNat).extractLsb' 0 32),
      (.sclz d a, BitVec.ofNat 64 (((List.range 64).takeWhile fun k => !(u.squad.sreg a.toNat).getMsbD k).length)),
      (.spopc d a, BitVec.ofNat 64 ((List.range 64).countP fun k => (u.squad.sreg a.toNat).getLsbD k))] →
    exec i s = .next (s.taken u i .next (s.setSquad u.key (u.squad.setSreg d.toNat v))))

/-- R32, R60, R80, R219, R221: a scalar word that reads a queue port takes the record at the port's head and pops the command,
which counts on EQ until every command pushed before it has been popped; with no command it raises QFAULT 4, and with the head
still running it waits, and pops nothing. The first word pushed to a port starts a command with its scope resolved; the second
completes it, with the tensor entries as they stand, and the command is pushed, last in the team's push order; with 63 commands
counted on EQ it waits, and pushes nothing. -/
def Obligations.PortTraffic : Prop :=
  (∀ (s : State) (u : Issuer) (d : BitVec 5) (p : Nat), d.toNat < 28 → p < 3 →
    let i : Instr := .smov d (.reg (BitVec.ofNat 5 (28 + p)))
    Issues s i u →
    (∀ c rest r, at' u.squad.commands p [] = c :: rest → c.record = some r →
      let left := put u.squad.commands p rest
      exec i s = .next (s.taken u i .next (s.setSquad u.key
        ({ u.squad with
            commands := left
            popped := (u.squad.popped ++ [c.seq]).filter fun n => left.toList.flatten.any fun x => decide (x.seq < n)
          }.setSreg d.toNat r)))) ∧
    (at' u.squad.commands p [] = [] → exec i s = .next (s.trapAt u .qfault (BitVec.ofNat 64 (p + 4 * 2 ^ 8)))) ∧
    (∀ c rest, at' u.squad.commands p [] = c :: rest → c.record = none → exec i s = .next (s.stall u (.record p 1)))) ∧
  (∀ (s : State) (u : Issuer) (p : Nat) (b : SSrc) (v : DWord), p < 3 → u.squad.plainB b = some v →
    let i : Instr := .smov (BitVec.ofNat 5 (28 + p)) b
    Issues s i u →
    (at' u.squad.assembly p [] = [] → pushReason p (((s.launchOf u.squad).map (·.coop)).getD false) v = none →
      (at' u.squad.commands p []).length < 16 →
      let first := withBits v 16 14 (if bits v 16 14 = 7 then u.squad.dscope else bits v 16 14)
      exec i s = .next (s.taken u i .next (s.setSquad u.key
        { u.squad with assembly := put u.squad.assembly p [first] }))) ∧
    (∀ w, at' u.squad.assembly p [] = [w] → 63 ≤ u.squad.path 4 → (∀ t ∈ commandNames w, u.squad.tensorBusy t = false) →
      exec i s = .next (s.stall u (.full 4))) ∧
    (∀ w, at' u.squad.assembly p [] = [w] → bits w 11 8 = 2 → (∀ t ∈ commandNames w, u.squad.tensorBusy t = false) →
      u.squad.path 4 < 63 →
      exec i s = .next (s.taken u i .next (s.setSquad u.key { u.squad with
        assembly := put u.squad.assembly p []
        commands := put u.squad.commands p (at' u.squad.commands p [] ++ [({
          words := [w, v]
          dst := s.tensor u.squad (bits w 36 32)
          src := s.tensor u.squad (bits w 44 40)
          idx := s.tensor u.squad (bits w 52 48)
          scope := bits w 16 14
          seq := s.nextSeq u.squad
          pos := u.split.pos
          word := s.issuing.2.1
          lit := s.issuing.2.2
          gen := u.squad.gen } : Command)]) })) ∧
      (∀ q ∈ s.squads, q.2.team = u.squad.team → ∀ n, n < 3 → ∀ c ∈ at' q.2.commands n [], c.seq < s.nextSeq u.squad)))

/-- R26, R28: a word that takes effect moves its split to the next word, or from the clause's last word to the header of the
next clause; of the squad nothing but the place of its splits changes, and of the rest of the machine nothing but turns and
tokens. -/
def Obligations.WordsMoveOn : Prop :=
  ∀ (s t : State) (u : Issuer) (i : Instr) (m : Move) (q : Squad) (p : Split), m = .next ∨ m = .yields →
    t.squads.get? u.key = some q → q.split? u.split.id = some p →
    ∃ q' p', (s.taken u i m t).squads.get? u.key = some q' ∧ q'.still = q.still ∧ q'.split? u.split.id = some p' ∧
      p'.mask = p.mask ∧
      (if indexOf u.split.pos + wordsOf i < u.split.length then
        p'.pos = position (headerOf u.split.pos) (indexOf u.split.pos + wordsOf i) ∧ p'.clause = p.clause ∧ p'.begun = true
      else p'.pos = position (headerOf u.split.pos + 4 * (u.split.length + 1)) 0 ∧ p'.clause = none ∧ p'.begun = false) ∧
      (∀ k, k ≠ u.key → (s.taken u i m t).squads.get? k = t.squads.get? k) ∧
      (s.taken u i m t).around = t.around ∧ ∀ c, ((s.taken u i m t).core c).still = (t.core c).still

/-- The frame of the scalar words (R72, R77): whatever becomes of the word, no memory changes, and of the squad no scalar
register but the destination, no vector register, predicate, tile name, mode or flag; the trap registers change only where a
trap is taken. -/
def Obligations.ScalarFrame : Prop :=
  ∀ (s t : State) (q q' : Squad) (d a : BitVec 5) (b : SSrc) (n : BitVec 9) (lit : Word) (i : Instr),
    i ∈ scalarWords d a b ++ scalarImmediates d a n ++ [.ssel d a b, .smov d b, .sli d lit, .sclz d a, .spopc d a] →
    s.squads.get? s.cur.squad = some q → exec i s = .next t → t.squads.get? s.cur.squad = some q' →
    LeavesMemory s t ∧ (∀ r, r ≠ d.toNat → q'.sreg r = q.sreg r) ∧ q'.sreg 0 = 0 ∧ q'.vregs = q.vregs ∧ q'.preds = q.preds ∧
      q'.accs = q.accs ∧ q'.mode = q.mode ∧ q'.xp = q.xp ∧ q'.fstat = q.fstat ∧ q'.tvec = q.tvec ∧ q'.arrv = q.arrv ∧
      q'.rng = q.rng ∧ q'.ops = q.ops ∧
      (q'.tpc = q.tpc ∧ q'.tcause = q.tcause ∧ q'.tval = q.tval ∧ q'.tmask = q.tmask ∧ q'.active = q.active ∨
        q.active = false ∧ q'.active = true)

/-! ## Control transfers, waits and traps -/

/-- R36, R56, R81 to R84, R96: BRA, a taken BRS and BRP and CALL move the whole split to the header that OFF18 names; BRS and BRP not
taken move it to the next clause; CALL writes the link. BRL with no taken lane goes to the next clause, with every active lane taken
to the target; otherwise the split keeps the other lanes and goes to the next clause, while the taken lanes stand at the target; a
handler is never divided. -/
def Obligations.BranchesMove : Prop :=
  (∀ (s : State) (u : Issuer) (o : BitVec 18) (c : BitVec 5) (m : BitVec 2) (p : BitVec 3),
     (Issues s (.bra o) u →
       ∃ t, exec (.bra o) s = .next t ∧ Arrives s t u u.squad (branchTarget u.split o) u.split.mask) ∧
     (Issues s (.brs c o) u →
       ∃ t, exec (.brs c o) s = .next t ∧ Arrives s t u u.squad
         (if u.squad.sreg c.toNat ≠ 0 then branchTarget u.split o else u.split.nextClause) u.split.mask) ∧
     (Issues s (.brp m p o) u → voteHolds m u.lanes (u.squad.pred p.toNat) →
       ∃ t, exec (.brp m p o) s = .next t ∧ Arrives s t u u.squad (branchTarget u.split o) u.split.mask) ∧
     (Issues s (.brp m p o) u → ¬ voteHolds m u.lanes (u.squad.pred p.toNat) →
       ∃ t, exec (.brp m p o) s = .next t ∧ Arrives s t u u.squad u.split.nextClause u.split.mask) ∧
     (Issues s (.call c o) u →
       ∃ t, exec (.call c o) s = .next t ∧
         Arrives s t u (u.squad.setSreg c.toNat u.split.nextClause) (branchTarget u.split o) u.split.mask)) ∧
  (∀ (s : State) (u : Issuer) (m : BitVec 1) (p : BitVec 3) (o : BitVec 18), Issues s (.brl m p o) u →
     let x := u.squad.pred p.toNat
     let taken := u.lanes &&& (if m = 0 then x else ~~~x)
     let rest := u.split.mask &&& ~~~taken
     let target := branchTarget u.split o
     (taken = 0 → ∃ t, exec (.brl m p o) s = .next t ∧ Arrives s t u u.squad u.split.nextClause u.split.mask) ∧
     (taken ≠ 0 → rest = 0 → ∃ t, exec (.brl m p o) s = .next t ∧ Arrives s t u u.squad target u.split.mask) ∧
     (taken ≠ 0 → rest ≠ 0 → u.squad.active = true →
       exec (.brl m p o) s = .next (s.trapAt u .diverge u.split.pos)) ∧
     (taken ≠ 0 → rest ≠ 0 → u.squad.active = false → u.squad.splits.length < 4 →
       (∀ p' ∈ u.squad.splits, p'.id ≠ u.split.id → p'.pos ≠ target ∨ p'.begun = true) →
       (∀ b ∈ u.squad.bench, b.pos ≠ target) →
       ∃ t q', exec (.brl m p o) s = .next t ∧ Arrives s t u u.squad u.split.nextClause rest ∧
         t.squads.get? u.key = some q' ∧ q'.splits.getLast? = some { id := u.squad.freeSlot, pos := target, mask := taken } ∧
         q'.bench = u.squad.bench) ∧
     (taken ≠ 0 → rest ≠ 0 → u.squad.active = false → u.squad.splits.length = 4 → u.squad.bench.length < 8 →
       (∀ p' ∈ u.squad.splits, p'.id ≠ u.split.id → p'.pos ≠ target ∨ p'.begun = true) →
       (∀ b ∈ u.squad.bench, b.pos ≠ target) →
       ∃ t q', exec (.brl m p o) s = .next t ∧ Arrives s t u u.squad u.split.nextClause rest ∧
         t.squads.get? u.key = some q' ∧ q'.bench = u.squad.bench ++ [⟨target, taken⟩]))

/-- R57, R67, R85, R86, R96: RET goes to the clause position in its register and JMPI to its header address; a RET of a position
with an index or reserved bits raises ILLOP, and a JMPI to an address that is no multiple of 4 raises ALIGN. EXIT ends the active
lanes whose guard passes; with lanes left the split goes on at the next clause, and with none left, while another split remains
and no bench entry waits, the split is gone, the order goes on from its follower when it was the one served last, and a handler
that ran in it is over. -/
def Obligations.TransfersAndExit : Prop :=
  (∀ (s : State) (u : Issuer) (a : BitVec 5),
    let x := u.squad.sreg a.toNat
    (Issues s (.ret a) u → x.toNat < 2 ^ 48 → x.toNat % 4 = 0 →
      ∃ t, exec (.ret a) s = .next t ∧ Arrives s t u u.squad x u.split.mask) ∧
    (Issues s (.ret a) u → 2 ^ 48 ≤ x.toNat ∨ x.toNat % 4 ≠ 0 →
      exec (.ret a) s = .next (s.trapAt u .illop ((encodeWord (.ret a)).setWidth 64))) ∧
    (Issues s (.jmpi a) u → x.toNat % 4 = 0 →
      ∃ t, exec (.jmpi a) s = .next t ∧ Arrives s t u u.squad (0#16 ++ x.extractLsb' 0 48) u.split.mask) ∧
    (Issues s (.jmpi a) u → x.toNat % 4 ≠ 0 → exec (.jmpi a) s = .next (s.trapAt u .align x))) ∧
  (∀ (s : State) (u : Issuer), Issues s .exit u →
    (u.split.mask &&& ~~~u.lanes ≠ 0 →
      ∃ t, exec .exit s = .next t ∧ Arrives s t u u.squad u.split.nextClause (u.split.mask &&& ~~~u.lanes)) ∧
    (∀ before p after, u.split.mask &&& ~~~u.lanes = 0 → u.squad.bench = [] → u.squad.splits = before ++ p :: after →
      p.id = u.split.id → (∀ x ∈ before ++ after, x.id ≠ u.split.id) → before ++ after ≠ [] →
      ∃ t q', exec .exit s = .next t ∧ t.squads.get? u.key = some q' ∧
        q'.splits = (if u.squad.lastServed = some u.split.id then after ++ before else before ++ after) ∧
        q'.active = (u.squad.active && u.squad.handler != some u.split.id) ∧ q'.sregs = u.squad.sregs ∧
        q'.vregs = u.squad.vregs ∧ LeavesMemory s t))

/-- R87, R93: YIELD and NOP do nothing but move on; WAITF and WAITC move on once no named flag is busy, or the path counter is
at or below the register, and stall at their word until then. With fewer than four outstanding, SVC becomes outstanding with its
register's value, and its record of 32 bytes goes to the interface's service ring; with four it stalls. -/
def Obligations.WaitsAndServiceCalls : Prop :=
  (∀ (s : State) (u : Issuer) (x : BitVec 23) (f : BitVec 12) (p : BitVec 3) (a : BitVec 5),
    (Issues s .yield u → exec .yield s = .next (s.taken u .yield .yields s)) ∧
    (Issues s (.nop x) u → exec (.nop x) s = .next (s.taken u (.nop x) .next s)) ∧
    (Issues s (.waitf f) u → exec (.waitf f) s =
      if u.squad.busy &&& f = 0 then .next (s.taken u (.waitf f) .next s) else .next (s.stall u (.flags f))) ∧
    (Issues s (.waitc p a) u → exec (.waitc p a) s =
      if u.squad.path p.toNat ≤ (u.squad.sreg a.toNat).toNat then .next (s.taken u (.waitc p a) .next s)
      else .next (s.stall u (.counter p.toNat a.toNat)))) ∧
  (∀ (s : State) (u : Issuer) (d a : BitVec 5) (c : BitVec 9), Issues s (.svc d a c) u →
    let ctx := s.contextOf u.squad
    let r := s.ring2 (contextVf ctx) (contextIface ctx) 0x240
    let op : Op := { id := 0, instr := .svc d a c, pos := u.split.pos, flag := none, path := none, loadClass := false,
                     kind := .svc d (s.nextIndex r) (u.squad.sreg a.toNat) none }
    let t := (s.launchOp u u.squad { op } []).postRecord r (s.serviceRecord u c (u.squad.sreg a.toNat))
    (u.squad.services < 4 → exec (.svc d a c) s = .next (s.taken u (.svc d a c) .next
      { t with services := s.services ++ [(contextVf ctx * 64 + contextIface ctx, s.nextIndex r, u.key, s.nextId)] })) ∧
    (4 ≤ u.squad.services → exec (.svc d a c) s = .next (s.stall u .svc)))

/-- R41, R92, R95, R96, R98: TRAP and BRK raise SOFT and BREAK with their code, and a word with an unassigned OP raises ILLOP with
itself. With a handler and none running, entry sets ACTIVE, CODE, TVAL, TPC and both halves of TMASK and goes to TVEC with its
mask; TPC holds the next word for TRAP and the word itself for the others. Nothing else of the squad changes. With a handler
running, or with no handler, TRAP, BRK and a word with an unassigned OP escalate: the squad stops with the split, the cause, the
value and the position kept, its trap registers as they were, and level 2 is told with its interface's vector (R376; that the
record is one message is the model's choice, log 105). TRET of a running handler clears ACTIVE and resumes, at TPC, the lanes that
are in MASK, in ENTRY and still in the split; outside a handler it raises ILLOP. An escalated squad goes on at the position that
level 2 gives, whether it runs or is saved; one that has not escalated stays as it is. -/
def Obligations.TrapsTaken : Prop :=
  ((∀ (s : State) (u : Issuer) (c : BitVec 16) (w : Word) (i : Instr) (code : BitVec 6) (v pos : DWord), Issues s i u →
     (i, code, v, pos) ∈ [(.trap c, 0x10#6, c.setWidth 64, u.split.after 1), (.brk c, 0x11#6, c.setWidth 64, u.split.pos),
       (.unassignedOpcode w, 0x01#6, w.setWidth 64, u.split.pos)] →
     u.squad.active = false → headerOf u.squad.tvec ≠ 0 →
     ∃ t, exec i s = .next t ∧ Arrives s t u
       { u.squad with active := true, tcause := code, tval := v, tpc := pos, tmask := u.split.mask ++ u.split.mask,
                      handler := some u.split.id }
       (position (headerOf u.squad.tvec) 0) u.split.mask) ∧
   (∀ (s : State) (u : Issuer) (c : BitVec 16) (w : Word) (i : Instr) (cause : Cause) (v pos : DWord), Issues s i u →
     (i, cause, v, pos) ∈ [(.trap c, .soft, c.setWidth 64, u.split.after 1), (.brk c, .brk, c.setWidth 64, u.split.pos),
       (.unassignedOpcode w, .illop, w.setWidth 64, u.split.pos)] →
     u.squad.active = true ∨ headerOf u.squad.tvec = 0 →
     ∃ t, exec i s = .next t ∧
       Arrives s t u { u.squad with escalation := some ⟨u.split.id, cause, v, pos⟩ } pos u.split.mask ∧
       t.out = s.out ++ [.trap (s.contextOf u.squad) cause v pos (s.identity u.squad)
         [u.squad.tvec, u.squad.tpc, u.squad.tcauseWord, u.squad.tval, u.squad.tmask],
         .interrupt (2 + contextVf (s.contextOf u.squad)) (1 + contextIface (s.contextOf u.squad))])) ∧
  (∀ (s : State) (u : Issuer), Issues s .tret u →
     let m : Mask := u.squad.tmask.extractLsb' 0 32 &&& u.squad.tmask.extractLsb' 32 32 &&& u.split.mask
     (u.squad.active = true → m ≠ 0 → u.squad.pending = [] →
       ∃ t, exec .tret s = .next t ∧ Arrives s t u { u.squad with active := false, handler := none } u.squad.tpc m) ∧
     (u.squad.active = false → exec .tret s = .next (s.trapAt u .illop ((encodeWord .tret).setWidth 64)))) ∧
  ∀ (s : State) (k : Nat) (q : Squad) (pos : DWord),
    let resumed := fun (q' : Squad) (e : Escalation) => q'.escalation = none ∧ q'.sregs = q.sregs ∧ q'.vregs = q.vregs ∧
      q'.active = q.active ∧ q'.tpc = q.tpc ∧ q'.mode = q.mode ∧
      (∀ p, q.split? e.split = some p → ∃ p', q'.split? e.split = some p' ∧ p'.mask = p.mask ∧ p'.clause = none ∧ p'.wait = none ∧
        p'.pos = pos &&& 0x0007FFFFFFFFFFFC#64) ∧
      ∀ sp, sp ≠ e.split → q'.split? sp = q.split? sp
    (s.squads.get? k = some q → ∀ e, q.escalation = some e →
      ∃ t q', exec (.escalatedSquadResume k pos) s = .next t ∧ t.squads.get? k = some q' ∧ resumed q' e ∧ t.mem = s.mem ∧
        ∀ j, j ≠ k → t.squads.get? j = s.squads.get? j) ∧
    (s.squads.get? k = none → ∀ tk x e, s.saved.get? tk = some x → Tbl.sorted s.saved = true → (k, q) ∈ x.squads →
      (∀ y ∈ x.squads, y.1 = k → y.2 = q) → q.escalation = some e →
      ∃ t x' q', exec (.escalatedSquadResume k pos) s = .next t ∧ t.saved.get? tk = some x' ∧ x'.team = x.team ∧
        (k, q') ∈ x'.squads ∧ resumed q' e ∧ t.mem = s.mem ∧ t.squads = s.squads) ∧
    (s.squads.get? k = some q → q.escalation = none → Tbl.sorted s.squads = true → (∀ x ∈ s.saved, ∀ y ∈ x.2.squads, y.1 ≠ k) →
      ∃ t, exec (.escalatedSquadResume k pos) s = .next t ∧ t.squads.get? k = some q ∧ t.saved = s.saved ∧ t.mem = s.mem)

/-! ## Modes and special registers -/

/-- R38, R88: each word that writes MODE replaces its fields and no others; a value that R38 reserves raises ILLOP and leaves
MODE alone. SETX replaces the bits of XP that its slot names. -/
def Obligations.ModeWords : Prop :=
  ∀ (s : State) (u : Issuer) (lit : Word) (n f x l : BitVec 1) (g w sc : BitVec 3) (t r : BitVec 4) (b : SSrc) (y : DWord)
    (i : Instr) (m : Word),
    ((i, m) ∈ modeWords u.squad.mode lit n g t r f x w sc → Issues s i u →
      (m.extractLsb' 4 4 ≠ 15#4 ∧ (m.extractLsb' 8 4).toNat ≤ 5 ∧ (m.extractLsb' 14 3).toNat ≤ 4 ∧ m.extractLsb' 17 3 ≠ 7#3 ∧
        m.extractLsb' 21 11 = 0#11 →
        exec i s = .next (s.taken u i .next (s.setSquad u.key { u.squad with mode := m }))) ∧
      (m.extractLsb' 4 4 = 15#4 ∨ 5 < (m.extractLsb' 8 4).toNat ∨ 4 < (m.extractLsb' 14 3).toNat ∨ m.extractLsb' 17 3 = 7#3 ∨
        m.extractLsb' 21 11 ≠ 0#11 → exec i s = .next (s.trapAt u .illop ((encodeWord i).setWidth 64)))) ∧
    (u.squad.plainB b = some y → Issues s (.setx l b) u →
      exec (.setx l b) s = .next (s.taken u (.setx l b) .next (s.setSquad u.key { u.squad with
        xp := if l = 0 then u.squad.xp.extractLsb' 15 17 ++ y.extractLsb' 0 15
              else u.squad.xp.extractLsb' 31 1 ++ y.extractLsb' 0 15 ++ u.squad.xp.extractLsb' 0 16 })))

/-- R38, R89, R90, R91, R94, R209, R258, R259, R358, R367, R410, R417: SRD writes the special register that its index names,
zero-extended: the squad's own, CORE and DIE as the lowest logical numbers that name them, the price table, RING, the market's, the
purse, the bids and the capability registers; CLOCK and TIME never fall, IVL counts the cycles to the interval's end, and an unassigned
index raises ILLOP. SWR writes the writable fields of the register that its index names; MODE as SETM does, a reserved value raising
ILLOP; BID of the squad's context; an index with no writable field raises ILLOP. BID writes a price and a quantity of its class to the
context's bid register, and no other context's. -/
def Obligations.SpecialRegisters : Prop :=
  (∀ (s : State) (u : Issuer) (d : BitVec 5) (n : BitVec 12), Issues s (.srd d n) u →
    let q := u.squad
    let ctx := s.contextOf q
    let gives := fun (v : DWord) =>
      exec (.srd d n) s = .next (s.taken u (.srd d n) .next (s.setSquad u.key (q.setSreg d.toNat v)))
    (∀ v, (n, v) ∈ plainSpecials s q → gives v) ∧
    (∀ v, (n.toNat, v) ∈ machineSpecials s q → gives (BitVec.ofNat 64 v)) ∧
    (∀ l, n = 0x042#12 → s.physCore? ctx l = some q.core → (∀ j, j < l → s.physCore? ctx j ≠ some q.core) → gives (BitVec.ofNat 64 l)) ∧
    (∀ l, n = 0x043#12 → s.physDie? ctx l = some (dieOf q.core) → (∀ j, j < l → s.physDie? ctx j ≠ some (dieOf q.core)) →
      gives (BitVec.ofNat 64 l)) ∧
    (∃ t v, exec (.srd d n) s = .next (s.taken u (.srd d n) .next t) ∧ t.squads.get? u.key = some (q.setSreg d.toNat v) ∧
      (n = 0x040#12 → (s.core q.core).clock.toNat ≤ v.toNat ∧ (t.core q.core).clock = v) ∧
      (n = 0x041#12 → s.time.toNat ≤ v.toNat ∧ t.time = v) ∧
      (n = 0x0E0#12 → s.time.toNat ≤ t.time.toNat ∧ (dieOf q.core ∉ s.market.late →
        bits v 63 32 = s.market.interval % 2 ^ 32 ∧
        bits v 31 0 = (((s.market.finish - t.time.toNat) * [12, 11, 10, 8].getD (s.railState (clusterOf q.core)) 8 + 9) / 10) % 2 ^ 32)))) ∧
  (∀ (s : State) (u : Issuer) (d : BitVec 5) (n : BitVec 12), s.issuer = some u → specialReadable n.toNat = false →
    exec (.srd d n) s = .next (s.trapAt u .illop ((encodeWord (.srd d n)).setWidth 64))) ∧
  (∀ (s : State) (u : Issuer) (c : BitVec 5) (n : BitVec 12),
    let v := u.squad.sreg c.toNat
    (∀ q, Issues s (.swr c n) u → (n, q) ∈ writtenSpecials u.squad v →
      exec (.swr c n) s = .next (s.taken u (.swr c n) .next (s.setSquad u.key q))) ∧
    (Issues s (.swr c 0x000#12) u → modeLegal (v.setWidth 32) = true →
      exec (.swr c 0x000#12) s = .next (s.taken u (.swr c 0x000#12) .next
        (s.setSquad u.key { u.squad with mode := v.setWidth 32 }))) ∧
    (Issues s (.swr c 0x000#12) u → modeLegal (v.setWidth 32) = false →
      exec (.swr c 0x000#12) s = .next (s.trapAt u .illop ((encodeWord (.swr c 0x000#12)).setWidth 64))) ∧
    (∀ k, k < 5 → n = BitVec.ofNat 12 (0x0D8 + k) → Issues s (.swr c n) u →
      exec (.swr c n) s = .next (s.taken u (.swr c n) .next (s.writeBid (s.contextOf u.squad) k v))) ∧
    (∀ w, s.issuer = some u → specialWritable n.toNat = false →
      w = encodeWord (.swr c n) → exec (.swr c n) s = .next (s.trapAt u .illop (w.setWidth 64)))) ∧
  (∀ (s : State) (u : Issuer) (c : BitVec 3) (a : BitVec 5) (b : SSrc) (y : DWord), a.toNat < 28 → u.squad.plainB b = some y →
    Issues s (.bid c a b) u →
    ∃ t, exec (.bid c a b) s = .next (s.taken u (.bid c a b) .next t) ∧ t.squads.get? u.key = some u.squad ∧
      (∀ k, k < 5 → at' (t.context (s.contextOf u.squad)).bids k 0 =
        if k = c.toNat then y.extractLsb' 0 32 ++ (u.squad.sreg a.toNat).extractLsb' 0 32
        else at' (s.context (s.contextOf u.squad)).bids k 0) ∧
      ∀ x, x ≠ s.contextOf u.squad → t.context x = s.context x)

/-! ## Vector words -/

/-- R121, R122, R125 to R128, R130 to R134, R138 to R141, R143, R206: a word that acts on elements writes, in each active lane whose
guard passes, the result of each element, with its sticky flags, and advances the stochastic state when it rounds a float under
RM 5. The words that convert, scale, select, move, shuffle, ballot, walk, reduce and scan write their lanes. -/
def Obligations.ElementResults : Prop :=
  (∀ (s : State) (u : Issuer) (d : BitVec 5) (a b : VSrc) (n : BitVec 9) (e : ElementWord),
     e ∈ elementWords u.squad d a b ++ elementImmediates u.squad d a n → Issues s e.instr u →
     e.legal u.squad.et = true → e.a.odd = false → e.b.odd = false → (isWide u.squad.et = true → d.toNat % 2 = 0) →
     NamesReady s u.squad (e.a.names ++ e.b.names) (destNames d.toNat (isWide u.squad.et)) →
     (u.squad.fpx = false ∨ has (laneFlags u.lanes (e.lane u.squad d.toNat)) 0 = false) →
     exec e.instr s = .next (s.taken u e.instr .next (s.lanesWritten u (e.a.rels ++ e.b.rels) d.toNat (isWide u.squad.et)
       (e.rounds && !isInt u.squad.et) u.lanes (e.lane u.squad d.toNat)))) ∧
  (∀ (s : State) (u : Issuer) (d : BitVec 5) (a b : VSrc) (sc o : BitVec 4) (p : BitVec 3) (e : BitVec 1) (c : LaneCase),
     c ∈ laneCases u d a b sc o p e → Issues s c.instr u → c.legal = true →
     NamesReady s u.squad c.names (destNames d.toNat c.wide) →
     (u.squad.fpx = false ∨ has (laneFlags c.lanes c.out) 0 = false) →
     exec c.instr s = .next (s.taken u c.instr .next
       (s.lanesWritten u c.rels d.toNat c.wide c.advance c.lanes c.out)))

/-- R121, R123, R197, R199, R200: what a word that writes lanes leaves in its squad: its lanes of the destination (a pair for a
wide type), every other lane as it was, released names unbound, flags only set, and nothing else. -/
def Obligations.LanesWritten : Prop :=
  ∀ (s : State) (u : Issuer) (rels : List Nat) (d : Nat) (wide advance : Bool) (lanes : Mask) (f : Nat → LaneOut),
    d < 32 → (wide = true → d + 1 < 32) → (∀ r ∈ rels, r < 32) →
    ∃ q, (s.lanesWritten u rels d wide advance lanes f).squads.get? u.key = some q ∧
      (∀ i, i < 32 → lane (q.vreg d) i = if has lanes i then (f i).lo else lane (u.squad.vreg d) i) ∧
      (wide = true → ∀ i, i < 32 → lane (q.vreg (d + 1)) i = if has lanes i then (f i).hi else lane (u.squad.vreg (d + 1)) i) ∧
      (∀ n, n < 32 → n ∉ destNames d wide → n ∉ rels → q.vreg n = u.squad.vreg n) ∧
      (∀ n ∈ rels, n ∉ destNames d wide → q.vreg n = zeroLanes) ∧
      q.fstat = u.squad.fstat ||| laneFlags lanes f ∧ q.sregs = u.squad.sregs ∧ q.preds = u.squad.preds ∧
      q.accs = u.squad.accs ∧ q.mode = u.squad.mode ∧ q.xp = u.squad.xp ∧ q.splits = u.squad.splits ∧ q.ops = u.squad.ops ∧
      (s.lanesWritten u rels d wide advance lanes f).around = s.around ∧
      ∀ k, k ≠ u.key → (s.lanesWritten u rels d wide advance lanes f).squads.get? k = s.squads.get? k

/-- R101, R125, R104, R112: on integer elements VADD, VSUB and VMUL give the exact result, wrapped to the element's width
without SAT and clamped to its range with SAT, and signal nothing. On float elements VADD, VSUB, VMUL, the fused words and VDIV
with a NaN source give the canonical NaN, and signal invalid for a signalling one. -/
def Obligations.ElementArithmetic : Prop :=
  (∀ (m : ElemMode) (x y z : Nat), isInt m.et = true →
    let lo : Int := if signedType m.et then -(2 ^ (m.width - 1)) else 0
    let hi : Int := if signedType m.et then 2 ^ (m.width - 1) - 1 else 2 ^ m.width - 1
    ∀ (e : Elem) (v : Int), (e, v) ∈ [(m.add x y z, m.int x + m.int y), (m.sub x y z, m.int x - m.int y),
      (m.mul x y z, m.int x * m.int y)] →
    e.flags = 0 ∧ e.pat < 2 ^ m.width ∧
      (m.sat = true → m.int e.pat = max lo (min hi v)) ∧
      (m.sat = false → (2 : Int) ^ m.width ∣ m.int e.pat - v)) ∧
  (∀ (m : ElemMode) (f : FloatFmt) (x y d z : Nat) (e : Elem), floatFmt m.et = some f → isArithFloat m.et = true →
    (f.read x).isNan = true ∨ (f.read y).isNan = true →
    e ∈ [m.add x y z, m.sub x y z, m.mul x y z, m.fma false false d x y z, m.fma true false d x y z, m.fma false true d x y z,
      f.div m.round x y z] →
    some e.pat = f.nan ∧ ((f.read x).snan = true ∨ (f.read y).snan = true → has e.flags 0 = true))

/-- R129, R136, R138, R142: a compare combines its result with the old predicate as its suffix says, in the active lanes whose guard
passes, and leaves every other lane, every other predicate and every register. The predicate words write their lane's value in the
active lanes whose guard passes; PSET takes it from a scalar, PMOV gives the active lanes of a predicate to a scalar, and RNEXT
marks the first elements of rows. -/
def Obligations.CompareResults : Prop :=
  (∀ (s : State) (u : Issuer) (m : BitVec 2) (p : BitVec 3) (a b : VSrc) (n : BitVec 9) (i : Instr) (r : Rel) (y : Operand),
     (i, r, y) ∈ compareWords u.squad m p a b n → Issues s i u →
     (if r = .un then legalFloat u.squad.et else legalArith u.squad.et) = true →
     let x := u.squad.operand false a
     x.odd = false → y.odd = false → NamesReady s u.squad (x.names ++ y.names) [] →
     (u.squad.fpx = false ∨ has (compareFlags u.squad r u.lanes x y) 0 = false) →
     ∃ q, exec i s = .next (s.taken u i .next (s.setSquad u.key q)) ∧
       (∀ k, k < 32 → has (q.pred p.toNat) k =
         if has u.lanes k then
           (let c := compareLane u.squad r x y k
            let old := has (u.squad.pred p.toNat) k
            if m = 0 then c else if m = 1 then old && c else if m = 2 then old || c else old && !c)
         else has (u.squad.pred p.toNat) k) ∧
       (∀ k, k < 7 → k ≠ p.toNat → q.pred k = u.squad.pred k) ∧
       q.fstat = u.squad.fstat ||| compareFlags u.squad r u.lanes x y ∧ q.sregs = u.squad.sregs ∧ q.mode = u.squad.mode ∧
       ∀ k, k < 32 → k ∉ x.rels ++ y.rels → q.vreg k = u.squad.vreg k) ∧
  (∀ (s : State) (u : Issuer) (d a b : BitVec 3) (m : BitVec 2),
     (∀ i f, (i, f) ∈ predicateWords u d a b m → Issues s i u →
       ∃ q, exec i s = .next (s.taken u i .next (s.setSquad u.key q)) ∧ q = { u.squad with preds := q.preds } ∧
         (∀ k, k < 32 → has (q.pred d.toNat) k = if has u.lanes k then f k else has (u.squad.pred d.toNat) k) ∧
         ∀ k, k < 7 → k ≠ d.toNat → q.pred k = u.squad.pred k) ∧
     (∀ (c : SSrc) (y : DWord), u.squad.plainB c = some y → Issues s (.pset d c) u →
       ∃ q, exec (.pset d c) s = .next (s.taken u (.pset d c) .next (s.setSquad u.key q)) ∧
         q = { u.squad with preds := q.preds } ∧
         (∀ k, k < 32 → has (q.pred d.toNat) k = if has u.lanes k then has y k else has (u.squad.pred d.toNat) k) ∧
         ∀ k, k < 7 → k ≠ d.toNat → q.pred k = u.squad.pred k) ∧
     (∀ r : BitVec 5, Issues s (.pmov r a) u →
       exec (.pmov r a) s = .next (s.taken u (.pmov r a) .next (s.setSquad u.key
         (u.squad.setSreg r.toNat (0#32 ++ (u.squad.pred a.toNat &&& u.split.mask)))))) ∧
     (∀ x y : VSrc, Issues s (.rnext m d x y) u → NamesReady s u.squad (x.names false ++ y.names false) [] →
       ∃ q, exec (.rnext m d x y) s = .next (s.taken u (.rnext m d x y) .next (s.setSquad u.key q)) ∧
         ∀ k, k < 32 → has (q.pred d.toNat) k =
           if has u.lanes k then
             (let c := k % u.squad.segWidth == 0 || (List.range u.squad.segWidth).any fun j =>
                 (u.squad.src 5 false x).lo (u.squad.base k + j) ==
                   (u.squad.src 5 true y).lo k + BitVec.ofNat 32 (k % u.squad.segWidth)
              let old := has (u.squad.pred d.toNat) k
              if m = 0 then c else if m = 1 then old && c else if m = 2 then old || c else old && !c)
           else has (u.squad.pred d.toNat) k))

/-- R206 to R208: VMOVX reads, and VMOVXW writes, the name that its register adds to the base; VFREE unbinds the names of a
mask. A computed name that is no name of the squad raises REGIDX with it. -/
def Obligations.IndexedMoves : Prop :=
  ∀ (s : State) (u : Issuer) (d r a : BitVec 5) (lr : Bool) (pat : Pat) (b : VSrc) (c : SSrc) (y : DWord), a.toNat < 28 →
    let q := u.squad
    let w := isWide q.et
    let x : Int := r.toNat + (q.sreg a.toNat).toInt
    let z : Int := d.toNat + (q.sreg a.toNat).toInt
    let P : Int := s.regCount q
    (Issues s (.vmovx d (.vec r lr pat) a) u → 0 ≤ x → x < P → (w = true → x % 2 = 0 ∧ x + 1 < P ∧ d.toNat % 2 = 0) →
      let o := q.operand false (.vec (BitVec.ofInt 5 x) lr pat)
      NamesReady s q o.names (destNames d.toNat w) →
      exec (.vmovx d (.vec r lr pat) a) s = .next (s.taken u (.vmovx d (.vec r lr pat) a) .next
        (s.lanesWritten u o.rels d.toNat w false u.lanes fun i => ⟨o.src.lo i, o.src.hi i, 0⟩))) ∧
    (Issues s (.vmovxw d a b) u → 0 ≤ z → z < P → (w = true → z % 2 = 0 ∧ z + 1 < P) →
      let o := q.operand true b
      o.odd = false → NamesReady s q o.names (destNames z.toNat w) →
      exec (.vmovxw d a b) s = .next (s.taken u (.vmovxw d a b) .next
        (s.lanesWritten u o.rels z.toNat w false u.lanes fun i => ⟨o.src.lo i, o.src.hi i, 0⟩))) ∧
    (Issues s (.vmovx d (.vec r lr pat) a) u → x < 0 ∨ P ≤ x → w = false → d.toNat < s.regCount q →
      exec (.vmovx d (.vec r lr pat) a) s = .next (s.trapAt u .regidx (BitVec.ofInt 64 x))) ∧
    (Issues s (.vfree c) u → q.plainB c = some y → (∀ n, n < 32 → has y n = true → n < s.regCount q) →
      q.awaited &&& y.setWidth 32 = 0 →
      ∃ q', exec (.vfree c) s = .next (s.taken u (.vfree c) .next (s.setSquad u.key q')) ∧
        q'.sregs = q.sregs ∧ q'.preds = q.preds ∧
        ∀ n, n < 32 → at' q'.vregs n none = if has y n then none else at' q.vregs n none)

/-! ## Memory words -/

/-- R35, R187 to R190, R285, R413: a global load or store, scalar, vector or block, with its names ready, every address legal
and aligned, room on its path and every lane translated becomes outstanding with its lanes placed; a VSTR also needs room in the
release log. -/
def Obligations.GlobalAccesses : Prop :=
  ∀ (s : State) (u : Issuer) (d a : BitVec 5) (sc : BitVec 3) (o : VSrc) (x : AccessWord) (ls : List LaneAccess),
    Issues s x.instr u →
    NamesReady s u.squad x.word.names x.word.dests → PathRoom u.squad x.word.op.path →
    s.translateLanes u x.word.op.kind.access x.word.op.lanes = .placed ls →
    ((x ∈ globalWords u d a sc o ∧ (∀ l ∈ x.word.op.lanes, l.va.toNat < 2 ^ 48 ∧ l.va.toNat % x.size = 0)) ∨
      (x ∈ blockWords u d a sc o ∧ (u.squad.addresses a o 0).toNat < 2 ^ 48 ∧ (u.squad.addresses a o 0).toNat % 128 = 0)) →
    ((x.instr = .vstrW d a sc o ∨ x.instr = .vstrD d a sc o) → s.logFull u.squad.core (u.squad.scope sc) = false) →
    exec x.instr s = .next (s.taken u x.instr .next (s.launched u x.word ls))

/-- R124, R187: with FPX set, a word of these kinds that signals invalid in an active lane raises FPE with FSTAT as it then
stands; only FSTAT has changed. In a global vector or scalar access, the first lane whose address has a bit above 47 raises
XLATE, and one whose address is no multiple of the access size raises ALIGN, with the address; the word has no effect. -/
def Obligations.LaneTraps : Prop :=
  (∀ (s : State) (u : Issuer) (d : BitVec 5) (a b : VSrc) (n : BitVec 9) (e : ElementWord),
    e ∈ elementWords u.squad d a b ++ elementImmediates u.squad d a n → Issues s e.instr u →
    e.legal u.squad.et = true → e.a.odd = false → e.b.odd = false → (isWide u.squad.et = true → d.toNat % 2 = 0) →
    NamesReady s u.squad (e.a.names ++ e.b.names) (destNames d.toNat (isWide u.squad.et)) →
    u.squad.fpx = true → has (laneFlags u.lanes (e.lane u.squad d.toNat)) 0 = true →
    let f := u.squad.fstat ||| laneFlags u.lanes (e.lane u.squad d.toNat)
    exec e.instr s = .next ((s.setSquad u.key { u.squad with fstat := f }).trapAt u .fpe (f.setWidth 64))) ∧
  (∀ (s : State) (u : Issuer) (d a : BitVec 5) (sc : BitVec 3) (o : VSrc) (x : AccessWord) (l : LaneAccess)
    (before after : List LaneAccess),
    x ∈ globalWords u d a sc o → Issues s x.instr u → NamesReady s u.squad (x.word.names ++ x.word.dests) [] →
    x.word.op.lanes = before ++ l :: after →
    (∀ b ∈ before, b.va.toNat < 2 ^ 48 ∧ b.va.toNat % x.size = 0) →
    (2 ^ 48 ≤ l.va.toNat → exec x.instr s = .next (s.trapAt u .xlate l.va)) ∧
    (l.va.toNat < 2 ^ 48 → l.va.toNat % x.size ≠ 0 → exec x.instr s = .next (s.trapAt u .align l.va)))

/-- R154, R155, R157, R159: a scratchpad or window word whose addresses are aligned and lie in the allocation becomes
outstanding; a misaligned lane raises ALIGN and a lane past `.scratch` raises ACCESS, each with the address of the first such
lane. -/
def Obligations.ScratchpadAccesses : Prop :=
  ∀ (s : State) (u : Issuer) (d a : BitVec 5) (sc : BitVec 3) (o : VSrc) (x : AccessWord), Issues s x.instr u →
    let z := s.scratchSize u.squad
    (PathRoom u.squad x.word.op.path → NamesReady s u.squad x.word.names x.word.dests →
      ((x ∈ scratchWords u d a sc o ∧ (∀ l ∈ x.word.op.lanes, l.va.toNat % x.size = 0 ∧ l.va.toNat + x.size ≤ z)) ∨
        (x ∈ scratchBlocks s u d a sc o ∧ (u.squad.addresses a o 0).toNat % 128 = 0 ∧ (u.squad.addresses a o 0).toNat + 128 ≤ z) ∨
        (x ∈ windowWords u d a sc o ∧ (∀ l ∈ x.word.op.lanes, bits l.va 22 20 < s.teamCount u.squad ∧
          bits l.va 19 0 % 4 = 0 ∧ l.va.toNat < 2 ^ 23 ∧ bits l.va 19 0 + 4 ≤ z))) →
      exec x.instr s = .next (s.taken u x.instr .next (s.launched u x.word x.word.op.lanes))) ∧
    (∀ l before after, x ∈ scratchWords u d a sc o → NamesReady s u.squad (x.word.names ++ x.word.dests) [] →
      x.word.op.lanes = before ++ l :: after → (∀ b ∈ before, b.va.toNat % x.size = 0 ∧ b.va.toNat + x.size ≤ z) →
      (l.va.toNat % x.size ≠ 0 → exec x.instr s = .next (s.trapAt u .align l.va)) ∧
      (l.va.toNat % x.size = 0 → z < l.va.toNat + x.size → exec x.instr s = .next (s.trapAt u .access l.va)))

/-- R24, R60, R191, R199, R200: what a word that becomes outstanding leaves in its squad: the operation at the end of its list with
its flag, path and lanes; its flag busy and its counter one higher; the names it writes awaited; released names unbound; its
scalar registers, predicates and modes as they were; and no memory touched. Counting the cycles that its lanes take changes a
performance counter of the core alone, on GL and GS by one for each further line (R191; that they are counted so is the model's, log
86). -/
def Obligations.OutstandingOperations : Prop :=
  ∀ (s : State) (u : Issuer) (w : MemWord) (ls : List LaneAccess), w.op.finished = false → w.pops = [] →
    (∀ n ∈ w.dests, n < 32) →
    ∃ q o, (s.launchOp u u.squad w ls).squads.get? u.key = some q ∧ q.ops = u.squad.ops ++ [o] ∧
      o.id = s.nextId ∧ o.kind = w.op.kind ∧ o.lanes = ls ∧ o.flag = u.split.flagOf w.op.loadClass ∧ o.path = w.op.path ∧
      (∀ f, o.flag = some f → has q.busy f = true) ∧
      (∀ p, p < 4 → q.path p = u.squad.path p + if w.op.path = some p then 1 else 0) ∧
      (∀ n ∈ w.dests, has q.awaited n = true) ∧
      (∀ n, n < 32 → n ∉ w.dests → n ∉ w.rels → q.vreg n = u.squad.vreg n) ∧
      (∀ n ∈ w.rels, n < 32 → n ∉ w.dests → at' q.vregs n none = none) ∧
      q.sregs = u.squad.sregs ∧ q.preds = u.squad.preds ∧ q.mode = u.squad.mode ∧ q.splits = u.squad.splits ∧
      (s.launchOp u u.squad w ls).around = s.around ∧ (s.launchOp u u.squad w ls).cores = s.cores ∧
      (∀ k, k ≠ u.key → (s.launchOp u u.squad w ls).squads.get? k = s.squads.get? k) ∧
      { s.launched u w ls with cores := s.cores } = s.launchOp u u.squad w ls ∧
      (∀ c, { (s.launched u w ls).core c with perf := [] } = { s.core c with perf := [] }) ∧
      ∀ p, w.op.path = some p → p < 2 → ((s.launched u w ls).core u.squad.core).perf.getD perfLines 0 =
        (s.core u.squad.core).perf.getD perfLines 0 + ((w.op.lanes.map fun l => l.va.toNat / 128).eraseDups.length - 1)

/-- R185, R192 to R194: PLD prefetches for each of its lanes and releases its offset; PLDC does so while the HBS spot price of
its die is at most s[D], and otherwise only releases; CLAIM, CWB, CINV and XQ become outstanding with their ranges, cut at the pod
window, or the query's answer. A prefetch at squad, team or cluster scope leaves the line of an address that translates valid in
the L1, unless its page is not cacheable; a lane that does not translate, or whose page has ZP set, changes nothing. -/
def Obligations.CacheAndPageWords : Prop :=
  ∀ (s : State) (u : Issuer) (d a : BitVec 5) (sc : BitVec 3) (o : VSrc),
    let q := u.squad
    let first := (q.sreg a.toNat).toNat
    let len := match o with
      | .sca r => (q.sreg r.toNat).toNat
      | .lit w => (w.signExtend 64).toNat
      | _ => 0
    let last := min (first + len) 0xF00000000000
    let ctx := s.contextOf q
    let at_ := fun (va : DWord) => [({ lane := 0, va, place := .scratch 0 } : LaneAccess)]
    let op := fun (i : Instr) (k : OpKind) (p : Option Nat) (load : Bool) (scope : Nat) (va : DWord) =>
      ({ op := { id := 0, instr := i, pos := 0, kind := k, flag := none, path := p, loadClass := load, scope, lanes := at_ va } } : MemWord)
    let released := s.setSquad u.key ((o.released false).foldl Squad.release q)
    let lines := ((lanesIn u.lanes).map fun i => (q.addresses a o i).toNat / 128).eraseDups.length
    let fetched := (lanesIn u.lanes).foldl (fun t i => t.prefetchLine q.core ctx (q.scope sc) (q.addresses a o i).toNat)
      (released.tally q.core perfLines (lines - 1))
    (NamesReady s q (o.names false) [] →
      (Issues s (.pld a sc o) u → exec (.pld a sc o) s = .next (s.taken u (.pld a sc o) .next fetched)) ∧
      (Issues s (.pldc d a sc o) u → exec (.pldc d a sc o) s = .next (s.taken u (.pldc d a sc o) .next
        (if s.spotPrice q ≤ (q.sreg d.toNat).toNat then fetched else released)))) ∧
    (∀ scope va e x, (s.walkBoth (contextVf ctx) (contextIface ctx) va .read true).2 = .ok e → x = e.xlateFor ctx (va / 128 * 128) →
      inPodWindow va = false → va < 2 ^ 48 → s.held x = false → s.pinOf x = none → scope ≤ 2 →
      (s.zpSet x = false → x.nc = false →
        (((s.prefetchLine q.core ctx scope va).core (s.l1Core q.core x.pa)).lines.get? (x.pa / 128)).isSome = true) ∧
      (s.zpSet x = true ∨ x.nc = true → s.prefetchLine q.core ctx scope va = s)) ∧
    (∀ scope va f, (s.walkBoth (contextVf ctx) (contextIface ctx) va .read true).2 = .error f →
      s.prefetchLine q.core ctx scope va = s) ∧
    (Issues s (.claim d a sc o) u → exec (.claim d a sc o) s = .next (s.taken u (.claim d a sc o) .next
      (s.launchOp u q (op (.claim d a sc o) (.claim d first last 0 0 0) none true 0 (q.sreg a.toNat)) (at_ (q.sreg a.toNat))))) ∧
    (Issues s (.cwb a sc o) u → PathRoom q (some 1) → exec (.cwb a sc o) s = .next (s.taken u (.cwb a sc o) .next
      (s.launchOp u q (op (.cwb a sc o) (.cache false first last) (some 1) false (q.scope sc) (q.sreg a.toNat)) (at_ (q.sreg a.toNat))))) ∧
    (Issues s (.cinv a sc o) u → exec (.cinv a sc o) s = .next (s.taken u (.cinv a sc o) .next
      (s.launchOp u q (op (.cinv a sc o) (.cache true first last) none false (q.scope sc) (q.sreg a.toNat)) (at_ (q.sreg a.toNat))))) ∧
    (Issues s (.xq d a sc o) u → exec (.xq d a sc o) s = .next (s.taken u (.xq d a sc o) .next
      (s.spend.launchOp u q (op (.xq d a sc o) (.query d (BitVec.ofNat 64 (s.queryValue ctx (q.addresses a o 0))))
        none true 0 (q.addresses a o 0)) (at_ (q.addresses a o 0)))))

/-- R283, R284, R286, R288: a fence performs the squad's earlier accesses; one with a release then releases at its scope and
waits for room in the release log; FENCET releases at package scope and is counted; each stalls while an earlier access cannot be
performed (R273, R320). ACQP becomes outstanding towards the physical core that its logical core names. -/
def Obligations.FencesAndPromotion : Prop :=
  ∀ (s : State) (u : Issuer) (k : BitVec 2) (sc : BitVec 3) (d a : BitVec 5) (b : SSrc) (y : DWord) (core : Nat)
    (ls : List LaneAccess),
    let q := u.squad
    let fence : Instr := .fence k sc
    let p := s.performAll u.key
    (s.canPerform u.key →
      (Issues s fence u → has k 1 = false → exec fence s = .next (s.taken u fence .next p)) ∧
      (Issues s fence u → has k 1 = true → s.logFull q.core (q.scope sc) = false → exec fence s =
        .next (s.taken u fence .next (p.release q.core (p.contextOf q) (q.scope sc)))) ∧
      (Issues s .fencet u → ∃ t, exec .fencet s = .next (s.taken u .fencet .next t) ∧ t.fencets = p.fencets + 1 ∧
        t = { p.release q.core (p.contextOf q) 4 with fencets := p.fencets + 1 })) ∧
    (Issues s fence u → has k 1 = true → s.logFull q.core (q.scope sc) = true → exec fence s = .next (s.stall u .releaseLog)) ∧
    (¬ s.canPerform u.key →
      (Issues s fence u → has k 1 = false ∨ s.logFull q.core (q.scope sc) = false → exec fence s = .next (p.stall u .memory)) ∧
      (Issues s .fencet u → exec .fencet s = .next (p.stall u .memory))) ∧
    (Issues s (.acqp d a sc b) u → q.plainB b = some y → 2 ≤ q.scope sc → q.scope sc ≤ 4 →
      (q.sreg a.toNat).toNat < 2 ^ 48 → (q.sreg a.toNat).toNat % 4 = 0 → s.physCore? (s.contextOf q) y.toNat = some core →
      PathRoom q (some 0) →
      let lane : LaneAccess := { lane := 0, va := q.sreg a.toNat, place := untranslated }
      let op : Op := { id := 0, instr := .acqp d a sc b, pos := 0, kind := .acqp d core (q.scope sc), flag := none,
                       path := some 0, loadClass := true, scope := q.scope sc, lanes := [lane] }
      let w : MemWord := { op }
      s.translateLanes u .read w.op.lanes = .placed ls →
      exec (.acqp d a sc b) s = .next (s.taken u (.acqp d a sc b) .next
        (s.launchOp u q w ls)))

/-- R294, R298 to R300: an atomic word whose element type and registers are legal becomes outstanding on GL, on GS for ARED, or
on RM for a window place; each lane names `s[BASE]` plus its offset register, and carries its operand. -/
def Obligations.AtomicWords : Prop :=
  ∀ (s : State) (u : Issuer) (d a o : BitVec 5) (p : BitVec 3) (f z : BitVec 4) (i : Instr) (size data back : Nat)
    (load : Bool) (kind : OpKind) (ls : List LaneAccess),
    (i, size, data, back, load, kind) ∈ atomicWords u.squad d a o p f z → Issues s i u →
    (i ≠ .acas d a p o z → ∃ n, atomicWidth f.toNat u.squad.et = some n ∧ (n = 8 → d.toNat % 2 = 0 ∧ o.toNat % 2 = 0)) →
    let q := u.squad
    let wide := decide (size ≠ 4)
    let va := fun (k : Nat) => q.sreg a.toNat +
      (if wide then lane (q.vreg (o.toNat + 1)) k ++ lane (q.vreg o.toNat) k else (lane (q.vreg o.toNat) k).signExtend 64)
    let win := p == 0#3
    let path := if win then 3 else if load then 0 else 1
    let w : MemWord := {
      op := { id := 0, instr := i, pos := 0, kind, flag := none, path := some path, loadClass := load, size
              scope := if win then 2 else if p = 7#3 then max 1 q.dscope else p.toNat
              lanes := accessLanes u.lanes va
                (fun k => if win then .window (bits (va k) 22 20) (bits (va k) 19 0) else untranslated)
                fun k => q.laneBytes d.toNat (4 * data) k }
      names := groupNames d.toNat data ++ groupNames o.toNat (if wide then 2 else 1)
      dests := groupNames d.toNat back
      held := groupNames (d.toNat + back) (data - back) }
    NamesReady s q w.names w.dests → PathRoom q (some path) →
    (win = true → (∀ l ∈ w.op.lanes, bits l.va 22 20 < s.teamCount q ∧ bits l.va 19 0 % size = 0 ∧ l.va.toNat < 2 ^ 23 ∧
        bits l.va 19 0 + size ≤ s.scratchSize q) ∧ ls = w.op.lanes) →
    (win = false → (∀ l ∈ w.op.lanes, l.va.toNat < 2 ^ 48 ∧ l.va.toNat % size = 0) ∧
      s.translateLanes u .atomic w.op.lanes = .placed ls) →
    exec i s = .next (s.taken u i .next (s.launched u w ls))

/-! ## Deposits, tensors and work -/

/-- R210, R212: RDEP to a team and squad of the gang becomes outstanding with the lanes of its source; a target with reserved
bits, or that the launch has not, raises PLACE. WAITA moves on once ARRV has reached its register, and stalls until then. -/
def Obligations.DepositWords : Prop :=
  ∀ (s : State) (u : Issuer) (n a : BitVec 5) (v : VSrc) (b : SSrc) (y : DWord),
    let q := u.squad
    let w : MemWord := {
      op := { id := 0, instr := .rdep n v b, pos := 0, flag := none, path := some 3, loadClass := false, scope := 2,
              kind := .deposit n (bits y 2 0) (bits y 12 8) u.lanes (lanesOf (q.src 5 false v).lo)
              lanes := [{ lane := 0, va := y, place := .scratch 0 }] }
      names := v.names false
      rels := v.released false
      held := v.names false }
    let legal := y &&& 0xFFFFFFFFFFFFE0F8#64 = 0 ∧ bits y 2 0 < s.teamCount q ∧
      bits y 12 8 < ((s.launchOf q).map (·.squads)).getD 0
    (Issues s (.rdep n v b) u → q.plainB b = some y → legal → n.toNat < s.regCount q → NamesReady s q (v.names false) [] →
      PathRoom q (some 3) →
      exec (.rdep n v b) s = .next (s.taken u (.rdep n v b) .next (s.launchOp u q w w.op.lanes))) ∧
    (Issues s (.rdep n v b) u → q.plainB b = some y → ¬ legal → exec (.rdep n v b) s = .next (s.trapAt u .place y)) ∧
    (a.toNat < 28 → Issues s (.waita a) u → exec (.waita a) s =
      if q.arrv.toNat < (q.sreg a.toNat).toNat then .next (s.stall u (.arrival a.toNat))
      else .next (s.taken u (.waita a) .next (s.setSquad u.key q)))

/-- R218: TIDSET and TIDGET of an entry with no outstanding TIDSET become outstanding at an address that is a multiple of 32;
TIDCUR sets the cursor of a valid entry and TIDINV clears V, at once; TIDCUR of an invalid entry, or past 20 bits, raises
TIDBAD. -/
def Obligations.TensorEntries : Prop :=
  ∀ (s : State) (u : Issuer) (n a : BitVec 5) (sc : BitVec 3) (o : VSrc) (b : SSrc) (y : DWord) (ls : List LaneAccess),
    let q := u.squad
    let va := q.addresses a o 0
    let d := s.tensor q n.toNat
    let place := fun (i : Instr) (k : OpKind) (p : Nat) (load : Bool) (data : List Byte) =>
      ({ op := { id := 0, instr := i, pos := 0, kind := k, flag := none, path := some p, loadClass := load, scope := q.scope sc,
                 size := 32, lanes := [{ lane := 0, va, place := untranslated, data }] } } : MemWord)
    let set := place (.tidset n a sc o) (.tidset n) 0 true []
    let get := place (.tidget n a sc o) (.tidget n) 1 false (leBytes d.toNat 32)
    q.tensorBusy n.toNat = false →
    (va.toNat < 2 ^ 48 → va.toNat % 32 = 0 →
      (Issues s (.tidset n a sc o) u → PathRoom q (some 0) → s.translateLanes u .read set.op.lanes = .placed ls →
        exec (.tidset n a sc o) s = .next (s.taken u (.tidset n a sc o) .next (s.launchOp u q set ls))) ∧
      (Issues s (.tidget n a sc o) u → PathRoom q (some 1) → s.translateLanes u .write get.op.lanes = .placed ls →
        exec (.tidget n a sc o) s = .next (s.taken u (.tidget n a sc o) .next (s.launchOp u q get ls)))) ∧
    (a.toNat < 28 → q.plainB b = some y → Issues s (.tidcur n a b) u →
      (d.valid = true ∧ (q.sreg a.toNat).toNat < 2 ^ 20 ∧ y.toNat < 2 ^ 20 →
        ∃ t, exec (.tidcur n a b) s = .next (s.taken u (.tidcur n a b) .next t) ∧ t.squads.get? u.key = some q ∧
          ((s.teamOf q).isSome = true → t.tensor q n.toNat = y.extractLsb' 0 20 ++ (q.sreg a.toNat).extractLsb' 0 20 ++ d.extractLsb' 0 216)) ∧
      (d.valid = false ∨ 2 ^ 20 ≤ (q.sreg a.toNat).toNat ∨ 2 ^ 20 ≤ y.toNat →
        exec (.tidcur n a b) s = .next (s.trapAt u .tidbad (BitVec.ofNat 64 n.toNat)))) ∧
    (Issues s (.tidinv n) u → ∃ t, exec (.tidinv n) s = .next (s.taken u (.tidinv n) .next t) ∧
      (t.tensor q n.toNat).valid = false ∧ t.squads = s.squads ∧
      ∀ k, k < 32 → k ≠ n.toNat → t.tensor q k = s.tensor q k)

/-- R228: in a launch with work distribution, WGET returns the next tile of its team's share with the first and the last
iteration, FIX set when they do not cover the tile, and moves the share on; with none left it returns bit 63 alone. Without work
distribution it raises ILLOP. -/
def Obligations.WorkDistribution : Prop :=
  ∀ (s : State) (u : Issuer) (d : BitVec 5) (l : Launch) (g : Gang) (t : Team),
    s.launchOf u.squad = some l → s.gangOf u.squad = some g → s.teamOf u.squad = some t → Issues s (.wget d) u →
    let j := g.index * l.teams + t.index
    let lo := j * (l.tiles * l.iters) / (l.gangCount * l.teams)
    let hi := (j + 1) * (l.tiles * l.iters) / (l.gangCount * l.teams)
    let at_ := t.work.getD lo
    let tile := at_ / l.iters
    let stop := min hi ((tile + 1) * l.iters)
    let first := at_ % l.iters
    let last := stop - tile * l.iters
    (l.wdist = true → 0 < l.iters → at_ < hi →
      exec (.wget d) s = .next (s.taken u (.wget d) .next ((s.setTeam u.squad.team { t with work := some stop }).setSquad u.key
        (u.squad.setSreg d.toNat (BitVec.ofNat 64 (tile % 2 ^ 24 + first * 2 ^ 24 + last * 2 ^ 43 +
          if first = 0 ∧ last = l.iters then 0 else 2 ^ 62)))))) ∧
    (l.wdist = true → hi ≤ at_ →
      exec (.wget d) s = .next (s.taken u (.wget d) .next ((s.setTeam u.squad.team { t with work := some at_ }).setSquad u.key
        (u.squad.setSreg d.toNat 0x8000000000000000#64)))) ∧
    (l.wdist = false → exec (.wget d) s = .next (s.trapAt u .illop ((encodeWord (.wget d)).setWidth 64)))

/-! ## Matrix words -/

/-- R232, R239, R245 to R248: a matrix word that is ready takes effect; in a squad with nothing outstanding it becomes
outstanding with the elements of its operands read at issue and a part for each tile, its sub-arrays hold it behind what they
run, and with ADV the cursors of B, and of A in the tensor form, move on by the reduction extent. -/
def Obligations.MatrixWords : Prop :=
  ∀ (s : State) (u : Issuer) (sat adv inRegs : BitVec 1) (c : BitVec 3) (ta tb : BitVec 5) (i : Instr) (fresh wide : Bool)
    (t : Team) (slots : List Nat),
    (i, fresh, wide) ∈ matrixWords sat adv inRegs c ta tb → Issues s i u →
    MatrixReady s u fresh wide (inRegs == 1#1) c.toNat ta.toNat tb.toNat t slots →
    let q := u.squad
    let da := s.tensor q ta.toNat
    let db := s.tensor q tb.toNat
    let kb := db.fmt.kb
    let h := if wide then 64 else 32
    let sub := fun (n : Nat) => db.slice + db.col0 / 32 + n
    let share := ((s.launchOf q).map (·.stack)).getD 0 / 512
    ∃ r, exec i s = .next (s.taken u i .next r) ∧
      (q.ops = [] → s.sweeps = [] → s.squads.get? u.key = some q →
        (∃ q' o ops parts, r.squads.get? u.key = some q' ∧ q'.ops = [o] ∧ o.id = s.nextId ∧ o.instr = i ∧
          o.kind = .mma ops q.ftz (sat == 1#1) parts ∧ ops.b = (t.readB share db h kb).1 ∧
          (inRegs = 0#1 → ops.a = (t.readA da h kb).1) ∧
          parts.map (fun p => (p.sub, p.rowBase, p.colBase, p.fresh)) =
            (matrixParts wide c.toNat).map (fun p => (sub p.2.2, 32 * p.2.1, 32 * p.2.2, fresh)) ∧
          q'.sregs = q.sregs ∧ q'.vregs = q.vregs) ∧
        (∀ n, n < (if wide then 2 else 1) → (r.core q.core).subs.getD (sub n) [] =
          (s.core q.core).subs.getD (sub n) [] ++ [(u.key, s.nextId, 0)]) ∧
        (adv = 0#1 → r.teams = s.teams) ∧
        (adv = 1#1 → (inRegs = 1#1 ∨ ta ≠ tb) → r.tensor q tb.toNat = db.withCursor (db.row0 + kb) db.col0) ∧
        (adv = 1#1 → inRegs = 0#1 → ta ≠ tb → r.tensor q ta.toNat = da.withCursor da.row0 (da.col0 + kb)) ∧
        r.mem = s.mem)

/-- R241, R243, R249 to R251: ACCZ binds a fresh tile of zeros; ACCRD, ACCWR, ACCLD and ACCST become outstanding on the tiles of
their names, ACCLD on a fresh one; ACCFREE unbinds the names of its mask; ACCSTAT writes the tile's status word, 0 for an
unbound name. -/
def Obligations.AccumulatorWords : Prop :=
  ∀ (s : State) (u : Issuer) (d r tn : BitVec 5) (n : BitVec 3) (v : VSrc) (b : SSrc) (y : DWord) (slot : Nat)
    (ls : List LaneAccess),
    let q := u.squad
    let tile := at' q.accs n.toNat none
    let td := s.tensor q tn.toNat
    let path := fun (global : Nat) => if td.space = 1 then 2 else global
    let scope := if td.space = 1 then 1 else q.dscope
    let regionOk := td.valid = true ∧ td.space ≠ 2 ∧ td.row0 + 32 ≤ td.rows ∧ td.col0 + 32 ≤ td.cols ∧ td.stride % 4 = 0
    let op := fun (i : Instr) (k : OpKind) (load : Bool) =>
      ({ id := 0, instr := i, pos := 0, kind := k, flag := none, path := none, loadClass := load } : Op)
    s.ownerGate q = none → n.toNat < s.accCount q → q.plainB b = some y →
    (Issues s (.accz n b) u → s.freshSlots u.key q [y.toNat % 16] = .ok [slot] →
      exec (.accz n b) s = .next (s.taken u (.accz n b) .next ((s.bindTile u.key n.toNat slot false).onSquad u.key fun q => q))) ∧
    (Issues s (.accrd d n b) u → NamesReady s q [] [d.toNat] →
      exec (.accrd d n b) s = .next (s.taken u (.accrd d n b) .next (s.launchOp u q
        { op := op (.accrd d n b) (.accRead d tile (y.toNat % 32) u.lanes) true, dests := [d.toNat] } []))) ∧
    (∀ t, tile = some t → r.toNat < 28 → Issues s (.accwr n r v) u → NamesReady s q (v.names false) [] →
      exec (.accwr n r v) s = .next (s.taken u (.accwr n r v) .next (s.launchOp u q
        { op := op (.accwr n r v) (.accWrite t ((q.sreg r.toNat).toNat % 32) u.lanes (lanesOf (q.src 5 true v).lo)) false
          names := v.names false, rels := v.released false } []))) ∧
    (Issues s (.accld n tn b) u → q.tensorBusy tn.toNat = false → regionOk → td.fmt = .f32 ∨ td.fmt = .i32 →
      s.freshSlots u.key q [y.toNat % 16] = .ok [slot] → PathRoom q (some (path 0)) →
      (if td.space = 1 then ls = regionLanes td else s.translateLanes u .read (regionLanes td) = .placed ls) →
      exec (.accld n tn b) s = .next (s.taken u (.accld n tn b) .next ((s.launched u
        { op := { op (.accld n tn b) (.accLoad slot n td.fmt.isInt) true with
                  path := some (path 0), scope := scope, size := 4, lanes := regionLanes td } } ls).bindTile
        u.key n.toNat slot td.fmt.isInt))) ∧
    (Issues s (.accst n tn) u → q.tensorBusy tn.toNat = false → regionOk →
      td.fmt = (if (tile.bind fun x => (s.tile q.core x).map fun (z : Tile) => z.isInt).getD false then .i32 else .f32) →
      PathRoom q (some (path 1)) →
      (if td.space = 1 then ls = regionLanes td else s.translateLanes u .write (regionLanes td) = .placed ls) →
      exec (.accst n tn) s = .next (s.taken u (.accst n tn) .next (s.launched u
        { op := { op (.accst n tn) (.accStore tile) false with
                  path := some (path 1), scope := scope, size := 4, lanes := regionLanes td } } ls))) ∧
    (Issues s (.accfree b) u → (∀ k, k < 8 → has y k = true → k < s.accCount q) → q.ops = [] →
      exec (.accfree b) s = .next (s.taken u (.accfree b) .next
        (((List.range 8).filter fun k => has y k).foldl (fun s k => s.unbindTile u.key k) (s.setSquad u.key q)))) ∧
    (Issues s (.accstat d n) u →
      exec (.accstat d n) s = .next (s.taken u (.accstat d n) .next (s.spend.setSquad u.key
        (q.setSreg d.toNat (match tile with
          | none => 0
          | some t => s.tileStatus q t)))))

/-! ## Pass queues and barriers -/

/-- R162 to R165: with scratchpad for the queues, PQPUSH releases at team scope, writes its handle at the tail and uses one
allowance; PQPOP and PQTRY take the handle at the head; PQTRY gives all ones where PQPOP would wait; PQGIVE adds to an allowance
of the team while the queue's 64 entries cover it; a grant past them, or with too little scratchpad, raises PQFAULT. -/
def Obligations.PassQueueWords : Prop :=
  ∀ (s : State) (u : Issuer) (n : BitVec 3) (d a : BitVec 5) (b : SSrc) (y : DWord) (t : Team),
    s.teamOf u.squad = some t → a.toNat < 28 → u.squad.plainB b = some y →
    let q := u.squad
    let x := at' t.queues n.toNat {}
    let enough := 2048 ≤ s.scratchSize q
    let took := (s.setQueue q.team n.toNat t { x with
      head := (x.head + 1) % 64
      count := x.count - 1
      waiting := x.waiting.filter fun w => w != (u.key, u.split.id) }).setSquad u.key (q.setSreg d.toNat (t.entry n.toNat x.head))
    let p := s.performAll u.key
    let r := (p.release q.core (p.contextOf q) 1).scratchStore q.team (256 * n.toNat + 4 * x.tail)
      (leBytes (q.sreg a.toNat).toNat 4)
    (Issues s (.pqpush n a) u → enough → 0 < x.allowance q.sq → s.logFull q.core 1 = false → s.canPerform u.key →
      ∃ r', exec (.pqpush n a) s = .next (s.taken u (.pqpush n a) .next r') ∧
        (∀ k, r'.squads.get? k = r.squads.get? k) ∧ r'.mem = r.mem ∧
        ∀ t', r.teams.get? q.team = some t' → ∃ t'', r'.teams.get? q.team = some t'' ∧ t''.scratch = t'.scratch ∧
          (at' t''.queues n.toNat {}).tail = (x.tail + 1) % 64 ∧ (at' t''.queues n.toNat {}).count = x.count + 1 ∧
          (at' t''.queues n.toNat {}).allowance q.sq = x.allowance q.sq - 1) ∧
    (Issues s (.pqpop d n) u → enough → 0 < x.count → x.waiting = [] ∨ x.waiting.head? = some (u.key, u.split.id) →
      exec (.pqpop d n) s = .next (s.taken u (.pqpop d n) .next took)) ∧
    (Issues s (.pqtry d n) u → enough → exec (.pqtry d n) s = .next (s.taken u (.pqtry d n) .next
      (if 0 < x.count ∧ x.waiting = [] then took else s.setSquad u.key (q.setSreg d.toNat 0xFFFFFFFFFFFFFFFF#64)))) ∧
    (Issues s (.pqgive n a b) u → enough →
      (if (q.sreg a.toNat).toNat < ((s.launchOf q).map (·.squads)).getD 1 ∧ y.toNat + x.count + (x.allow.map (·.2)).sum ≤ 64 then
        exec (.pqgive n a b) s = .next (s.taken u (.pqgive n a b) .next ((s.setQueue q.team n.toNat t { x with
          allow := x.allow.set (q.sreg a.toNat).toNat (x.allowance (q.sreg a.toNat).toNat + y.toNat) }).setSquad u.key q))
      else exec (.pqgive n a b) s = .next (s.trapAt u .pqfault (BitVec.ofNat 64 n.toNat)))) ∧
    (∀ i, i ∈ [Instr.pqpush n a, .pqpop d n, .pqtry d n, .pqgive n a b] → Issues s i u → ¬ enough →
      exec i s = .next (s.trapAt u .pqfault (BitVec.ofNat 64 n.toNat)))

/-- R306 to R310, R313: at a barrier that its scope and number name (its router scope fixed), BARA and BARX of a
member that has not arrived release and arrive, and write the phase; BARW, and BARX after its arrival, pass once the phase has
turned and stall until then; BARJ joins and BARL releases and leaves; BARI sets the roster of an idle team or gang barrier. An
arrival of a squad that is no member, or has arrived, raises BARFAULT 1 or 2; one whose earlier accesses cannot be performed yet
stalls. The arrival that completes a team barrier's roster turns its phase and
empties its arrived set, and every split of the team that waits on it goes on; an arrival that does not leaves the phase. -/
def Obligations.Barriers : Prop :=
  (∀ (s r : State) (u : Issuer) (d : BitVec 5) (c : BitVec 3) (n : BitVec 4),
    let q := u.squad
    let C := c.toNat
    let N := n.toNat
    s.nameRouter q C N = .ok r →
    let x := r.barrier q C N
    let m := r.memberOf q
    let word : DWord := if x.phase then 1 else 0
    let p := r.performAll u.key
    let released := p.release q.core (p.contextOf q) C
    let arrived := (released.settleBarrier q C N (x.arrive m)).onSquad u.key fun q => q.setSreg d.toNat word
    let placed := arrived.onSplit u.key u.split.id fun p => { p with arrived := some x.phase }
    let pass := fun (i : Instr) (t : State) (token : Bool) =>
      if (t.barrier q C N).phase = token ∧ u.split.released = false then Host.Outcome.next (t.stall u (.barrier C N token))
      else .next (s.taken u i .next t)
    (m ∈ x.roster → m ∉ x.arrived → r.logFull q.core C = false → ¬ r.canPerform u.key → Issues s (.bara d c n) u →
      exec (.bara d c n) s = .next (p.stall u .memory)) ∧
    (m ∈ x.roster → m ∉ x.arrived → r.logFull q.core C = false → r.canPerform u.key →
      (Issues s (.bara d c n) u → exec (.bara d c n) s = .next (s.taken u (.bara d c n) .next arrived)) ∧
      (Issues s (.barx d c n) u → u.split.arrived = none → exec (.barx d c n) s = pass (.barx d c n) placed x.phase)) ∧
    (Issues s (.barw d c n) u → exec (.barw d c n) s = pass (.barw d c n) r (has (q.sreg d.toNat) 0)) ∧
    (∀ token, Issues s (.barx d c n) u → u.split.arrived = some token → exec (.barx d c n) s = pass (.barx d c n) s token) ∧
    (Issues s (.bara d c n) u →
      (m ∉ x.roster → exec (.bara d c n) s = .next (r.trapAt u .barfault (BitVec.ofNat 64 (N + C * 2 ^ 9 + 2 ^ 16)))) ∧
      (m ∈ x.roster → m ∈ x.arrived →
        exec (.bara d c n) s = .next (r.trapAt u .barfault (BitVec.ofNat 64 (N + C * 2 ^ 9 + 2 * 2 ^ 16))))) ∧
    (Issues s (.barj c n) u → C ≤ 2 → exec (.barj c n) s = .next (s.taken u (.barj c n) .next (r.setBarrier q C N (x.join m)))) ∧
    (Issues s (.barl c n) u → m ∉ x.roster → exec (.barl c n) s = .next (s.taken u (.barl c n) .next r)) ∧
    (Issues s (.barl c n) u → m ∈ x.roster → r.logFull q.core C = false → r.canPerform u.key →
      exec (.barl c n) s = .next (s.taken u (.barl c n) .next (released.leaveBarrier q C N))) ∧
    (Issues s (.bari d c n) u → x.arrived = [] → r.awaitedBarrier q C N = false →
      let squads := ((s.launchOf q).map (·.squads)).getD 1
      (C = 1 → (q.sreg d.toNat).toNat < 2 ^ squads →
        exec (.bari d c n) s = .next (s.taken u (.bari d c n) .next (s.setBarrier q C N { x with
          roster := ((List.range 32).filter fun k => has (q.sreg d.toNat) k).map
            fun k => 32 * ((s.teamOf q).map (·.index)).getD 0 + k }))) ∧
      (C = 2 → (q.sreg d.toNat).toNat < 2 ^ (((s.launchOf q).map (·.teams)).getD 1) →
        exec (.bari d c n) s = .next (s.taken u (.bari d c n) .next (s.setBarrier q C N { x with
          roster := (((List.range 8).filter fun k => has (q.sreg d.toNat) k).map fun t =>
            (List.range squads).map fun k => 32 * t + k).flatten }))))) ∧
  (∀ (s : State) (q : Squad) (n m : Nat) (t : Team), s.teamOf q = some t → n < 16 →
    let x := at' t.barriers n {}
    let after := s.settleBarrier q 1 n (x.arrive m)
    x.roster ≠ [] →
    ((∀ k, k ∈ x.roster ↔ k ∈ x.arrived ∨ k = m) →
      after.barrier q 1 n = { x with phase := !x.phase, arrived := [] } ∧
      ∀ k r p, s.squads.get? k = some r → r.team = q.team → p ∈ r.splits → (∃ token, p.wait = some (.barrier 1 n token)) →
        ∃ r', after.squads.get? k = some r' ∧ { p with wait := none, released := true } ∈ r'.splits) ∧
    ((∃ k ∈ x.roster, k ∉ x.arrived ∧ k ≠ m) →
      after.barrier q 1 n = { x with arrived := x.arrived ++ [m] } ∧ after.squads = s.squads))

/-! ## Operations that complete -/

/-- R26, R60, R150, R186, R188, R190, R217, R250, R251: when the data of a load-class operation arrives, the registers, the
tensor entry or the tile it names receive what its lanes read, narrow loads zero-extended, and the operation completes; nothing
else of the squad and no memory changes. A scalar load at squad, team or cluster scope that misses in an L1 with a free way leaves
its line valid there. -/
def Obligations.LoadsReturn : Prop :=
  ∀ (s : State) (k id : Nat) (q : Squad) (o : Op) (ext : List Byte), OpReady s k id q o →
    (∀ d, o.kind = .vload d → (o.lanes.map fun l => l.lane).Nodup → s.apart o.lanes → (∀ l ∈ o.lanes, (s.sees q o.scope o.size l).isSome = true) →
      ∃ t q', exec (.loadReturn k id ext) s = .next t ∧ Completes s t k id q o q' ∧ t.mem = s.mem ∧ t.teams = s.teams ∧
        q'.sregs = q.sregs ∧ q'.preds = q.preds ∧ q'.mode = q.mode ∧
        (∀ l ∈ o.lanes, ∀ b, l.lane < 32 → s.sees q o.scope o.size l = some b →
          q.holdsValue q' d.toNat o.size l.lane (leNat b)) ∧
        ∀ n i, n < 32 → i < 32 → n < d.toNat ∨ d.toNat + (o.size + 3) / 4 ≤ n ∨ (∀ l ∈ o.lanes, l.lane ≠ i) →
          lane (q'.vreg n) i = lane (q.vreg n) i) ∧
    (∀ d l b, o.kind = .sload d → o.lanes = [l] → l.lane = 0 →
      s.sees q o.scope o.size l = some b ∨ ((∃ va, l.place = .pod va) ∧ ext.length = o.size ∧ b = ext) →
      ∃ t q', exec (.loadReturn k id ext) s = .next t ∧ Completes s t k id q o q' ∧ t.mem = s.mem ∧ t.teams = s.teams ∧
        q'.sregs = (q.setSreg d.toNat (BitVec.ofNat 64 (leNat b))).sregs ∧ q'.vregs = q.vregs ∧ q'.preds = q.preds) ∧
    (∀ d l x w, o.kind = .sload d → o.lanes = [l] → l.lane = 0 → l.place = .memory x → o.scope ≤ 2 → x.nc = false →
      s.ownsFrame x → s.zpSet x = false → s.pinOf x = none → x.pa / 128 = (x.pa + o.size - 1) / 128 →
      let c := s.l1Core q.core x.pa
      (s.core c).lines.get? (x.pa / 128) = none → (s.core c).freeWay (x.pa / 128) = some w →
      ∃ t q', exec (.loadReturn k id ext) s = .next t ∧ Completes s t k id q o q' ∧ t.mem = s.mem ∧
        (∀ j, (t.core j).dirty = (s.core j).dirty) ∧
        (t.core c).lines.get? (x.pa / 128) = some { way := w, context := x.context } ∧
        q'.sregs = (q.setSreg d.toNat (BitVec.ofNat 64 (leNat ((List.range o.size).map fun i =>
          (s.dirtyByte c (x.pa + i)).getD (s.homeByte x.key (x.pa + i)))))).sregs) ∧
    (∀ d v, o.kind = .query d v →
      ∃ t q', exec (.loadReturn k id ext) s = .next t ∧ Completes s t k id q o q' ∧ t.mem = s.mem ∧
        q'.sregs = (q.setSreg d.toNat v).sregs) ∧
    (∀ n l b tm, o.kind = .tidset n → o.lanes = [l] → l.lane = 0 → s.sees q o.scope 32 l = some b → s.teamOf q = some tm →
      ∃ t q', exec (.loadReturn k id ext) s = .next t ∧ Completes s t k id q o q' ∧ t.mem = s.mem ∧
        t.tensor q n.toNat = installed (BitVec.ofNat 256 (leNat b)) (s.scratchSize q) (((s.launchOf q).map (·.stack)).getD 0) ∧
        ∀ j, j ≠ n.toNat → t.tensor q j = s.tensor q j) ∧
    (∀ d x row m, o.kind = .accRead d x row m →
      ∃ t q', exec (.loadReturn k id ext) s = .next t ∧ Completes s t k id q o q' ∧ t.mem = s.mem ∧
        ∀ i, i < 32 → (at' q.vregs d.toNat none).isSome = true →
          lane (q'.vreg d.toNat) i = if has m i then s.tileRow q.core x row i else lane (q.vreg d.toNat) i) ∧
    (∀ x y n b, o.kind = .accLoad x n b → s.tile q.core x = some y → y.retired = false → s.apart o.lanes →
      (∀ l ∈ o.lanes, (s.sees q o.scope 4 l).isSome = true) →
      ∃ t q' z, exec (.loadReturn k id ext) s = .next t ∧ Completes s t k id q o q' ∧ t.mem = s.mem ∧
        t.tile q.core x = some z ∧ z.isInt = y.isInt ∧ z.ovf = y.ovf ∧
        z.words = o.lanes.map fun l => BitVec.ofNat 32 (leNat ((s.sees q o.scope 4 l).getD [])))

/-- R60, R188, R218, R251, R277: when a store is performed, the bytes of its lanes, in lane order, stand at their locations and no
other byte has changed: at the home for a wide scope, dirty in the core's own L1 for a narrow one, or in a scratchpad, of the squad's
own team or of the team that a window address names. -/
def Obligations.StoresPerformed : Prop :=
  ∀ (s : State) (k id : Nat) (q : Squad) (o : Op), OpReady s k id q o → o.kind.storesLanes → o.releaseDone s →
    let data := s.laneData q o
    (∀ slot n, Memory.wf s.mem = true → (∀ l ∈ o.lanes, (data l).length = n) →
      (∀ l ∈ o.lanes, ∃ x, AtHome s o.scope n slot l x) → ApartFromLeaves o.lanes n →
      ∃ t q', exec (.writePerformed k id) s = .next t ∧ Completes s t k id q o q' ∧
        (∀ a, t.homeByte slot a = o.lanes.foldl (fun m l => overlay m l.pa (data l)) (s.homeByte slot) a) ∧
        (∀ other a, (∀ l ∈ o.lanes, ∀ b, inRange l.pa n b = true → a / 64 ≠ b / 64) → t.homeByte other a = s.homeByte other a) ∧
        Memory.wf t.mem = true ∧ t.teams = s.teams ∧ ∀ c, (t.core c).dirty = (s.core c).dirty) ∧
    (∀ slot n, o.scope ≤ 1 → (∀ l ∈ o.lanes, (data l).length = n) → (∀ l ∈ o.lanes, ∃ x, InL1 s q.core n slot l x) →
      ∃ t q', exec (.writePerformed k id) s = .next t ∧ Completes s t k id q o q' ∧ t.mem = s.mem ∧
        t.burstKey = s.burstKey ∧ t.teams = s.teams ∧
        ∀ c a, t.dirtyByte c a = o.lanes.foldl (fun m l => fun a =>
          if c = s.l1Core q.core l.pa ∧ inRange l.pa n a = true then (data l)[a - l.pa]? else m a) (s.dirtyByte c) a) ∧
    (∀ i, i = .writePerformed k id ∨ (o.isWindow = true ∧ i = .windowAccessAtTarget k id) →
      (∀ l ∈ o.lanes, ∃ x a tm, s.laneTeam q l = some (x, a) ∧ s.teams.get? x = some tm ∧ Memory.wf tm.scratch = true) →
      ∃ t q', exec i s = .next t ∧ Completes s t k id q o q' ∧ t.mem = s.mem ∧ (∀ c, (t.core c).dirty = (s.core c).dirty) ∧
        ∀ x tm, s.teams.get? x = some tm → ∃ tm', t.teams.get? x = some tm' ∧
          ∀ a, readByte tm'.scratch a = o.lanes.foldl (fun m l => match s.laneTeam q l with
            | some (y, p) => if y = x then overlay m p (data l) else m
            | none => m) (readByte tm.scratch) a)

/-- R160, R193, R250, R379: a store to another partition's frame completes and writes nothing; a window store to a team that holds another ticket is refused and raises GANGTKT; ACCWR writes one row of
its tile; CWB and CINV at cluster scope or wider write home what their core's L1 holds dirty of the pages of their range that
translate, CINV leaves none of their lines valid there, and at host and pod scope the L2s hold none of a page's lines dirty after
CWB and none at all after CINV; at narrower scopes they do nothing. -/
def Obligations.OtherWritesPerformed : Prop :=
  ∀ (s : State) (k id : Nat) (q : Squad) (o : Op), OpReady s k id q o →
    (∀ l i a, o.kind = .store → o.releaseDone s → o.lanes = [l] → l.place = .window i a → s.windowTeam q i = none →
      ∃ t q', exec (.windowAccessAtTarget k id) s = .next t ∧ Completes s t k id q o q' ∧ t.mem = s.mem ∧ t.teams = s.teams ∧
        q'.pending = q.pending ++ [⟨.gangtkt, BitVec.ofNat 64 i⟩]) ∧
    (∀ l x, o.kind = .store → o.releaseDone s → (∀ d a sc v, o.instr ≠ .vstrW d a sc v ∧ o.instr ≠ .vstrD d a sc v) → o.lanes = [l] →
      l.place = .memory x → s.foreign x = true → s.zpSet x = false →
      ∃ t q', exec (.writePerformed k id) s = .next t ∧ Completes s t k id q o q' ∧ t.mem = s.mem ∧ t.burstKey = s.burstKey ∧
        t.teams = s.teams ∧ ∀ c, (t.core c).dirty = (s.core c).dirty) ∧
    (∀ x row m v y, o.kind = .accWrite x row m v → s.tile q.core x = some y → y.retired = false →
      ∃ t q' z, exec (.writePerformed k id) s = .next t ∧ Completes s t k id q o q' ∧ t.mem = s.mem ∧
        t.tile q.core x = some z ∧
        ∀ e, e < 1024 → z.words.getD e 0 = if e / 32 = row ∧ has m (e % 32) = true then lane v (e % 32) else y.words.getD e 0) ∧
    (∀ inv first last, o.kind = .cache inv first last → o.scope < 2 →
      ∃ t q', exec (.writePerformed k id) s = .next t ∧ Completes s t k id q o q' ∧ t.mem = s.mem ∧
        ∀ c, (t.core c).dirty = (s.core c).dirty ∧ (t.core c).lines = (s.core c).lines) ∧
    (∀ inv first last, o.kind = .cache inv first last → 2 ≤ o.scope →
      let pages := s.pages (s.contextOf q) (first / 128 * 128) ((last + 127) / 128 * 128)
      let pa := fun (p : Nat × Nat × TlbEntry) => p.2.2.pa + (p.1 - p.2.2.va)
      ∃ t q', exec (.writePerformed k id) s = .next t ∧ Completes s t k id q o q' ∧
        (∀ p ∈ pages, ∀ c ∈ s.l1s q.core, (∀ e ∈ (t.core c).dirty, inRange (pa p) p.2.1 e.1 = false) ∧
          (inv = true → ∀ e ∈ (t.core c).lines, inRange (pa p) p.2.1 (128 * e.1 + 127) = false)) ∧
        (inv = false → ∀ c, ∀ e ∈ (s.core c).dirty, c ∉ s.l1s q.core ∨ (∀ p ∈ pages, inRange (pa p) p.2.1 e.1 = false) →
          e ∈ (t.core c).dirty) ∧
        (∀ p, pages = [p] → 5 ≤ o.scope → ∀ line x, inRange (pa p) p.2.1 (128 * line + 127) = true →
          t.fabric.l2.get? line = some x → inv = false ∧ x.dirty = false) ∧
        ∀ key, Memory.wf s.mem = true → inv = false →
          (∀ c ∈ s.l1s q.core, Tbl.sorted (s.core c).dirty = true ∧ ∀ e ∈ (s.core c).dirty, s.slotKey (s.leafSlot e.2.2) = key) →
          (∀ c ∈ s.l1s q.core, ∀ c' ∈ s.l1s q.core, c ≠ c' → ∀ e ∈ (s.core c).dirty, ∀ e' ∈ (s.core c').dirty, e.1 ≠ e'.1) →
          (∀ c ∈ s.l1s q.core, ∀ c' ∈ s.l1s q.core, ∀ e ∈ (s.core c).dirty, ∀ e' ∈ (s.core c').dirty, ∀ b,
            inRange e'.2.2 8 b = true → e.1 / 64 ≠ b / 64) →
          ∀ p ∈ pages, ∀ c ∈ s.l1s q.core, ∀ e ∈ (s.core c).dirty, inRange (pa p) p.2.1 e.1 = true →
            t.homeByte (s.leafSlot e.2.2) e.1 = e.2.1)

/-- R294, R298 to R300, R302: the lanes of an atomic are performed one after another, each indivisibly: its location takes the
operation's value, and the register it names the value read; a compare-and-swap that finds another value writes nothing. The
same at a window place, and for a lane whose host completes it; a host's refusal, or an atomic at a host address while the
function's AtomicOp Requester Enable is 0, gives 0, raises ACCESS and writes nothing. -/
def Obligations.AtomicsExecute : Prop :=
  ∀ (s : State) (k id : Nat) (q : Squad) (o : Op), OpReady s k id q o → o.kind.isAtomic = true → Memory.wf s.mem = true →
    (o.lanes.map fun l => l.lane).Nodup → (∀ l ∈ o.lanes, l.lane < 32) →
    (∀ d, o.kind = .compareSwap d → ∀ l ∈ o.lanes, l.data.length = 2 * o.size) →
    (∀ slot, (∀ l ∈ o.lanes, ∃ x, AtHome s (if isHost x.pa then 5 else o.scope) o.size slot l x ∧
        (isHost x.pa = true → s.atomicsOn x.pa = true) ∧
        (o.scope = 2 → ∀ line ∈ linesOf x.pa o.size, ((s.core (s.l1Core q.core (128 * line))).lines.get? line).isSome = true)) →
      ApartFromLeaves o.lanes o.size →
      let r := atomicRun o.kind o.size (o.lanes.map fun l => (l.pa, l.data)) (s.homeByte slot)
      ∃ t q', exec (.atomicExecute k id) s = .next t ∧ Completes s t k id q o q' ∧ (∀ a, t.homeByte slot a = r.2 a) ∧
        t.teams = s.teams ∧ q'.sregs = q.sregs ∧
        (∀ d, o.kind.atomicDest = some d → ∀ x ∈ o.lanes.zip r.1, q.holdsValue q' d.toNat o.size x.1.lane (leNat x.2)) ∧
        (o.kind.atomicDest = none → q'.vregs = q.vregs)) ∧
    (∀ slot l x, o.lanes = [l] → InL1 s q.core o.size slot l x → o.scope ≤ 1 → isHost x.pa = false →
      ∃ t q' old, exec (.atomicExecute k id) s = .next t ∧ Completes s t k id q o q' ∧ t.mem = s.mem ∧
        s.sees q o.scope o.size l = some old ∧
        (∀ d, o.kind.atomicDest = some d → q.holdsValue q' d.toNat o.size l.lane (leNat old)) ∧
        ∀ c a, t.dirtyByte c a = match atomicBytes o.kind o.size old l.data with
          | some new => if c = s.l1Core q.core x.pa ∧ inRange x.pa o.size a = true then new[a - x.pa]? else s.dirtyByte c a
          | none => s.dirtyByte c a) ∧
    (∀ l x a tm, o.lanes = [l] → o.isWindow = true → s.laneTeam q l = some (x, a) → s.teams.get? x = some tm →
      Memory.wf tm.scratch = true →
      let old := readBytes tm.scratch a o.size
      ∃ t q' tm', exec (.windowAccessAtTarget k id) s = .next t ∧ Completes s t k id q o q' ∧ t.mem = s.mem ∧
        t.teams.get? x = some tm' ∧
        (∀ d, o.kind.atomicDest = some d → q.holdsValue q' d.toNat o.size l.lane (leNat old)) ∧
        ∀ b, readByte tm'.scratch b = (match atomicBytes o.kind o.size old l.data with
          | some new => overlay (readByte tm.scratch) a new
          | none => readByte tm.scratch) b) ∧
    (∀ l x, o.lanes = [l] → l.place = .memory x → isHost x.pa = true → s.atomicsOn x.pa = false → s.zpSet x = false →
      ∃ t q', exec (.atomicExecute k id) s = .next t ∧ Completes s t k id q o q' ∧ t.mem = s.mem ∧
        q'.pending = q.pending ++ [⟨.access, l.va⟩] ∧
        ∀ d, o.kind.atomicDest = some d → q.holdsValue q' d.toNat o.size l.lane 0) ∧
    (∀ l x, o.lanes = [l] → l.place = .memory x → isHost x.pa = true → s.atomicsOn x.pa = true → s.ownsFrame x → s.zpSet x = false →
      s.cleanLines x.pa o.size →
      let r := atomicRun o.kind o.size [(x.pa, l.data)] (s.homeByte x.key)
      (∃ t q', exec (.hostAtomicopCompletion k id l.lane true) s = .next t ∧ Completes s t k id q o q' ∧
        (∀ a, t.homeByte x.key a = r.2 a) ∧
        ∀ d, o.kind.atomicDest = some d → ∀ b ∈ r.1, q.holdsValue q' d.toNat o.size l.lane (leNat b)) ∧
      ∃ t q', exec (.hostAtomicopCompletion k id l.lane false) s = .next t ∧ Completes s t k id q o q' ∧ t.mem = s.mem ∧
        q'.pending = q.pending ++ [⟨.access, l.va⟩] ∧
        ∀ d, o.kind.atomicDest = some d → q.holdsValue q' d.toNat o.size l.lane 0)

/-- R93, R160, R186, R210, R211, R232, R245, R252, R288, R402: a refused pod-window access raises ACCESS with its address; a
deposit writes its lanes at the target and counts there, and one whose target squad has ended is discarded and counted; a
promotion request returns the word and what it promoted, and empties the target's log of the context; a service call takes its
reply, or all ones at its timeout; and a matrix operation leaves each of its tiles with the products summed, from the k-step at
which a halt stopped the part, and its sub-arrays. -/
def Obligations.RepliesAndDeposits : Prop :=
  ∀ (s : State) (k id : Nat) (q : Squad) (o : Op),
    (∀ l va, OpReady s k id q o → o.kind = .store ∨ (∃ d, o.kind = .vload d) ∨ (∃ d, o.kind = .sload d) → o.releaseDone s →
      o.lanes = [l] → l.place = .pod va →
      ∃ t q', exec (.podAccessRefused k id l.lane) s = .next t ∧ Completes s t k id q o q' ∧ t.mem = s.mem ∧ t.out = s.out ∧
        q'.pending = q.pending ++ [⟨.access, l.va⟩]) ∧
    (∀ n team sq m v tk target q2, OpReady s k id q o → o.kind = .deposit n team sq m v →
      (∀ x ∈ q.ops.takeWhile (fun x => x.id != id), ∀ n' m' v', x.kind ≠ .deposit n' team sq m' v') →
      s.depositTarget q team sq = some (tk, some target) →
      ((s.teams.get? tk).bind fun x => (s.gangs.get? x.gang).map fun g => g.ticket) = (s.gangOf q).map (·.ticket) →
      s.squads.get? target = some q2 → has q2.awaited n.toNat = false →
      (∀ q3, (s.depositLeaves k id).squads.get? target = some q3 → q3.needsNew n.toNat = true →
        (s.depositLeaves k id).canTake q3 1 = true) →
      ∃ t q2', exec (.depositArrival k id) s = .next t ∧ t.squads.get? target = some q2' ∧ q2'.arrv = q2.arrv + 1 ∧
        (∀ i, i < 32 → lane (q2'.vreg n.toNat) i = if has m i then lane v i else lane (q2.vreg n.toNat) i) ∧
        (∀ j, j < 32 → j ≠ n.toNat → q2'.vreg j = q2.vreg j) ∧ q2'.sregs = q2.sregs ∧
        ∃ q', t.squads.get? k = some q' ∧ ∀ x ∈ q'.ops, x.id = id → x.finished = true) ∧
    (∀ n team sq m v tk, OpReady s k id q o → o.kind = .deposit n team sq m v →
      (∀ x ∈ q.ops.takeWhile (fun x => x.id != id), ∀ n' m' v', x.kind ≠ .deposit n' team sq m' v') →
      s.depositTarget q team sq = some (tk, none) →
      ((s.teams.get? tk).bind fun x => (s.gangs.get? x.gang).map fun g => g.ticket) = (s.gangOf q).map (·.ticket) →
      ∃ t q', exec (.depositArrival k id) s = .next t ∧ t.squads.get? k = some q' ∧ (∀ x ∈ q'.ops, x.id = id → x.finished = true) ∧
        (t.core q.core).perf.getD perfDeposit 0 = (s.core q.core).perf.getD perfDeposit 0 + 1 ∧
        ∀ j, j ≠ k → t.squads.get? j = s.squads.get? j) ∧
    (∀ d core scope l b, OpReady s k id q o → o.kind = .acqp d core scope → o.lanes = [l] → l.lane = 0 →
      let n := ((s.core core).log.filter fun e => e.context == logContext (s.contextOf q)).length
      let st := if n ≠ 0 then 0 else if s.residentOn core (s.contextOf q) then 1 else 2
      (s.promote (s.contextOf q) core).1.sees q (promotionScope scope q.core core) 4 l = some b →
      ∃ t q', exec (.promotionRequest k id) s = .next t ∧ Completes s t k id q o q' ∧
        q'.sregs = (q.setSreg d.toNat (BitVec.ofNat 64 (leNat b % 2 ^ 32 + st * 2 ^ 32 + n % 256 * 2 ^ 40))).sregs ∧
        ∀ e ∈ (t.core core).log, e.context ≠ logContext (s.contextOf q)) ∧
    (∀ d r x vf iface, s.squads.get? k = some q → (q.ops.map fun y => y.id).Nodup → o ∈ q.ops → o.id = id → o.finished = false →
      o.kind = .svc d r x none → q.halted = false →
      ((∃ y ∈ s.services, y.2.2.1 = k ∧ y.2.2.2 = id ∧ s.callSent y = true) →
        ∃ t q', exec (.svcTimeout k id) s = .next t ∧ Completes s t k id q o q' ∧
          q'.sregs = (q.setSreg d.toNat 0xFFFFFFFFFFFFFFFF#64).sregs ∧ ∀ y ∈ t.services, y.2.2.1 = k → y.2.2.2 ≠ id) ∧
      ∀ (v : DWord) (idx : Word),
        (s.services.find? fun y => y.1 == vf * 64 + iface && y.2.1 == idx.toNat % 65536) =
          some (vf * 64 + iface, idx.toNat % 65536, k, id) →
        ∃ t q', exec (.serviceReply vf iface v idx) s = .next t ∧ Completes s t k id q o q' ∧
          q'.sregs = (q.setSreg d.toNat v).sregs ∧ ∀ y ∈ t.services, y.2.2.1 = k → y.2.2.2 ≠ id) ∧
    (∀ ops ftz sat parts core sub part, OpReady s k id q o → o.kind = .mma ops ftz sat parts → q.core = core →
      ((s.core core).subs.getD sub []).head? = some (k, id, part) →
      (∀ p ∈ parts, ∀ x, ((s.core core).subs.getD p.sub []).head? = some x → x.1 = k ∧ x.2.1 = id) →
      (∀ p ∈ parts, p.finished = false) → (parts.map fun p => p.tile).Nodup →
      ∃ t q', exec (.mmaComplete core sub) s = .next t ∧ Completes s t k id q o q' ∧ t.mem = s.mem ∧
        (∀ n, ∀ x ∈ (t.core core).subs.getD n [], x.1 = k → x.2.1 ≠ id) ∧
        ∀ p ∈ parts, ∀ y, s.tile core p.tile = some y → y.retired = false → ∃ z, t.tile core p.tile = some z ∧
          z.isInt = y.isInt ∧
          ∀ e, e < 1024 →
            let row := p.rowBase + e / 32
            let col := p.colBase + e % 32
            let incoming := if p.fresh then none else some (y.words.getD e 0)
            z.words.getD e 0 = BitVec.ofNat 32 (
              if p.steps = 0 then ops.element ftz sat ops.fmtA.kb row col incoming
              else ops.resumed ftz sat ops.fmtA.kb row col incoming (p.steps * (ops.fmtA.kb / 32)) (p.cells.getD e 0)).1)

/-! ## Lines, pages, logs and regions -/

/-- R148, R183, R255, R277, R286, R290, R295: a line that the device moves or that is recalled goes home with its value; the
first write to a page with ZP set starts a sweep that leaves the page zero under its key, and its end clears ZP and drops the page's
translations, in the TLBs of the cores and of their quarters; a full release log promotes its oldest entry, and the entries of a
context that has left or halted are promoted, so that no write of their cuts stays dirty; the highest draining way leaves the L1
and its sector joins the scratchpad region; a first use gives the tiles to the context that waits, and spills another's to its
image. -/
def Obligations.LinesPagesAndLogs : Prop :=
  ∀ (s : State) (core line : Nat), Memory.wf s.mem = true →
    (∀ i key, i = .eviction core line ∨ i = .ownershipRecall core line → Tbl.sorted (s.core core).dirty = true →
      (∀ e ∈ (s.core core).dirty, s.slotKey (s.leafSlot e.2.2) = key) →
      ∃ t, exec i s = .next t ∧ t.squads = s.squads ∧ t.teams = s.teams ∧
        (t.core core).dirty = (s.core core).dirty.filter (fun e => e.1 / 128 != line / 128) ∧
        (∀ c, c ≠ core → t.core c = s.core c) ∧
        (∀ e ∈ (s.core core).dirty, e.1 / 128 = line / 128 → t.homeByte (s.leafSlot e.2.2) e.1 = e.2.1) ∧
        ∀ slot a, s.slotKey slot = key → a / 128 ≠ line / 128 ∨ s.dirtyByte core a = none → t.homeByte slot a = s.homeByte slot a) ∧
    (∀ k id q o l rest x, OpReady s k id q o → o.kind.writesMemory = true → o.lanes = l :: rest → l.place = .memory x →
      s.zpSet x = true → 0 < x.size → x.size % 64 = 0 →
      let base := x.pa - x.pa % x.size
      ∃ t, exec (.zpSweep k id) s = .next t ∧ t.squads = s.squads ∧
        t.sweeps = [⟨x.leaf, base, x.size, x.key, contextVf (s.contextOf q), [(k, id)]⟩] ∧
        (∀ slot a, inRange base x.size a = false → t.homeByte slot a = s.homeByte slot a) ∧
        (∀ slot a, inRange base x.size a = true → s.slotKey slot = s.slotKey x.key ∨ isHbm a = false → t.homeByte slot a = 0) ∧
        ∀ c, ∀ e ∈ (t.core c).dirty, inRange base x.size e.1 = false) ∧
    (∀ page w, (s.sweeps.find? fun w => w.base == page) = some w →
      ∃ e, exec (.zpSweepEnd page) s =
          .next (w.waiting.foldl (fun s x => (s.performEarlier x.1 (some x.2)).performEach x.1 [x.2]) e) ∧
        e.sweeps = s.sweeps.erase w ∧ e.squads = s.squads ∧ (e.homeWord 0 w.leaf).testBit 9 = false ∧
        ∀ c, (∀ x ∈ (e.core c).tlb, x.leaf2 ≠ w.leaf) ∧
          ∀ n, n < 4 → ∀ x ∈ (at' (e.core c).quarters n {}).tlb, x.leaf2 ≠ w.leaf) ∧
    (∃ t, exec (.eagerPromotion core) s = .next t ∧ t.squads = s.squads ∧
      (∀ e rest, (s.core core).log = e :: rest → 64 ≤ (s.core core).log.length →
        (t.core core).log = rest ∧ ∀ c, ∀ x ∈ (t.core c).dirty, x.1 ∉ e.cut) ∧
      ((s.core core).log.length < 64 → t = s)) ∧
    (∀ ctx, ∃ t, exec (.noResidentDrain core ctx) s = .next t ∧ t.squads = s.squads ∧
      (s.residentOn core ctx = false →
        (t.core core).log = (s.core core).log.filter (fun e => e.context != logContext ctx) ∧
        ∀ e ∈ (s.core core).log, e.context = logContext ctx → ∀ c, ∀ x ∈ (t.core c).dirty, x.1 ∉ e.cut) ∧
      (s.residentOn core ctx = true → t = s)) ∧
    (∀ ctx gk g tk tm, s.gangs.get? gk = some g → g.phase = .halted → (tk, tm) ∈ s.teams → tm.gang = gk → tm.core = core →
      logContext (s.gangContext g) = logContext ctx →
      ∃ t, exec (.releaseLogDrain core ctx) s = .next t ∧ t.squads = s.squads ∧
        (t.core core).log = (s.core core).log.filter (fun e => e.context != logContext ctx) ∧
        ∀ e ∈ (s.core core).log, e.context = logContext ctx → ∀ c, ∀ x ∈ (t.core c).dirty, x.1 ∉ e.cut) ∧
    (Tbl.sorted (s.core core).lines = true → 1 < (s.core core).draining ∨ ((s.core core).draining = 1 ∧ s.drainAwaited core = true) →
      let way := 15 - (s.core core).sectors
      ∃ t, exec (.sectorJoin core) s = .next t ∧ t.squads = s.squads ∧ t.teams = s.teams ∧
        (t.core core).sectors = min 14 ((s.core core).sectors + 1) ∧ (t.core core).draining = (s.core core).draining - 1 ∧
        (t.core core).lines = (s.core core).lines.filter (fun e => e.2.way != way) ∧
        ∀ e ∈ (t.core core).dirty, ∀ l, (s.core core).lines.get? (e.1 / 128) = some l → l.way ≠ way) ∧
    (∀ k q, (s.squadsOn core).find? (fun e => e.2.splits.any fun p => p.wait == some .firstUse) = some (k, q) →
      let ctx := logContext (s.contextOf q)
      ((∀ x ∈ (s.core core).tiles, x.2.context = ctx) →
        ∃ t, exec (.firstUseEvent core) s = .next t ∧ t.squads = s.squads ∧ (t.core core).aown = ownerWord (s.contextOf q) ∧
          (t.core core).tiles = (s.core core).tiles) ∧
      ∀ slot y n tk x g l m, (s.core core).tiles.filter (fun e => e.2.context != ctx) = [(slot, y)] →
        Tbl.sorted (s.core core).tiles = true → y.deferred = some n →
        s.saved.find? (fun e => e.2.squads.any fun p => p.1 == y.squad) = some (tk, x) → s.gangs.get? x.team.gang = some g →
        s.launches.get? g.launch = some l → s.writeWaits core 9 [y.squad] = false →
        let clean := { y with deferred := none }
        let place := (s.savedTiles x).findIdx fun z => z.2.2.1 == slot && z.2.1 == n
        let sq := ((x.squads.find? fun e => e.1 == y.squad).map fun e => e.2.sq).getD 0
        let va := s.saveBase l.context + 4096 * g.teamPage l x.team.index + (imageFront g l x).length + 4112 * place
        s.spansWrite l.context deviceCore 4 (pageSpans va 4112) (tileRecord n sq slot false clean) = (m, .ok ()) →
        ∃ t, exec (.firstUseEvent core) s = .next t ∧ t.saved.get? tk = some { x with tiles := x.tiles ++ [(y.squad, n, clean)] } ∧
          (t.core core).tiles = (m.core core).tiles.erase slot)

/-! ## Translation and the accesses of others -/

/-- R173 to R175, R180, R181: a table walk puts a translation that serves the access at the front of the TLBs of the core and of
the squad's quarter, or leaves its fault with the split; a RETRY whose lanes now translate issues the captured word with them and
frees the entry, and one of a fetch lets the split go on; FAIL, DENY and the timeout free the entry and raise XLATE, ACCESS and
XLATE at the word, which has no effect; the timeout runs from the moment the record is appended (R401), so none ends one that still
waits in the device; a response of an agent without the right is ignored. -/
def Obligations.WalksAndAnswers : Prop :=
  ∀ (s : State) (die core e : Nat) (q : Squad) (p : Split),
    (∀ w ws, (s.die die).walks = w :: ws → s.squads.get? w.squad = some q →
      let ctx := s.contextOf q
      let s1 := (s.setDie die { s.die die with walks := ws }).payWalk ctx die (contextVf ctx) (contextIface ctx) w.va
      (∀ s2 x, s1.walk (contextVf ctx) (contextIface ctx) w.va w.kind false = (s2, .ok x) →
        ∃ t, exec (.tableWalk die) s = .next t ∧ (t.die die).walks = ws ∧ t.squads = s.squads ∧ t.mem = s2.mem ∧
          (t.core q.core).tlb.head? = some x ∧ (q.quarter < 4 → (at' (t.core q.core).quarters q.quarter {}).tlb.head? = some x) ∧
          x.serves (contextVf ctx) (contextIface ctx) w.va w.kind = true) ∧
      (∀ s2 f, s1.walk (contextVf ctx) (contextIface ctx) w.va w.kind false = (s2, .error f) → q.split? w.split = some p →
        ∃ t q', exec (.tableWalk die) s = .next t ∧ (t.die die).walks = ws ∧ t.squads.get? w.squad = some q' ∧
          q'.split? w.split = some { p with walked := some (w.va, f) })) ∧
    (∀ who fid, s.mayAnswer who = false → ∀ i ∈ [Instr.faultRetry who fid, .faultFail who fid, .faultDeny who fid],
      exec i s = .next s) ∧
    (∀ who fid x, s.mayAnswer who = true → s.faultNamed who (BitVec.toNat (w := 16) fid) = some (core, e, x) →
      s.squads.get? x.squad = some q → x.split < 4 → q.split? x.split = some p → Tbl.sorted (s.core core).faults = true →
      let s0 := s.setReg (responseRegister who) (BitVec.ofNat 64 fid.toNat)
      (∀ o s1 ls, x.op = some o → (∀ n a b, o.kind ≠ .accLoad n a b) →
        s0.retryLanes q (s0.contextOf q) x.kind o.lanes = (s1, .ok ls) →
        (∀ q2, ((s1.dropFault core e).unpark x.squad).squads.get? x.squad = some q2 →
          ((s1.dropFault core e).unpark x.squad).canTake q2 (x.dests.filter q2.needsNew).length = true) →
        ∃ t q' o', exec (.faultRetry who fid) s = .next t ∧ (t.core core).faults.get? e = none ∧
          t.squads.get? x.squad = some q' ∧ q'.parked = none ∧ o' ∈ q'.ops ∧ o'.lanes = ls ∧ o'.kind = o.kind ∧
          o'.flag = o.flag ∧ o'.path = o.path ∧ (∀ y ∈ q.ops, y ∈ q'.ops) ∧
          (q'.split? x.split).map (·.pos) = some (p.after (wordsOf o.instr))) ∧
      (∀ s1 ls, x.op = none →
        s0.retryLanes q (s0.contextOf q) .fetch [{ lane := 0, va := x.va, place := .pod 0 }] = (s1, .ok ls) →
        ∃ t q', exec (.faultRetry who fid) s = .next t ∧ (t.core core).faults.get? e = none ∧
          t.squads.get? x.squad = some q' ∧ q'.parked = none ∧ ∀ y ∈ q'.splits, y.wait ≠ some .parked) ∧
      (q.active = false → headerOf q.tvec ≠ 0 → ∀ i c,
        (i, c) ∈ [(Instr.faultFail who fid, 0x09#6), (.faultDeny who fid, 0x0A#6)] →
        ∃ t q', exec i s = .next t ∧ (t.core core).faults.get? e = none ∧ t.squads.get? x.squad = some q' ∧
          q'.parked = none ∧ q'.active = true ∧ q'.tcause = c ∧ q'.tval = x.va ∧ q'.tpc = p.pos ∧ q'.tmask = p.mask ++ p.mask ∧
          q'.ops = q.ops ∧ q'.sregs = q.sregs ∧ q'.vregs = q.vregs ∧ t.mem = s.mem)) ∧
    (∀ x, (s.core core).faults.get? e = some x → s.squads.get? x.squad = some q → x.split < 4 → q.split? x.split = some p →
      Tbl.sorted (s.core core).faults = true → q.active = false → headerOf q.tvec ≠ 0 → s.unsent x = false →
      ∃ t q', exec (.faultTimeout core e) s = .next t ∧ (t.core core).faults.get? e = none ∧ t.squads.get? x.squad = some q' ∧
        q'.parked = none ∧ q'.active = true ∧ q'.tcause = 0x09#6 ∧ q'.tval = x.va ∧ q'.tpc = p.pos ∧ t.mem = s.mem) ∧
    (∀ x, (s.core core).faults.get? e = some x → s.unsent x = true → exec (.faultTimeout core e) s = .next s)

/-- R183 to R185, R292, R294, R381, R404, R407: a CLAIM past its last page returns its three counts; before that, a step deals with
the page that holds the next address, which it counts as home or skipped or takes a frame for and locks (or waits for the CLAIM that
has locked it), and the step after swaps the leaf of the locked page and counts it as moved where the leaf is still the one read and
the return queue has room, and as skipped otherwise (the two halves are the model's reading, log 98). A peer's access whose handle,
peer, generation, extent and permission agree with the export entry is performed through the exporting interface where a link of the
group leads to the peer, an atomic answering with the old bytes, and one that fails a check is refused with no other effect; host
software's write stands at the home and its read gives the home's bytes, under the key slot of the leaf that maps the address (log
34), after the tiles deferred to a save area that it reads have been spilled; the port refuses a slot that has an owner. -/
def Obligations.ClaimsPeersAndHost : Prop :=
  (∀ (s : State) (k id : Nat) (q : Squad) (o : Op) (d : BitVec 5) (next last moved home skipped : Nat), OpReady s k id q o →
    o.kind = .claim d next last moved home skipped →
    (last ≤ next → s.fabric.locks.get? id = none →
      ∃ t q', exec (.claimPageMove k id) s = .next t ∧ Completes s t k id q o q' ∧ t.mem = s.mem ∧
        q'.sregs = (q.setSreg d.toNat
          (BitVec.ofNat 64 (skipped % 2 ^ 20 + home % 2 ^ 20 * 2 ^ 20 + moved % 2 ^ 24 * 2 ^ 40))).sregs) ∧
    (next < last → s.fabric.locks.get? id = none →
      let r := s.claimLock (s.contextOf q) (dieOf q.core) next id
      (r.2.2 = .skipped ∨ r.2.2 = .home →
        ∃ t q', exec (.claimPageMove k id) s = .next t ∧ t.mem = r.1.mem ∧ t.parts = r.1.parts ∧ t.squads.get? k = some q' ∧
          q'.sregs = q.sregs ∧ (∀ x ∈ q.ops, x.id ≠ id → x ∈ q'.ops) ∧
          ∃ y ∈ q'.ops, y.id = id ∧ y.kind = .claim d (next - next % r.2.1 + r.2.1) last moved
            (home + if r.2.2 = .home then 1 else 0) (skipped + if r.2.2 = .skipped then 1 else 0)) ∧
      (r.2.2 = .locked ∨ r.2.2 = .waits → exec (.claimPageMove k id) s = .next r.1) ∧
      (r.2.2 = .locked → (r.1.fabric.locks.get? id).isSome = true ∧ r.1.mem = s.mem)) ∧
    (∀ l, s.fabric.locks.get? id = some l →
      let r := s.claimSwap (s.contextOf q) id
      let s0 := s.recall none l.leaf 8
      (r.2 = true ↔ withoutMarks (s0.homeWord l.slot l.leaf) = withoutMarks l.entry ∧
        ((s0.parts.getD l.vf {}).returned.getD l.die []).length < 8192) ∧
      ∀ q1 o1, r.1.op? k id = some (q1, o1) → o1.kind = o.kind →
        ∃ t q', exec (.claimPageMove k id) s = .next t ∧ t.mem = r.1.mem ∧ t.parts = r.1.parts ∧ t.squads.get? k = some q' ∧
          q'.sregs = q1.sregs ∧ ∃ y ∈ q'.ops, y.id = id ∧ y.kind = .claim d (next - next % l.size + l.size) last
            (moved + if r.2 then 1 else 0) home (skipped + if r.2 then 0 else 1))) ∧
  (∀ (s : State) (data : List Byte),
    (∀ (peer : Nat) (h : Word) (off : Nat) (access : PeerAccess),
      let vf := (h.extractLsb' 8 5).toNat
      let e := s.exportEntry vf (h.extractLsb' 0 8).toNat
      let n := match access with
        | .atomic fn et => (peerAtomic fn et data).2
        | _ => data.length
      let passes := s.reachesPeer peer = true ∧ e.valid = true ∧ e.peer = peer ∧ e.gen = (h.extractLsb' 13 19).toNat ∧
        e.iface < 64 ∧ off + n ≤ e.len ∧ (access ≠ .read → e.writable = true) ∧ (access ≠ .write → e.readable = true)
      let ctx := (s.contextsIn vf e.iface).headD (contextKey vf e.iface 0)
      let i := Instr.incomingPodAccess peer h off access data
      (passes → access = .write → ∀ t, s.devWrite ctx (e.va + off) data = (t, true) → exec i s = .next t) ∧
      (passes → access = .read → ∀ t b, s.devRead ctx (e.va + off) data.length = (t, some b) →
        exec i s = .next { t with out := t.out ++ [.data b] }) ∧
      (∀ fn et t r old, passes → access = .atomic fn et →
        let k := peerAtomic fn et data
        (s.devRecall ctx (e.va + off) k.2).devRead ctx (e.va + off) k.2 = (t, some old) →
        t.devWrite ctx (e.va + off) ((atomicBytes k.1 k.2 old data).getD old) = (r, true) →
        exec i s = .next { r with out := r.out ++ [.data old] }) ∧
      (¬ passes → exec i s = .next { s with out := s.out ++ [.podRefused peer] })) ∧
    (∀ addr,
      let slot := if isHbm addr then ((s.leafOver addr).map fun l => keySlot (s.homeWord 0 l)).getD 0 else 0
      let r := s.spillForRead addr data.length
      (∀ write, has (s.reg (packageBase + 0x1000 + 8 * slot)) 0 = true →
        exec (.hostAccess addr write data) s = .next { s with out := s.out ++ [.hostRefused addr] }) ∧
      (has (s.reg (packageBase + 0x1000 + 8 * slot)) 0 = false →
        exec (.hostAccess addr false data) s = .next { r with out := r.out ++ [.data (r.homeBytes slot addr data.length)] } ∧
        (Memory.wf s.mem = true → (∀ c, ∀ e ∈ (s.core c).dirty, inRange addr data.length e.1 = false) →
          ∃ t, exec (.hostAccess addr true data) s = .next t ∧ (∀ a, t.homeByte slot a = overlay (s.homeByte slot) addr data a) ∧
            t.squads = s.squads ∧ t.teams = s.teams ∧ t.cores = s.cores)) ∧
      ((∀ e ∈ s.cores, ∀ x ∈ e.2.tiles, x.2.deferred = none) → r = s)))

/-! ## Engines -/

/-- R220, R222, R223, R415: the copy and gather engines run a port's oldest command, a block at a time, which is whole rows or a part
of one wide row: one whose checks fail ends with their status and no row done, and one with an index past its tensor with BOUNDS; one
that passes and has no row left ends OK, and else does its block, ends OK with its last
row, and before that gives the block's tokens back and has no record yet; a row that meets ACCESS ends it with status 2 and the rows
done before; and a command that ends otherwise than OK raises ENGINE with its record. -/
def Obligations.EngineCommands : Prop :=
  ∀ (s : State) (k : Nat) (q : Squad) (j : Nat) (c : Command) (ix : List Int) (i : Instr) (port code status : Nat)
    (row : State → Nat → RowPart → State × Except EngStop Unit),
    EngineStep k c q (s.scratchSize q) ix i port code status row → CommandReady s k port code q j c →
    (status ≠ 0 → ∃ t q', exec i s = .next t ∧ HasRecord t k port j c status 0 ∧ t.squads.get? k = some q' ∧
      q'.pending = q.pending ++ [⟨.engine, c.result status 0⟩] ∧ q'.sregs = q.sregs ∧ q'.vregs = q.vregs) ∧
    (∀ s1, status = 0 → port = 1 → s.indices q c = (s1, .ok ix) → (∃ r ∈ ix, ((if code = 0x11 then c.dst.rows else c.src.rows : Nat) : Int) ≤ r) →
      ∃ t, exec i s = .next t ∧ HasRecord t k port j c 5 0 ∧ t.teams = s.teams) ∧
    (∀ s1 s2, status = 0 →
      (port = 0 ∧ s2 = s ∨ port = 1 ∧ s.indices q c = (s1, .ok ix) ∧ (∀ r ∈ ix, r < if code = 0x11 then c.dst.rows else c.src.rows) ∧
        s2 = s1.onCommand k port j fun c => { c with index := some ix }) →
      let s3 := s2.onCommand k port j fun c => { c with upto := c.blockEnd, translate := false }
      let part := c.rowPart c.rows
      let rows := rowsFrom (fun s r => row s r (c.rowPart r)) s3 c.rows
      (c.nrows ≤ c.rows → (port = 1 → s1.squads = s.squads) → ∃ t, exec i s = .next t ∧ HasRecord t k port j c 0 c.rows) ∧
      (∀ t, c.rows < c.nrows → part.last = true → rows (c.blockEnd - c.rows) = some t → t.squads = s3.squads →
        (c.nrows ≤ c.blockEnd → ∃ t', exec i s = .next t' ∧ HasRecord t' k port j c 0 c.blockEnd ∧ t'.teams = t.teams ∧
          (has c.first 13 = false → t'.mem = t.mem)) ∧
        (c.blockEnd < c.nrows → ∃ t' q' c', exec i s = .next t' ∧ t'.squads.get? k = some q' ∧
          (at' q'.commands port [])[j]? = some c' ∧ c'.record = none ∧ c'.rows = c.blockEnd ∧ c'.blocks = 0 ∧
          t'.blockHeld q k port = false ∧ t'.teams = t.teams ∧ t'.mem = t.mem)) ∧
      (∀ t, c.rows < c.nrows → part.last = false → row s3 c.rows part = (t, .ok ()) → t.squads = s3.squads →
        ∃ t' q' c', exec i s = .next t' ∧ t'.squads.get? k = some q' ∧ (at' q'.commands port [])[j]? = some c' ∧
          c'.record = none ∧ c'.rows = c.rows ∧ c'.blocks = c.blocks + 1 ∧ t'.blockHeld q k port = false ∧
          t'.teams = t.teams ∧ t'.mem = t.mem) ∧
      (∀ t t2 m, c.rows < c.nrows → part.last = true → m < c.blockEnd - c.rows → rows m = some t →
        row t (c.rows + m) (c.rowPart (c.rows + m)) = (t2, .error .access) → t2.squads = s3.squads →
        ∃ t', exec i s = .next t' ∧ HasRecord t' k port j c 2 (c.rows + m)) ∧
      (∀ t, c.rows < c.nrows → part.last = false → row s3 c.rows part = (t, .error .access) → t.squads = s3.squads →
        ∃ t', exec i s = .next t' ∧ HasRecord t' k port j c 2 c.rows))

/-- R220, R222, R405: while a member of a collective has pushed none, the others wait. Once every member of the package has, commands
that agree and pass their checks are matched under one collective on the issuing squad's die (the model's choice of the die, log 24);
commands that do not agree all end with MISMATCH; and a member whose own checks fail ends with their status. In a pod they go on
waiting, end with MISMATCH or are matched, by what the peers have pushed. -/
def Obligations.CollectivesMeet : Prop :=
  ∀ (s : State) (k : Nat) (q : Squad) (j : Nat) (c : Command),
    s.squads.get? k = some q → q.nextCommand 2 = some (j, c) → c.collective = none →
    ((s.members q c.rendezvous.1 = none ∨
        ∃ ts, s.members q c.rendezvous.1 = some ts ∧ ∃ t ∈ ts, s.memberCommand t c.rendezvous = none) →
      exec (.collectiveRendezvous k) s = .next s) ∧
    ∀ (ts : List Nat) (ms : List (Nat × Nat × Command)), s.sweeps = [] → Tbl.sorted s.squads = true →
      s.members q c.rendezvous.1 = some ts → ts.map (fun t => s.memberCommand t c.rendezvous) = ms.map some →
      (ms.map fun m => m.1).Nodup → (∀ m ∈ ms, ∀ p, s.squads.get? m.1 = some p → p.ops = []) →
      let local_ := s.packagesOf q c.rendezvous.1 ≤ 1
      let matched := fun (t : State) (id : Nat) => ∃ x, (t.die (dieOf q.core)).collectives.get? id = some x ∧
        x.code = c.first ∧ x.members = ms.map (fun m => m.1) ∧ x.result = none ∧ t.mem = s.mem ∧
        ∀ m ∈ ms, ∃ p y, t.squads.get? m.1 = some p ∧ (at' p.commands 2 [])[m.2.1]? = some y ∧ y.words = m.2.2.words ∧
          y.collective = some id
      let checks := fun (m : Nat × Nat × Command) => m.2.2.collectiveStatus (s.packagesOf q c.rendezvous.1 * ms.length)
      (local_ → (∀ m ∈ ms, m.2.2.agreement = c.agreement ∧ checks m = 0) →
        ∃ t, exec (.collectiveRendezvous k) s = .next t ∧ matched t s.nextId) ∧
      (¬ local_ → (∀ m ∈ ms, m.2.2.agreement = c.agreement ∧ checks m = 0) →
        ∃ t, exec (.collectiveRendezvous k) s = .next t ∧ (t.squads = s.squads ∧ t.dies = s.dies ∨
          (∀ m ∈ ms, HasRecord t m.1 2 m.2.1 m.2.2 6 0) ∨ matched t s.nextId)) ∧
      (local_ → (∃ m ∈ ms, m.2.2.agreement ≠ c.agreement) →
        ∃ t, exec (.collectiveRendezvous k) s = .next t ∧ t.teams = s.teams ∧ ∀ m ∈ ms, HasRecord t m.1 2 m.2.1 m.2.2 6 0) ∧
      (local_ → (∀ m ∈ ms, m.2.2.agreement = c.agreement) → (∃ m ∈ ms, checks m ≠ 0) →
        ∃ t, exec (.collectiveRendezvous k) s = .next t ∧ t.teams = s.teams ∧
          ∀ m ∈ ms, checks m ≠ 0 → HasRecord t m.1 2 m.2.1 m.2.2 (checks m) 0)

/-- R220, R222: a collective that has met, within one package, reads every member's source region, writes REDUCE's combination of them,
or ALLGATHER's concatenation, to every member's destination, and every member's command ends OK with the rows written. -/
def Obligations.CollectivesRun : Prop :=
  ∀ (s : State) (id d : Nat) (x : Collective) (l : List (Nat × Nat × Squad × Command)) (first : Nat × Nat × Squad × Command)
    (s1 s2 : State) (regs : List (List (List Nat))) (i : Instr) (code : Nat),
    Tbl.sorted s.dies = true → s.collectiveDie id = some (d, x) → Tbl.sorted (s.die d).collectives = true → x.result = none →
    x.members.filterMap (fun k => s.collectiveOf id k) = l → l.head? = some first → (l.map fun m => m.1).Nodup →
    (∀ m ∈ l, m.2.2.2.fault = none ∧ m.2.2.2.rows = 0) →
    (i, code) ∈ [(Instr.reduce id, 0x20), (.allgather id, 0x21)] → bits x.code 7 0 = code → bits x.code 49 48 ≠ 3 →
    s.collectiveAhead d id = false → s.gatherRegions d l = (s1, .ok regs) →
    let f := first.2.2.2.src.fmt
    let rows := if code = 0x20 then
        (List.range first.2.2.2.nrows).map fun r => (List.range first.2.2.2.ncols).map fun n =>
          combineElem f (bits x.code 51 50) (regs.map fun g => (g.getD r []).getD n 0)
      else regs.flatten
    let die := s1.die d
    (s1.setDie d { die with collectives := die.collectives.set id { x with result := some rows } }).putResult d rows l = (s2, none) →
    ∃ t, exec i s = .next t ∧ (t.die d).collectives.get? id = none ∧ t.teams = s2.teams ∧
      ∀ m ∈ l, HasRecord t m.1 2 m.2.1 m.2.2.2 0 rows.length

/-! ## Tokens and turns -/

/-- R256, R261, R263, R264: a step of the ring moves the free tokens and the serve one position; a request whose stop the tokens
it lacks then pass captures them and its clause has them; a capture incomplete for more than a lap gives its tokens up; the
tokens of a hold that ends return to the ring, and so do those of a clause that has not begun within a lap of its capture, which
then asks again at the tail. -/
def Obligations.RingSteps : Prop :=
  ∀ (s : State) (cl stop : Nat), stop < 10 →
    let x := s.cluster cl
    ((∀ p, p < 10 → at' x.queues p [] = []) → x.withdraw = 0 →
      ∃ t y, exec (.ringStep cl) s = .next t ∧ t.cluster cl = y ∧
        (∀ k q, s.squads.get? k = some q → ∃ q', t.squads.get? k = some q' ∧ q'.still = q.still ∧
          (clusterOf q.core ≠ cl → q' = q) ∧
          (clusterOf q.core = cl → q'.splits = q.splits.map fun p =>
            if p.captured = true ∧ p.begun = false then { p with lapse := p.lapse + 1 } else p)) ∧
        (∀ p, p < 10 → at' y.free p 0 = at' x.free ((p + 9) % 10) 0) ∧ (x.serving = none → y.serve = (x.serve + 1) % 10)) ∧
    (∀ r k sp q p, (∀ j, j < 10 → j ≠ stop → at' x.queues j [] = []) → at' x.queues stop [] = [r] → x.withdraw = 0 →
      x.serving = none → r.split = some (k, sp) → s.squads.get? k = some q → q.split? sp = some p →
      s.heldAt cl stop + r.price ≤ s.cap cl → r.waited < 40 → r.price ≤ r.captured + at' x.free ((stop + 9) % 10) 0 →
      ∃ t q', exec (.ringStep cl) s = .next t ∧ at' (t.cluster cl).queues stop [] = [] ∧ t.squads.get? k = some q' ∧
        q'.split? sp = some { p with tokens := p.tokens ++ r.prices, captured := true, lapse := 0 } ∧
        at' (t.cluster cl).free stop 0 = at' x.free ((stop + 9) % 10) 0 - (r.price - r.captured)) ∧
    (∀ r rest, at' x.queues stop [] = r :: rest →
      (10 < r.held → x.serving ≠ some stop →
        exec (.captureRelease cl stop) s = .next (s.setCluster cl { x with
          free := put x.free stop (at' x.free stop 0 + r.captured)
          queues := put x.queues stop ({ r with captured := 0, held := 0 } :: rest) })) ∧
      (r.held ≤ 10 → exec (.captureRelease cl stop) s = .next s)) ∧
    (∀ key h, x.holds.get? key = some h → h.stop = stop → s.holdFree h = true → x.withdraw = 0 → Tbl.sorted x.holds = true →
      ∃ t, exec (.holdEnd cl key) s = .next t ∧ (t.cluster cl).holds.get? key = none ∧ t.squads = s.squads ∧
        at' (t.cluster cl).free ((stop + 5) % 10) 0 = at' x.free ((stop + 5) % 10) 0 + h.tokens) ∧
    (∀ k sp q p, s.squads.get? k = some q → q.split? sp = some p → p.captured = true → p.begun = false →
      clusterOf q.core = cl → q.core % 8 = stop → x.withdraw = 0 →
      (p.lapse ≤ 10 → exec (.captureExpiry k sp) s = .next s) ∧
      (10 < p.lapse →
        let back := { p with tokens := [], captured := false }
        let freed := fun (t : State) =>
          at' (t.cluster cl).free ((stop + 5) % 10) 0 = at' x.free ((stop + 5) % 10) 0 + (p.tokens.map (·.2)).sum
        (p.clause = none →
          ∃ t q', exec (.captureExpiry k sp) s = .next t ∧ t.squads.get? k = some q' ∧ q'.split? sp = some back ∧ freed t) ∧
        ∀ c r, p.clause = some c → p.wait = none → p.held = false → back.id = sp →
          r = ((s.giveTokens q.core p.tokenSum).onSplit k sp fun p => { p with tokens := [], captured := false }) →
          (∀ q', r.squads.get? k = some q' → q'.clear back = true ∧ 0 < ((r.clausePrices q' c (indexOf p.pos)).map (·.2)).sum ∧
            ((r.clausePrices q' c (indexOf p.pos)).map (·.2)).sum ≤ r.cap cl ∧ r.waits k q' sp .topUp = false) →
          ∃ t q' y, exec (.captureExpiry k sp) s = .next t ∧ t.squads.get? k = some q' ∧ q'.split? sp = some back ∧ freed t ∧
            (at' (t.cluster cl).queues stop []).getLast? = some y ∧ y.split = some (k, sp) ∧ y.captured = 0 ∧
            y.prices = r.clausePrices q' c (indexOf p.pos)))

/-- R65, R203: the choice of a quarter takes, from its pointer on, the first class with credit that has a ready squad, of that
class its oldest squad, and of that squad the ready split that follows the one served last; where a squad waits for registers or
tiles, no split is ready and two gangs are resident, the gang admitted last is suspended with cause STARVE. -/
def Obligations.ChoicesAndStarvation : Prop :=
  ∀ (s : State) (qt core : Nat),
    ((at' (s.core (qt / 4)).quarters (qt % 4) {}).chosen = none →
      let s1 := ((s.quarterSquads (qt / 4) (qt % 4)).map fun e => e.1).foldl State.prepareSquad s
      let ready := (s1.quarterSquads (qt / 4) (qt % 4)).filter fun e => (s1.nextSplit e.2).isSome && !s1.paused (qt / 4)
      let x := at' (s1.core (qt / 4)).quarters (qt % 4) {}
      ∀ first rest i, ready = first :: rest → i < 4 →
        let classes := ready.map fun e => s1.classOf e.2
        let dc := refilled x.dc classes fun c => at' (s1.context (s1.contextOf first.2)).weights c 1
        let takes := fun (j : Nat) => (x.ptr + j) % 4 ∈ classes ∧ 0 < at' dc ((x.ptr + j) % 4) 0
        takes i → (∀ j, j < i → ¬ takes j) →
        ∃ t k q sp, exec (.clauseChoice qt) s = .next t ∧ (k, q) ∈ ready ∧ s1.classOf q = (x.ptr + i) % 4 ∧
          s1.nextSplit q = some sp ∧
          at' (t.core (qt / 4)).quarters (qt % 4) {} =
            { x with dc, ptr := (x.ptr + i) % 4, chosen := some (k, sp), words := 0, youngest := none } ∧
          (x.youngest = none → ∀ e ∈ ready, s1.classOf e.2 = (x.ptr + i) % 4 → s1.age q ≤ s1.age e.2) ∧ t.mem = s1.mem) ∧
    (let on := s.squadsOn core
     let gangs := (s.teams.filter fun t => t.2.core == core).filterMap fun t =>
       (s.gangs.get? t.2.gang).bind fun g => if g.phase = .running then some (t.2.gang, g.age) else none
     let starved := (∃ e ∈ on, s.lacks e.1 e.2 = true) ∧ ∀ e ∈ on, s.nextSplit e.2 = none
     (starved → (∃ a ∈ gangs, ∃ b ∈ gangs, a.1 ≠ b.1) →
       ∃ y ∈ gangs, (∀ b ∈ gangs, b.2 ≤ y.2) ∧ exec (.starvation core) s = .next (s.haltGang y.1 6)) ∧
     (¬ starved → exec (.starvation core) s = .next s))

/-! ## Launches and gangs -/

/-- R225 to R227, R229, R230, R337, R370, R389, R400, R402: a launch entry that its queue performs (every one of a context that is not
protected) and whose block and tensor table are readable, in range and fit makes a launch
under the context's next number; one that is out of range, or whose block or table cannot be read, ends with status 5, ILLEGAL,
and one that can never run with status 2, NOFIT; a die claims the next number of GNEXT, or ends its claiming past the last; and
the window of a wake vector raises one interrupt. -/
def Obligations.LaunchesStart : Prop :=
  ∀ (s : State) (vf iface slot : Nat) (blk : DWord) (die lk : Nat) (l : Launch),
    (slot % 4 ≠ 0 → (s.context (contextKey vf iface 0)).isProtected = true → exec (.launch vf iface slot blk) s = .next s) ∧
    (s.accept (contextKey vf iface (slot % 4)) = none → exec (.launch vf iface slot blk) s = .next s) ∧
    (∀ sa, slot % 4 = 0 ∨ (s.context (contextKey vf iface 0)).isProtected = false →
     s.accept (contextKey vf iface (slot % 4)) = some sa →
     let ctx := contextKey vf iface (slot % 4)
     let s0 := (sa.createContext ctx).publishAll
     let x := s0.context ctx
     let s1 := { s0.setContext ctx { x with launches := x.launches + 1 } with nextId := s0.nextId + 1 }
     let ends := fun (status : Nat) => ∃ t y, exec (.launch vf iface slot blk) s = .next t ∧ t.launches.get? s0.nextId = some y ∧
       y.ended = some status ∧ y.id = x.launches ∧ y.context = ctx
     (∀ s2, s1.devRead ctx blk.toNat 256 = (s2, none) → ends 5) ∧
     ∀ s2 b, s1.devRead ctx blk.toNat 256 = (s2, some b) →
      let new := parseBlock ctx x.launches blk b
      ∀ s3 r, (s2.setLaunch s0.nextId new).devRead ctx new.tidTab.toNat 1024 = (s3, r) →
        (blockOk blk b new = true → r.isSome = true → s3.neverFits new = false →
          exec (.launch vf iface slot blk) s = .next s3 ∧ s3.launches.get? s0.nextId = some new) ∧
        (s.gangs = [] → blockOk blk b new = false ∨ r = none → ends 5) ∧
        (s.gangs = [] → blockOk blk b new = true → r.isSome = true → s3.neverFits new = true → ends 2)) ∧
    (s.launches.get? lk = some l → l.coop = false → s.takesGangs l = true → die ∉ l.closed → l.claimed.get? die = none →
      (s.findSeats l (s.clustersOn l.context die)).isSome = true →
      ∀ s2 g, s.devAdd l.context (l.block.toNat + 240) 1 = (s2, some g) →
      (l.gangCount ≤ g → exec (.gangClaim die lk) s = .next (s2.setLaunch lk { l with closed := l.closed ++ [die] })) ∧
      (g < l.gangCount → l.dep = false →
        exec (.gangClaim die lk) s = .next (s2.setLaunch lk { l with claimed := l.claimed.set die g })) ∧
      (g < l.gangCount → l.dep = true →
        let s3 := s2.setLaunch lk { l with claimed := l.claimed.set die g }
        ∀ s4 failed, s3.producerFailed l = (s4, failed) →
          exec (.gangClaim die lk) s = .next (if failed then s4.endLaunch lk 3 else s4))) ∧
    (∀ vector n, s.wakes.get? ((vf * 64 + iface) * 2 ^ 16 + vector) = some n → Tbl.sorted s.wakes = true →
      ∃ t, exec (.wakeInterrupt vf iface vector) s = .next t ∧ t.out = s.out ++ [.interrupt (2 + vf) vector] ∧
        t.wakes.get? ((vf * 64 + iface) * 2 ^ 16 + vector) = none ∧ t.squads = s.squads ∧ t.mem = s.mem)

/-- R50, R53, R54, R227: a claimed gang that can be seated is admitted: it runs on the cluster chosen, under the next ticket that no
gang holds or can be restored with (R349) and the next admission age, with one team on each seat, and its squads are as R54 creates them; a cooperative launch is
admitted with every gang at once. -/
def Obligations.GangsAdmitted : Prop :=
  ∀ (s : State) (die lk : Nat) (l : Launch), s.launches.get? lk = some l →
    (∀ g cl seats page entry, l.claimed.get? die = some g → s.takesGangs l = true → s.freshRoom l 1 = true → l.dep = false →
      s.drainsOn l (s.clustersOn l.context die) = false →
      s.findSeats l (s.clustersOn l.context die) = some (cl, seats) →
      s.placeImage l.context l.gangPages [] [] = some (page, entry) → (∀ x ∈ seats, x.2.2.grow = 0) →
      ∃ t gk y, exec (.gangAdmission die lk) s = .next t ∧ t.gangs.get? gk = some y ∧ y.launch = lk ∧ y.index = g ∧
        y.cluster = cl ∧ y.phase = .running ∧ y.age = s.admissions ∧ y.page = page ∧
        y.ticket = BitVec.ofNat 32 s.nextTicket ∧
        ((∀ x ∈ s.heldTickets, x ≠ BitVec.ofNat 32 s.tickets) → y.ticket = BitVec.ofNat 32 s.tickets) ∧
        ∀ x ∈ seats.zipIdx, ∃ tk tm, tk ∈ y.teams ∧ t.teams.get? tk = some tm ∧ tm.gang = gk ∧ tm.index = x.2 ∧
          tm.core = x.1.1 ∧ tm.base = x.1.2.2.base ∧ tm.squads.length = l.squads ∧
          ∀ k ∈ tm.squads, ∃ q, t.squads.get? k = some q ∧ q.team = tk ∧ q.core = x.1.1 ∧ freshSquad l q) ∧
    (l.coop = true → l.started = false → l.dep = false → s.takesGangs l = true → s.freshRoom l l.gangCount = true →
      s.drainsOn l (s.clustersOf l.context) = false →
      let clusters := (s.clustersOf l.context).filter fun cl => s.clusterOpen l.context cl l.fused
      let seats := seatGangs l.need l.teams (l.gangCount + clusters.length) l.gangCount
        (clusters.map fun cl => (cl, s.roomsFor l cl))
      ∀ page places s2 n, l.gangCount ≤ 512 * clusters.length → seats.length = l.gangCount →
        s.placeRun l.context 1 [] = some page → s.placeImages l l.gangCount [(page, 1)] [] = some places →
        (∀ x ∈ seats, ∀ y ∈ x.2, y.2.2.grow = 0) → s.devAdd l.context (l.block.toNat + 240) l.gangCount = (s2, some n) →
        ∃ t, exec (.coopAdmission lk) s = .next t ∧ ((t.launches.get? lk).bind fun l => l.place) = some page ∧
          ∀ i, i < l.gangCount → ∃ gk y, t.gangs.get? gk = some y ∧ y.launch = lk ∧ y.index = i ∧ y.phase = .running)

/-- R332 to R335, R346, R387: a halt stops every squad of its gang and keeps where its splits stand, under the next generation tag of
each squad's slot; what its memory words left outstanding stays as replay packets with the older tag, its commands stop at a row, and no
return of an older generation is taken. A gang that has halted, or is saved, takes the lower of the two causes; the committed image gets
it too, a protected one sealed again under the next counter where its counter and tag hold, and else left as it is (log 108). Of a
cooperative launch every gang halts. (The first clause is of a gang whose squads have only loads, stores and atomics of memory
outstanding, take part in no collective and wait for no first use.) -/
def Obligations.GangsHalt : Prop :=
  ∀ (s : State) (gk cause : Nat) (g : Gang) (l : Launch), s.gangs.get? gk = some g → s.launches.get? g.launch = some l →
    (l.coop = false → g.phase = .running → (∀ n, n < 4 → (at' g.routers n {}).full = false) →
      (∀ e ∈ s.gangSquads gk, (∀ o ∈ e.2.ops, o.plainAccess ∧ s.fabric.locks.get? o.id = none) ∧
        (∀ p, p < 3 → ∀ c ∈ at' e.2.commands p [], c.collective = none) ∧ ∀ p ∈ e.2.splits, p.wait ≠ some .firstUse) →
      Tbl.sorted s.squads = true → Tbl.sorted s.gangs = true →
      ∃ t, exec (.gangHalt gk cause) s = .next t ∧ t.halts = s.halts + 1 ∧ t.mem = s.mem ∧
        t.gangs.get? gk = some { g with phase := .halted, cause, haltOrder := s.halts } ∧
        ∀ e ∈ s.gangSquads gk, ∃ q, t.squads.get? e.1 = some q ∧ q.halted = true ∧ q.sregs = e.2.sregs ∧ q.vregs = e.2.vregs ∧
          q.preds = e.2.preds ∧ q.accs = e.2.accs ∧ q.mode = e.2.mode ∧ q.gen = e.2.gen + 1 ∧
          q.ops = e.2.ops.map (fun o => { o with reads := [] }) ∧ q.commands = e.2.commands.map (fun l => l.map Command.packed) ∧
          q.splits.map (fun p => (p.id, p.pos, p.mask, p.clause, p.tokens)) =
            e.2.splits.map fun p => (p.id, p.pos, p.mask, none, [])) ∧
    (l.coop = false → g.phase = .halted →
      exec (.gangHalt gk cause) s = .next (s.setGang gk { g with cause := min g.cause cause })) ∧
    (l.coop = false → g.phase = .saved → g.cause ≤ cause → exec (.gangHalt gk cause) s = .next s) ∧
    (l.coop = false → g.phase = .saved → cause < g.cause → (∀ x : Xlate, s.retraining x.pa = false ∧ s.passing x = false) →
      ∃ t, exec (.gangHalt gk cause) s = .next t ∧ t.gangs.get? gk = some { g with cause } ∧ t.squads = s.squads ∧
        t.teams = s.teams ∧ t.saved = s.saved) ∧
    (l.coop = false → g.phase = .saved → cause < g.cause →
      let s1 := s.setGang gk { g with cause }
      let x := s.context l.context
      let at_ := fun (page : Nat) => s.saveBase l.context + 4096 * page
      (x.isProtected = false → exec (.gangHalt gk cause) s =
        .next ((s1.imagePlaces g l).foldl (fun s p => (s.devWrite l.context (at_ p.1 + 3) (leBytes cause 1)).1) s1)) ∧
      (∀ p s2 h s3 body, x.isProtected = true → s1.imagePlaces g l = [p] → s1.devRead l.context (at_ p.1) 64 = (s2, some h) →
        s2.devRead l.context (at_ p.1 + 64) (4096 * field h 4 4 - 64) = (s3, some body) →
        let text := Config.gcmDecrypt x.contextKey (field h 8 8) (h.take 48) body (h.drop 48)
        let fresh := s3.freshness.getD (freshKeyOf l.context p.1) 0
        (fresh ≠ field h 8 8 ∨ text = none → exec (.gangHalt gk cause) s = .next s3) ∧
        (∀ b, fresh = field h 8 8 → text = some b →
          let n := x.counter + 1
          let head := h.take 3 ++ leBytes cause 1 ++ (h.drop 4).take 4 ++ leBytes n 8 ++ (h.drop 16).take 32
          let r := Config.gcmEncrypt x.contextKey n head b
          exec (.gangHalt gk cause) s = .next ((s3.devWrite l.context (at_ p.1 + 64) r.1).1.writeHeaders l.context
            [(p.1, n, head ++ fitTo 16 r.2)]).1))) ∧
    (∀ k id q ext, s.squads.get? k = some q → (q.halted = true ∨ ∀ o ∈ q.ops, o.id = id → o.gen ≠ q.gen) →
      exec (.loadReturn k id ext) s = .next s ∧ exec (.writePerformed k id) s = .next s) ∧
    (l.coop = false → g.phase = .ended → exec (.gangHalt gk cause) s = .next s) ∧
    (l.coop = true →
      exec (.gangHalt gk cause) s = .next ((s.gangsOf g.launch).foldl (fun s x => s.requestHalt x.1 cause) s))

/-- R290, R313, R337, R338, R340, R343, R344: once the context's log entries on the member cores are drained, and no collective of a
member combines, a halted gang's images are written and the gang leaves its cores, its squads kept as they halted; a saved gang
whose turn it is reads its images back and runs again on the seats found. (The last clause is of a gang of one team that holds no
tiles and has nothing to translate.) -/
def Obligations.GangsSavedAndRestored : Prop :=
  ∀ (s : State) (gk : Nat) (g : Gang) (l : Launch), s.gangs.get? gk = some g → s.launches.get? g.launch = some l →
    (∀ s2, g.phase = .halted → (∀ c ∈ s.gangCores gk, ∀ e ∈ (s.core c).log, e.context ≠ logContext l.context) →
      (∀ c ∈ s.gangCores gk, s.writeWaits c 7 ((s.gangSquads gk).map fun e => e.1) = false) →
      (∀ e ∈ s.gangSquads gk, s.combining e.1 = false) →
      let s1 := (s.gangCores gk).foldl (fun s c => s.flushL1 c) s
      let own := (s.context l.context).isProtected
      let teams := (s.teams.filter fun t => t.2.gang == gk).map fun (t : Nat × Team) => (t.1, s1.savedTeam t.2 own)
      s1.commitImages l.context (s1.gangImages g l (teams.map fun x => x.2)) = (s2, .ok ()) → Tbl.sorted s.teams = true →
      ∃ t, exec (.imageCommit gk) s = .next t ∧ t.gangs.get? gk = some { g with phase := .saved } ∧
        (∀ e ∈ t.teams, e.2.gang ≠ gk) ∧ (∀ e ∈ t.squads, e.1 ∉ (s.gangSquads gk).map fun e => e.1) ∧
        ∀ tk tm, s.teams.get? tk = some tm → tm.gang = gk → ∃ x, t.saved.get? tk = some x ∧ x.team = tm ∧
          x.squads = s.squads.filter fun e => tm.squads.contains e.1) ∧
    (g.phase ≠ .halted ∨ (∃ c ∈ s.gangCores gk, ∃ e ∈ (s.core c).log, e.context = logContext l.context) →
      exec (.imageCommit gk) s = .next s) ∧
    (l.coop = false → s.waitsForAdmission g = false ∨ s.sessionOpen l.context = false ∨ s.laterThanOther gk g = true →
      exec (.gangRestore gk) s = .next s) ∧
    (l.coop = false → s.waitsForAdmission g = true → s.sessionOpen l.context = true → s.laterThanOther gk g = false →
      (s.context l.context).isProtected = false →
      ∀ s1 teams s2 g' cl seats s3,
        s.readTeams g l (g.teams.filterMap fun t => (s.saved.get? t).map fun x => (t, x)) = (s1, teams) →
        s1.readGang g l = (s2, g') → s2.restoreSeats l g' (teams.map fun x => x.2) = some (cl, seats) →
        s2.drainsOn l (s2.clustersOf l.context) = false →
        (∀ x ∈ seats, x.2.2.grow = 0) →
        (s2.takeCluster l.context cl l.fused).restoreTeams l (teams.zip seats) = (s3, true) →
        ((s3.launches.get? g.launch).bind fun l => l.ended) = none →
        ∃ t y, exec (.gangRestore gk) s = .next t ∧ t.gangs.get? gk = some y ∧ y.phase = .running ∧ y.cluster = cl ∧
          y.ticket = g'.ticket ∧ y.age = g'.age) ∧
    (∀ tk x s1 y s2 g' cl r, l.coop = false → s.waitsForAdmission g = true → s.sessionOpen l.context = true →
      s.laterThanOther gk g = false → (s.context l.context).isProtected = false → g.teams = [tk] → s.saved.get? tk = some x →
      Tbl.sorted s.saved = true → s.readTeams g l [(tk, x)] = (s1, [(tk, y)]) → s1.readGang g l = (s2, g') →
      s2.restoreSeats l g' [y] = some (cl, [r]) → s2.drainsOn l (s2.clustersOf l.context) = false → r.2.2.grow = 0 → l.ended = none → (y.squads.map fun e => e.1).Nodup → y.kept = [] →
      (∀ e ∈ y.squads, e.2.captured = none ∧ (∀ n, n < 8 → at' e.2.accs n none = none) ∧
        ∀ o ∈ e.2.ops, o.lanes.any LaneAccess.remote = false) →
      ∃ t tm, exec (.gangRestore gk) s = .next t ∧
        t.gangs.get? gk = some { g' with
          phase := .running, cluster := cl
          routerDie := if l.routers.toList.any fun b => b.scope == some 3 then g'.routerDie else cl / 20 } ∧
        t.teams.get? tk = some tm ∧ tm.core = r.1 ∧ tm.base = r.2.2.base ∧
        ∀ e ∈ y.squads, ∃ q, t.squads.get? e.1 = some q ∧ q.core = r.1 ∧ q.halted = false ∧ q.sregs = (if e.2.ops = [] then e.2.sregs
          else q.sregs) ∧ q.mode = e.2.mode ∧ q.splits.map (fun p => (p.id, p.pos, p.mask)) = e.2.splits.map fun p => (p.id, p.pos, p.mask))

/-- R230, R311, R332, R346, R387 to R389, R403: the arrival of a gang at a router waits for the other gangs of the roster, and the
last one turns every gang's sub-barrier. SUSPEND halts every gang of its launch, RESUME lets them be restored, and END ends it; a
window that may not name the launch, PF 1, or level 2 where the launch is protected, gets REFUSED, and a window that is BUSY
DROPPED; a protected launch heeds an authenticated RESUME alone; and an entry is
performed only when its queue performs it. -/
def Obligations.LaunchesDirected : Prop :=
  ∀ (s : State) (lk : Nat) (l : Launch) (who : Agent) (win : Nat), s.launches.get? lk = some l →
    (∀ gk g n c, s.gangs.get? gk = some g → g.launch = lk → n < 4 → (at' l.routers n {}).scope = some c → c ≠ 6 →
      let b := ((at' l.routers n {}).instances.getD (instanceOf c g) {})
      (at' g.routers n {}).full = true → gk ∈ b.roster → gk ∉ b.arrived →
      ((∀ m, m ∈ b.roster ↔ m ∈ b.arrived ∨ m = gk) → b.roster.Nodup →
        ∃ t y, exec (.routerArrival gk n) s = .next t ∧ t.gangs.get? gk = some y ∧ t.mem = s.mem ∧
          at' y.routers n {} = { at' g.routers n {} with phase := !(at' g.routers n {}).phase, arrived := [] }) ∧
      ((∃ m ∈ b.roster, m ∉ b.arrived ∧ m ≠ gk) →
        ∃ t y, exec (.routerArrival gk n) s = .next t ∧ t.gangs = s.gangs ∧ t.squads = s.squads ∧ t.mem = s.mem ∧
          t.launches.get? lk = some y ∧ gk ∈ ((at' y.routers n {}).instances.getD (instanceOf c g) {}).arrived)) ∧
    (s.writeMask who win ≠ 0 → has (s.reg (win + 0x20)) 63 = true →
      let t := s.setReg (win + 0x20) (withBits (s.reg (win + 0x20)) 7 0 2)
      exec (.suspend ⟨who, win⟩ lk false) s = .next t ∧ exec (.resume ⟨who, win⟩ lk false) s = .next t ∧
      exec (.endCmd ⟨who, win⟩ lk) s = .next t) ∧
    (s.writeMask who win ≠ 0 → has (s.reg (win + 0x20)) 63 = false →
      windowNames win l = false ∨ who = .pf1 ∨ ((∃ v i, who = .level2 v i) ∧ (s.context l.context).isProtected = true) →
      (exec (.suspend ⟨who, win⟩ lk false) s = .next (s.setReg (win + 0x20) 1)) ∧
      (exec (.resume ⟨who, win⟩ lk false) s = .next (s.setReg (win + 0x20) 1)) ∧
      (exec (.endCmd ⟨who, win⟩ lk) s = .next (s.setReg (win + 0x20) 1))) ∧
    (s.writeMask who win ≠ 0 → has (s.reg (win + 0x20)) 63 = false → windowNames win l = true → who ≠ .pf1 →
      ((s.context l.context).isProtected = true → ∀ v i, who ≠ .level2 v i) →
      (l.ended = none →
        exec (.suspend ⟨who, win⟩ lk false) s =
          .next (((s.gangsOf lk).foldl (fun s x => s.haltGang x.1 7) (s.setLaunch lk { l with suspended := true })).setReg (win + 0x20) 0) ∧
        exec (.endCmd ⟨who, win⟩ lk) s = .next ((s.endLaunch lk (if s.trapped lk then 1 else 4)).setReg (win + 0x20) 0)) ∧
      (l.ended = none → ∀ gk g, s.gangsOf lk = [(gk, g)] → g.launch = lk → g.phase = .saved → Tbl.sorted s.gangs = true →
        ∃ t y, exec (.suspend ⟨who, win⟩ lk false) s = .next t ∧ t.launches.get? lk = some { l with suspended := true } ∧
          t.gangs.get? gk = some y ∧ y.cause = min g.cause 7 ∧ y.phase = .saved ∧ t.reg (win + 0x20) = 0) ∧
      (l.ended ≠ none → exec (.suspend ⟨who, win⟩ lk false) s = .next (s.setReg (win + 0x20) 0)) ∧
      (l.ended = none → (∀ e ∈ s.gangs, e.2.launch ≠ lk) →
        ∃ t y, exec (.endCmd ⟨who, win⟩ lk) s = .next t ∧ t.launches.get? lk = some y ∧ y.ended = some 4 ∧ y.context = l.context ∧
          t.reg (win + 0x20) = 0) ∧
      ((s.context l.context).isProtected = false → Tbl.sorted s.gangs = true →
        ∃ t, exec (.resume ⟨who, win⟩ lk false) s = .next t ∧ t.launches.get? lk = some { l with suspended := false } ∧
          (∀ e ∈ t.gangs, e.2.launch = lk → e.2.phase ≠ .ended → e.2.refused = false) ∧ t.reg (win + 0x20) = 0) ∧
      ((s.context l.context).isProtected = true → exec (.resume ⟨who, win⟩ lk false) s = .next (s.setReg (win + 0x20) 0))) ∧
    (s.accept l.context = none → exec (.resume ⟨who, win⟩ lk true) s = .next s ∧ exec (.suspend ⟨who, win⟩ lk true) s = .next s) ∧
    (∀ sa, s.accept l.context = some sa →
      ((s.context l.context).isProtected = true → s.session (contextVf l.context) (contextIface l.context) = 0 →
        ∃ t, exec (.resume ⟨who, win⟩ lk true) s = .next t ∧ t.launches.get? lk = some { l with suspended := false } ∧
          (t.context l.context).expect = (sa.context l.context).expect) ∧
      (l.ended = none → exec (.suspend ⟨who, win⟩ lk true) s =
        .next ((s.gangsOf lk).foldl (fun s x => s.haltGang x.1 7) (sa.setLaunch lk { l with suspended := true }))))

/-! ## The market -/

/-- R365: a clearing serves the bids by price, incumbents first among equals and then by the rotated slot, gives each in
that order its units if as many are left, else what is left or, of an all-or-none bid, none, skips an all-or-none bid that does not fit, sells no more than there is, prices at the highest losing bid with
the reserve as floor, and no winner pays more per unit than it bid. -/
def Obligations.ClearingAwards : Prop :=
  ∀ (k reserve ptr m : Nat) (bids : List Offer), 0 < m →
    let p := (clear k reserve ptr m bids).1
    let won := (clear k reserve ptr m bids).2
    (won.map fun x => x.1).Perm (bids.filter fun b => decide (0 < b.units) && decide (0 < b.price) && decide (reserve ≤ b.price)) ∧
    (won.Pairwise fun x y => y.1.price < x.1.price ∨ (x.1.price = y.1.price ∧ (x.1.incumbent = true ∨ y.1.incumbent = false) ∧
      (x.1.incumbent = y.1.incumbent → (x.1.slot + m - ptr % m) % m ≤ (y.1.slot + m - ptr % m) % m))) ∧
    (∀ pre x post, won = pre ++ x :: post →
      let left := k - (pre.map fun y => y.2.1).sum
      x.2.1 = if x.1.units ≤ left then x.1.units else if x.1.aon then 0 else left) ∧
    (won.map fun x => x.2.1).sum ≤ k ∧
    (∀ x ∈ won, x.2.1 ≤ x.1.units ∧ (x.1.aon = true → x.2.1 = 0 ∨ x.2.1 = x.1.units) ∧ x.2.2 = x.2.1 * min p x.1.price) ∧
    ((won.map fun x => x.2.1).sum < k → ∀ x ∈ won, x.1.aon = false → x.2.1 = x.1.units) ∧
    (∀ x ∈ won, x.2.1 < x.1.units → x.1.price ≤ p) ∧ reserve ≤ p ∧
    (p = reserve ∨ ∃ x ∈ won, x.2.1 < x.1.units ∧ p = x.1.price)

/-- R21, R319, R320, R325, R354, R356, R361, R362, R366, R367, R371, R403, R417: the bid close samples the bids clamped to the
purses and the FIXED registers; the clearing prices every class on every die and sells units in service alone; the notices
stand; at the interval start the purses are refilled, the cleared leases and prices take effect under the next interval number,
budgets are counted from zero, and the index record is sent; a die whose clearing is late has its own notice, after the others', and
its own boundary, which moves no refill (which dies are late is free, log 69); (which banks of a die a context's units are is settled with its
pins, R319; log 102); a peer's record replaces its entry, and a record of no peer to which a link leads is ignored; a unit that is retired leaves service after the next bid close; home
of a region passes to its bank and back, the bank empty on both sides, and the accesses that waited are then performed. -/
def Obligations.MarketSteps : Prop :=
  ∀ s : State,
    (s.market.running = true → s.market.closed = false → s.market.late = [] →
      ∃ t, exec .bidClose s = .next t ∧ t.market.closed = true ∧ t.market.leaving = s.retiring ∧ t.regs = s.regs ∧
        t.leases = s.leases ∧
        (∀ b ∈ t.market.sampled1, b.bidder < 32 ∧ b.cls < 5 ∧
          (let v := s.reg (partBase b.bidder + 0x440 + 8 * b.cls)
           0 < b.price ∧ b.price ≤ bits v 31 0 ∧ b.lots = lotsOf v ∧ b.aon = has v 63 ∧
           (b.cls = 0 → b.price = min (bits v 31 0) (s.balance (pursePart b.bidder) / b.units)))) ∧
        (∀ v, ((t.market.sampled1.filter fun b => b.bidder == v).map fun b => b.price * b.units).sum ≤ s.balance (pursePart v)) ∧
        ∀ v c, v < 32 → c < 5 → t.market.fixed.getD (5 * v + c) 0 = s.reg (partBase v + 0x400 + 8 * c)) ∧
    (s.market.closed = true → s.market.cleared = false →
      ∃ t, exec .clearingComplete s = .next t ∧ t.market.cleared = true ∧ t.leases = s.leases ∧
        t.market.ptr1 = (s.market.ptr1 + 1) % 32 ∧
        (∀ c d, c < 5 → d < 8 → t.market.pricesNext.getD (8 * c + d) 0 = (s.clearOpen c d).1) ∧
        ∀ u x, t.market.next.get? u = some x → ∃ c d n, c < 5 ∧ d < 8 ∧ n ∈ s.sellable c d ∧ u = unitKey c n) ∧
    (s.market.cleared = true → s.market.noticed = false → ∃ l, (∀ d ∈ l, d < 8) ∧
      exec .leaseNotice s = .next { s.spend with market := { s.market with noticed := true, late := l } }) ∧
    (s.market.cleared = false ∨ s.market.noticed = true →
      (s.market.late ≠ [] → exec .leaseNotice s =
        .next { s with market := { s.market with lateNoticed := true, lateEnd := s.time.toNat + 15000 } }) ∧
      (s.market.late = [] → exec .leaseNotice s = .next s)) ∧
    (s.market.noticed = true → Tbl.sorted s.market.next = true →
      (∀ g ∈ s.gangs, g.2.phase = .running ∨ g.2.phase = .halted → unitKey 0 g.2.cluster ∉ s.market.leaving ∧
        s.market.next.get? (unitKey 0 g.2.cluster) = some (s.gangContext g.2)) →
      ∃ t, exec .intervalStart s = .next t ∧ (∀ u ∈ s.market.leaving, unitDie u ∉ s.market.late → u ∈ t.retired) ∧
        ∀ u ∈ t.retiring, u ∈ s.market.leaving → unitDie u ∈ s.market.late) ∧
    (s.market.noticed = false → s.market.lateNoticed = true → s.market.leaving = [] → Tbl.sorted s.market.next = true →
      Tbl.sorted s.leases = true →
      (∀ g ∈ s.gangs, g.2.phase = .running ∨ g.2.phase = .halted → g.2.cluster / 20 ∉ s.market.late) →
      ∃ t, exec .intervalStart s = .next t ∧ t.market.interval = s.market.interval ∧ t.market.late = [] ∧
        t.market.lateNoticed = false ∧
        ∀ u, u / 2048 ≠ 1 → t.leases.get? u = if unitDie u ∈ s.market.late then s.market.next.get? u else s.leases.get? u) ∧
    (s.market.noticed = true → s.market.late = [] → s.market.leaving = [] → Tbl.sorted s.market.next = true →
      Tbl.sorted s.market.spotNext = true → Tbl.sorted s.market.pricesNext = true →
      (∀ g ∈ s.gangs, g.2.phase = .running ∨ g.2.phase = .halted →
        s.market.next.get? (unitKey 0 g.2.cluster) = some (s.gangContext g.2)) →
      ∃ t w, exec .intervalStart s = .next t ∧ t.market.interval = s.market.interval + 1 ∧ t.fabric.charged = [] ∧
        (∀ u, u / 2048 ≠ 1 → t.leases.get? u = s.market.next.get? u) ∧
        (∀ b c, b < 512 → t.leaseOf 1 b = some c → ∃ b', b' / 64 = b / 64 ∧ s.market.next.get? (unitKey 1 b') = some c) ∧
        t.market.spot = s.market.spotNext ∧ t.market.prices = s.market.pricesNext ∧ t.market.closed = false ∧
        t.market.cleared = false ∧ t.market.noticed = false ∧
        (∀ v, v < 32 → t.balance (pursePart v) = min (bits (s.reg (pursePart v + 8)) 63 32)
          (s.balance (pursePart v) + bits (s.reg (pursePart v + 8)) 31 0)) ∧
        Message.index (BitVec.ofNat 16 (bits (s.reg podCfg) 15 0)) (BitVec.ofNat 32 (s.market.interval + 1)) w ∈ t.out) ∧
    (∀ (pkg : BitVec 16) (seq : Word) (prices : List Word),
      let a := packageBase + 0x4000 + 168 * (pkg.toNat % 64)
      let other := s.regs.any (fun e => e.1 == a) = true ∧ bits (s.reg a) 15 0 ≠ pkg.toNat
      let reached := s.reachesPeer pkg.toNat = true
      (¬ reached → exec (.indexRecordReceive pkg seq prices) s = .next s) ∧
      (reached → ¬ other → ∃ t, exec (.indexRecordReceive pkg seq prices) s = .next t ∧ bits (t.reg a) 15 0 = pkg.toNat ∧
        bits (t.reg a) 47 16 = seq.toNat ∧
        ∀ i, i < 40 → bits (t.reg (a + 8 + 8 * (i / 2))) (32 * (i % 2) + 31) (32 * (i % 2)) = (prices.getD i 0).toNat) ∧
      (reached → other → exec (.indexRecordReceive pkg seq prices) s =
        .next (s.setReg (errorCounter errIndex) (s.reg (errorCounter errIndex) + 1)))) ∧
    (∀ (who : Agent) (win cls unit : Nat), s.writeMask who win ≠ 0 → has (s.reg (win + 0x20)) 63 = true →
      exec (.retire ⟨who, win⟩ cls unit) s = .next (s.setReg (win + 0x20) (withBits (s.reg (win + 0x20)) 7 0 2))) ∧
    (∀ (who : Agent) (win cls unit : Nat), s.writeMask who win ≠ 0 → has (s.reg (win + 0x20)) 63 = false →
      let valid := win = packageWindow ∧ who = .level0 ∧ cls < 5 ∧ unit < 8 * unitsPerDie cls
      (valid → unitKey cls unit ∉ s.retired → unitKey cls unit ∉ s.retiring →
        exec (.retire ⟨who, win⟩ cls unit) s =
          .next ({ s with retiring := s.retiring ++ [unitKey cls unit] }.setReg (win + 0x20) 0)) ∧
      (valid → unitKey cls unit ∈ s.retired ∨ unitKey cls unit ∈ s.retiring →
        exec (.retire ⟨who, win⟩ cls unit) s = .next (s.setReg (win + 0x20) 0)) ∧
      (¬ valid → exec (.retire ⟨who, win⟩ cls unit) s = .next (s.setReg (win + 0x20) 1))) ∧
    (∀ ctx d entry, let waiting := fun (p : Pin) =>
        p.context = ctx ∧ p.bank / 64 = d ∧ p.entry = entry ∧ p.leaving = false ∧ p.home = false
      ((∀ p ∈ s.fabric.pins, ¬ waiting p) → exec (.dsbPin ctx d entry) s = .next s) ∧
      (∀ p, (∀ y ∈ s.fabric.pins, waiting y ↔ y = p) → p ∈ s.fabric.pins →
        let blocked := ∃ y ∈ s.fabric.pins, y.leaving = true ∧ (y.bank = p.bank ∨ (y.context = p.context ∧ y.region = p.region))
        (blocked → exec (.dsbPin ctx d entry) s = .next s) ∧
        (¬ blocked → ∃ t : State, exec (.dsbPin ctx d entry) s = .next (t.resumed s) ∧ t.squads = s.squads ∧ t.regs = s.regs ∧
          t.fabric.pins = (s.fabric.pins.map fun y => if y = p then { y with home := true } else y) ∧
          ∀ e ∈ t.fabric.banks, e.1 / 16384 ≠ p.bank))) ∧
    (∀ bank, ((∀ p ∈ s.fabric.pins, ¬ (p.leaving = true ∧ p.bank = bank)) → exec (.dsbUnpinComplete bank) s = .next s) ∧
      ((∃ p ∈ s.fabric.pins, p.leaving = true ∧ p.bank = bank) →
        ∃ t : State, exec (.dsbUnpinComplete bank) s = .next (t.resumed s) ∧ t.squads = s.squads ∧ t.regs = s.regs ∧
          t.fabric.pins = (s.fabric.pins.filter fun p => !(p.leaving && p.bank == bank)) ∧
          ∀ e ∈ t.fabric.banks, e.1 / 16384 ≠ bank))

/-! ## Rails, stacks, links and failures -/

/-- R272, R273, R326, R382, R395, R396, R404, R405, R411: a fall of a rail switches its clock once the excess tokens are
withdrawn, and with the end of the switch issue resumes, a raise then taking effect, which CURRENT shows; a stack that has
retrained is no longer retraining; a thermal limit marks its die and is reported; a failed flit is counted; a link gets new
keys; a pod link that goes down ends the launches that need it where no other link joins the same peer of the group (log 111), and one that
comes up is shown; an uncorrectable error takes
its context, stays in its HBM line until something reads it, or stops the submissions; a function-level reset leaves its partition no launch, no context and no translation; a
scrubbed page reads zero; a power-input fault leaves the package without power. -/
def Obligations.RailsLinksAndFailures : Prop :=
  ∀ s : State,
    (∀ d r, r < 4 → let x := s.rail d r
      (x.state = 1 → (∀ c ∈ s.railClusters d r, (s.cluster c).withdraw = 0) →
        exec (.railClockLower d r) s = .next (s.setRail d r { x with state := 3 })) ∧
      (x.state = 3 → exec (.clockSwitchEnd d r) s = .next (s.setRail d r { x with state := 0 })) ∧
      (x.state = 2 → ∃ t, exec (.clockSwitchEnd d r) s = .next t ∧ t.rail d r = { x with state := 0, effect := x.change } ∧
        bits (t.reg (railCtl d)) (2 * r + 9) (2 * r + 8) = x.change % 4 ∧
        ∀ c ∈ s.railClusters d r, t.cap c = capacity x.change)) ∧
    (∀ stack, ∃ t : State, exec (.hbmRetrainEnd stack) s = .next (t.resumed s) ∧ t.squads = s.squads ∧ has (t.reg (hbmCtl stack)) 4 = false ∧ t.mem = s.mem ∧
      (∀ i, i ≠ 4 → has (t.reg (hbmCtl stack)) i = has (s.reg (hbmCtl stack)) i) ∧
      ∀ a, a ≠ hbmCtl stack → t.reg a = s.reg a) ∧
    (∀ d, ∃ t, exec (.thermalLimit d) s = .next t ∧ t.die d = { s.die d with hot := true } ∧ t.squads = s.squads ∧
      t = (s.setDie d { s.die d with hot := true }).event0 (eventRecord evThermal 0 0 0 0 d)) ∧
    exec .powerInputFault s = .next { s with powered := false } ∧
    (∀ d l, l < 284 → exec (.linkCrcFailure d l) s =
      .next (s.setReg (errorCounter (errRetry d)) (s.reg (errorCounter (errRetry d)) + 1))) ∧
    (∀ stack ctx a, exec (.hbmLinkTagFailure stack false ctx a) s =
        .next (s.setReg (errorCounter (errRetry (stack / 2))) (s.reg (errorCounter (errRetry (stack / 2))) + 1)) ∧
      (Tbl.sorted s.contexts = true → ∃ t, exec (.hbmLinkTagFailure stack true ctx a) s = .next t ∧
        t.contexts.get? ctx = none ∧ ∀ l ∈ t.launches, l.2.context ≠ ctx)) ∧
    (∀ stack, ∃ k, exec (.hbmLinkRekey stack) s =
      .next { s.spend with linkKeys := s.linkKeys.set stack k, fabric := { s.fabric with nonces := s.fabric.nonces.erase stack } }) ∧
    (∀ link, link < 8 →
      let down := { s.setReg podCfg (s.reg podCfg &&& ~~~BitVec.ofNat 64 (2 ^ (32 + link))) with peers := s.peers.erase link }
      let cut := fun (p : Nat × Nat) => p.2 = bits (s.reg podCfg) 31 16 ∧ down.reachesPeer p.1 = false
      (exec (.podLinkUp link) s = .next { s.setReg podCfg (s.reg podCfg ||| BitVec.ofNat 64 (2 ^ (32 + link))) with
        peers := s.peers.set link ((Config.podPeer link).1.toNat, (Config.podPeer link).2.toNat) }) ∧
      ((∀ l ∈ s.launches, l.2.ended = none → s.needsPod l.1 l.2 = false) → exec (.podLinkDown link) s = .next down) ∧
      ((∀ p, s.peers.get? link = some p → ¬ cut p) → exec (.podLinkDown link) s = .next down) ∧
      (∀ p lk l, s.peers.get? link = some p → cut p → (s.launches.filter fun l => l.2.ended.isNone && s.needsPod l.1 l.2) = [(lk, l)] → Tbl.sorted s.launches = true →
        ∃ t y, exec (.podLinkDown link) s = .next t ∧ t.launches.get? lk = some y ∧ y.ended = some 4)) ∧
    (∀ a, isHbm a = true → exec (.uncorrectableError none a) s =
      .next { s with fabric := { s.fabric with bad := distinct (s.fabric.bad ++ [a / 128]) } }) ∧
    (∀ a, isHbm a = false → ∃ t, exec (.uncorrectableError none a) s = .next t ∧ t.submissionsStopped = true ∧ t.squads = s.squads ∧
      t.launches = s.launches ∧ t.contexts = s.contexts) ∧
    (∀ ctx a, Tbl.sorted s.contexts = true → ∃ t, exec (.uncorrectableError (some ctx) a) s = .next t ∧
      t.contexts.get? ctx = none ∧ ∀ l ∈ t.launches, l.2.context ≠ ctx) ∧
    (∀ vf, vf < 32 → Tbl.sorted s.contexts = true →
      ∃ t, exec (.functionLevelReset vf) s = .next t ∧ (∀ l ∈ t.launches, contextVf l.2.context ≠ vf) ∧
        (∀ c ∈ t.contexts, contextVf c.1 ≠ vf) ∧
        (∀ p ∈ t.fabric.pins, contextVf p.context ≠ vf) ∧
        ∀ c ∈ t.cores, (∀ e ∈ c.2.translations, e.vf ≠ vf) ∧ (∀ e ∈ c.2.log, e.context / 64 ≠ vf) ∧
          ∀ x ∈ c.2.tiles, x.2.context / 64 ≠ vf) ∧
    (∀ (x : Scrub) (d : Nat), let e := s.homeWord 0 x.leaf
      x ∈ s.scrubs → dieOfPa (frameOf e) = d →
      (∀ y ∈ s.scrubs, y ≠ x → dieOfPa (frameOf (s.homeWord 0 y.leaf)) = d → x.ppa < y.ppa) →
      e.testBit 9 = true → keySlot e = 0 ∨ (s.keys.get? (keySlot e)).isSome = true → x.leaf % 8 = 0 →
      x.size ∈ [4096, 65536, 2097152, 1073741824] → frameOf e % x.size = 0 → isHbm (frameOf e + x.size) = true → isHbm x.leaf = true →
      (x.leaf < frameOf e ∨ frameOf e + x.size ≤ x.leaf) →
      (∀ a ∈ spanGroup x.leaf e, isHbm (a + 7) = true ∧ isHbm a = true ∧ (a + 8 ≤ frameOf e ∨ frameOf e + x.size ≤ a)) →
      ∃ t, exec (.scrubPage d) s = .next t ∧ t.scrubs = s.scrubs.erase x ∧ (t.homeWord 0 x.leaf).testBit 9 = false ∧
        ∀ a, frameOf e ≤ a → a < frameOf e + x.size → t.homeByte (keySlot e) a = 0)

/-! ## Protected contexts -/

/-- R383, R384, R388 to R390, R392 to R394, R397, R402: a session begins with fresh keys in an empty interface and owns its key
slot, and its signed share goes out, as a REKEY's does; REKEY starts the sequence at 1 and makes the session active; an entry with the expected number is performed and the number
advances, a lower one is counted and a higher one seals the session, whose queue then halts; IMPORT writes the decrypted data and keeps their digest,
and writes nothing when the tag fails; EXPORT writes ciphertext and tag; a missed heartbeat seals; the end of the grace period
destroys the context and its key; dropped entries are reported; and a report carries the host's nonce. -/
def Obligations.SessionsAndQueue : Prop :=
  ∀ (s : State) (vf iface : Nat), vf < 32 → iface < 64 →
    let ctx := contextKey vf iface 0
    let x := s.context ctx
    (∀ slot grace period, 0 < slot → slot < 64 → has (s.reg (keySlotReg slot)) 57 = false → s.contextsIn vf iface = [] →
      1 ≤ grace → grace ≤ 3600 → 10 ≤ period → period ≤ 10000 →
      ∃ t y k, exec (.sessionCreate vf iface slot grace period) s = .next t ∧ t.contexts.get? ctx = some y ∧
        y.isProtected = true ∧ y.keySlot = slot ∧ y.expect = some 1 ∧ t.keys.get? slot = some k ∧ t.session vf iface = 0 ∧
        has (t.reg (keySlotReg slot)) 57 = true ∧ has (t.reg (keySlotReg slot)) 63 = true ∧
        bits (t.reg (keySlotReg slot)) 56 52 = vf ∧ bits (t.reg (hbCtl vf iface)) 43 32 = grace ∧
        bits (t.reg (hbCtl vf iface)) 15 0 = period ∧ t.mem = s.mem ∧ t.squads = s.squads ∧
        t.out = s.out ++ [.report (signed y.share)]) ∧
    (x.isProtected = true → s.session vf iface ≠ 3 →
      ∃ t, exec (.rekey vf iface) s = .next t ∧
        t.contexts.get? ctx = some { x with
          submissionKey := submissionKeyOf x.tenant s.fresh, share := Config.exchangeShare x.tenant s.fresh, expect := some 1 } ∧
        .report (signed (Config.exchangeShare x.tenant s.fresh)) ∈ t.out ∧
        t.session vf iface = 0 ∧ t.squads = s.squads) ∧
    (x.isProtected = true → ∀ e, x.expect = some e →
      let next := if e = 2 ^ 64 - 1 then none else some (e + 1)
      let s1 := s.setContext ctx { x with expect := next }
      exec (.heartbeat vf iface) s = .next s1 ∧ s.accept ctx = some s1 ∧
      (∀ i (seq src dst len : DWord), (i = .importCmd vf iface seq src dst len ∨ i = .exportCmd vf iface seq src dst len) →
        s.session vf iface ≠ 2 →
        (seq.toNat < e → ∃ t, exec i s = .next t ∧ t.reg (errorCounter errAuth) = s.reg (errorCounter errAuth) + 1 ∧
          t.contexts = s.contexts ∧ t.squads = s.squads) ∧
        (e < seq.toNat → ∃ t, exec i s = .next t ∧ (t.context ctx).expect = none ∧ t.session vf iface = 2) ∧
        (seq.toNat = e → len.toNat % 64 ≠ 0 ∨ 2 ^ 24 < len.toNat → exec i s = .next s1)) ∧
      (∀ (seq src dst len : DWord), s.session vf iface ≠ 2 → seq.toNat = e → len.toNat % 64 = 0 → len.toNat ≤ 2 ^ 24 →
        let a := portMemory (s.portOf vf) + src.toNat % 2 ^ 44
        (∀ r, Config.gcmDecrypt x.submissionKey (e * 2 ^ 32 + 2) [] (s.homeBytes 0 a len.toNat)
            (s.homeBytes 0 (a + len.toNat) 16) = r →
          (r = none → exec (.importCmd vf iface seq src dst len) s = .next s1) ∧
          (∀ data s2 ok, r = some data → s1.devWrite ctx dst.toNat data = (s2, ok) →
            exec (.importCmd vf iface seq src dst len) s = .next (s2.setContext ctx
              { s2.context ctx with imports := (s2.context ctx).imports ++ [Config.reportBytes 0 data] }))) ∧
        (∀ s2 data, s1.devRead ctx src.toNat len.toNat = (s2, some data) →
          let ct := Config.gcmEncrypt (s2.context ctx).submissionKey (e * 2 ^ 32 + 2) [] data
          exec (.exportCmd vf iface seq src dst len) s =
            .next (s2.homeWrite 0 (portMemory (s2.portOf vf) + dst.toNat % 2 ^ 44) (ct.1 ++ ct.2))))) ∧
    (x.isProtected = true → s.session vf iface = 2 → ∀ seq src dst len : DWord,
      exec (.importCmd vf iface seq src dst len) s = .next s ∧ exec (.exportCmd vf iface seq src dst len) s = .next s) ∧
    (x.isProtected = true → x.expect = none → s.accept ctx = none) ∧
    (x.isProtected = false → s.accept ctx = some s) ∧
    (x.isProtected = true → s.session vf iface = 0 → (∃ g ∈ s.gangs, s.gangContext g.2 = ctx) →
      ∃ t, exec (.heartbeatTimeout vf iface) s = .next t ∧ t.session vf iface = 1) ∧
    (x.isProtected = false ∨ s.session vf iface ≠ 0 ∨ (∀ g ∈ s.gangs, s.gangContext g.2 ≠ ctx) →
      exec (.heartbeatTimeout vf iface) s = .next s) ∧
    (x.isProtected = true → s.session vf iface = 1 ∨ s.session vf iface = 2 → x.keySlot < 64 →
      Tbl.sorted s.contexts = true → Tbl.sorted s.keys = true →
      ∃ t, exec (.graceExpiry vf iface) s = .next t ∧ t.contexts.get? ctx = none ∧ t.keys.get? x.keySlot = none ∧
        has (t.reg (keySlotReg x.keySlot)) 63 = false ∧ t.session vf iface = 3) ∧
    (∀ launch : DWord, ∃ t, exec (.submitDropped vf iface launch) s = .next t ∧
      t = s.event2 vf iface (eventRecord evSubmit 0 launch.toNat 0 0 0) ∧ t.launches = s.launches ∧ t.squads = s.squads) ∧
    (∃ t, exec (.authEntryDropped vf iface) s = .next t ∧ t.contexts = s.contexts ∧
      t.reg (errorCounter errAuth) = s.reg (errorCounter errAuth) + 1 ∧ t.squads = s.squads) ∧
    (∀ nonce, ∃ b, exec (.attestationReport vf iface nonce) s =
      .next { s with out := s.out ++ [.report (fitTo 48 nonce ++ b)] })

/-! ## Commands and the start -/

/-- R176, R347 to R349, R373, R374, R381, R403: a command is carried out for an agent that may write the window and holds the
command's right, and otherwise refused, or dropped while the window is BUSY; an agent that may not write there does nothing. An
invalidation leaves no translation of
what it names in any TLB, and is complete, or BUSY while an access under an old translation waits; a checkpoint is written with the next number when it fits, and changes nothing of the count when it does
not; a restore writes a consecutive chain of the same shape home, and refuses another; KEYLOAD fills a slot that no session owns
and KEYDESTROY empties it; a code that names no command is refused at a window, and does nothing elsewhere or in recovery (R409). -/
def Obligations.WindowCommands : Prop :=
  ∀ (s : State) (who : Agent) (win vf : Nat),
    let translations := fun (t : State) (p : TlbEntry → Prop) => ∀ c ∈ t.cores, ∀ e ∈ c.2.translations, p e
    let refused := fun (i : Instr) => exec i s = .next (s.setReg (win + 0x20) 1)
    let answered := fun (t : State) => t.reg (win + 0x20) = 0 ∧ t.invalidations = s.invalidations ∨
      t.reg (win + 0x20) = BitVec.ofNat 64 (2 ^ 63) ∧
        ∃ l, l ≠ [] ∧ t.invalidations = s.invalidations ++ [⟨win, l⟩] ∧ ∀ x ∈ l, t.awaits x = true
    (s.writeMask who win = 0 → ∀ iface (a b : DWord) (n m : Nat),
      ∀ i ∈ [.invs1 ⟨who, win⟩ vf iface a b, .invs1all ⟨who, win⟩ vf iface, .invs2 ⟨who, win⟩ vf a b, .invs2all ⟨who, win⟩ vf, .ckpt ⟨who, win⟩ vf a b,
        .restore ⟨who, win⟩ vf a b, .keyload ⟨who, win⟩ n a, .keydestroy ⟨who, win⟩ n, .retire ⟨who, win⟩ n m], exec i s = .next s) ∧
    (s.writeMask who win ≠ 0 → has (s.reg (win + 0x20)) 63 = true → ∀ iface (a b : DWord) (n m : Nat),
      ∀ i ∈ [.invs1 ⟨who, win⟩ vf iface a b, .invs1all ⟨who, win⟩ vf iface, .invs2 ⟨who, win⟩ vf a b, .invs2all ⟨who, win⟩ vf, .ckpt ⟨who, win⟩ vf a b,
        .restore ⟨who, win⟩ vf a b, .keyload ⟨who, win⟩ n a, .keydestroy ⟨who, win⟩ n, .retire ⟨who, win⟩ n m],
        exec i s = .next (s.setReg (win + 0x20) (withBits (s.reg (win + 0x20)) 7 0 2))) ∧
    (s.writeMask who win ≠ 0 → has (s.reg (win + 0x20)) 63 = false →
    (∀ iface (base len : DWord),
      (win = ifaceWindow vf iface → s.holds who vf iface 0 = true →
        (∃ t, exec (.invs1 ⟨who, win⟩ vf iface base len) s = .next t ∧ answered t ∧
          translations t fun e => e.vf = vf → e.iface = iface → ¬ (e.va < base.toNat + len.toNat ∧ base.toNat < e.va + e.size)) ∧
        (∃ t, exec (.invs1all ⟨who, win⟩ vf iface) s = .next t ∧ answered t ∧
          translations t fun e => e.vf = vf → e.iface = iface → ¬ (e.va < 2 ^ 48 ∧ 0 < e.va + e.size))) ∧
      (win ≠ ifaceWindow vf iface ∨ s.holds who vf iface 0 = false →
        refused (.invs1 ⟨who, win⟩ vf iface base len) ∧ refused (.invs1all ⟨who, win⟩ vf iface))) ∧
    (∀ base len : DWord,
      (win = partWindow vf → s.ownsStage2 who vf = true →
        (base.toNat + len.toNat ≤ 2 ^ 48 → ∃ t, exec (.invs2 ⟨who, win⟩ vf base len) s = .next t ∧ answered t ∧
          translations t fun e => e.vf ≠ vf) ∧
        (2 ^ 48 < base.toNat + len.toNat → refused (.invs2 ⟨who, win⟩ vf base len)) ∧
        (∃ t, exec (.invs2all ⟨who, win⟩ vf) s = .next t ∧ answered t ∧ translations t fun e => e.vf ≠ vf)) ∧
      (win ≠ partWindow vf ∨ s.ownsStage2 who vf = false →
        refused (.invs2 ⟨who, win⟩ vf base len) ∧ refused (.invs2all ⟨who, win⟩ vf))) ∧
    (∀ dst size : DWord, win ≠ partWindow vf ∨ s.mayCheckpoint who vf = false →
      refused (.ckpt ⟨who, win⟩ vf dst size) ∧ refused (.restore ⟨who, win⟩ vf dst size)) ∧
    (∀ dst size : DWord, win = partWindow vf → s.mayCheckpoint who vf = true → s.partGangs vf = [] → (s.quiesce vf).partGangs vf = [] →
      let s0 := ((s.quiesce vf).cores.map (·.1)).foldl (fun s c => if s.ofPart c vf then s.writeBack c fun _ => true else s)
        (s.quiesce vf)
      let s1 := ((s0.fabric.l2.filter fun e => e.2.dirty && contextVf e.2.context == vf).map (·.1)).foldl State.cleanL2 s0
      let s2 := (s1.fabric.pins.filter fun p => contextVf p.context == vf).foldl (fun s p => s.cleanBank p.bank) s1
      let p := s2.parts.getD vf {}
      let granules := (s2.dirtyGranules vf).length
      let need := (s2.checkpointHeader vf (p.cksq + 1) granules p.ckfull).length + granuleRecord * granules
      (need ≤ size.toNat → ∃ t, exec (.ckpt ⟨who, win⟩ vf dst size) s = .next t ∧ t.reg (win + 0x20) = 0 ∧
        bits (t.reg (ckCtl vf)) 15 8 = 0 ∧ (t.parts.getD vf {}).cksq = p.cksq + 1 ∧ (t.parts.getD vf {}).ckfull = false) ∧
      (size.toNat < need → ∃ t, exec (.ckpt ⟨who, win⟩ vf dst size) s = .next t ∧ t.reg (win + 0x20) = 0 ∧
        bits (t.reg (ckCtl vf)) 15 8 = 3 ∧ (t.parts.getD vf {}).cksq = p.cksq ∧ (t.parts.getD vf {}).ckfull = p.ckfull)) ∧
    (∀ list count : DWord, win = partWindow vf → s.mayCheckpoint who vf = true →
      let chain := (List.range count.toNat).map fun i => s.readCheckpoint vf (s.partWord vf (list.toNat + 8 * i))
      ((∃ c ∈ chain, c.sameShape = false) →
        exec (.restore ⟨who, win⟩ vf list count) s = .next ((s.ckStatus vf 1).setReg (win + 0x20) 0)) ∧
      ((∀ c ∈ chain, c.sameShape = true) → chainOk chain = false →
        exec (.restore ⟨who, win⟩ vf list count) s = .next ((s.ckStatus vf 2).setReg (win + 0x20) 0)) ∧
      ((∀ c ∈ chain, c.sameShape = true) → chainOk chain = true → s.partGangs vf = [] → Tbl.sorted s.contexts = true →
        Tbl.sorted s.launches = true →
        (∀ x ∈ (s.parts.getD vf {}).snapshots, some x.head ≠ chain.getLast?.map fun c => s.partRead vf c.place c.head) →
        ∃ t, exec (.restore ⟨who, win⟩ vf list count) s = .next t ∧ t.reg (win + 0x20) = 0 ∧ bits (t.reg (ckCtl vf)) 15 8 = 0 ∧
          t.mem = (chain.foldl (fun s c => s.putCheckpoint vf c) s).mem ∧ ∀ c ∈ t.contexts, contextVf c.1 ≠ vf)) ∧
    (∀ slot (a : DWord),
      let valid := win = packageWindow ∧ s.ownsKey who slot = true
      (valid → has (s.reg (keySlotReg slot)) 57 = false →
        ∃ t, exec (.keyload ⟨who, win⟩ slot a) s = .next t ∧ t.reg (win + 0x20) = 0 ∧
          t.keys.get? slot =
            some (Config.unwrapKey (s.homeBytes 0 (portMemory (if who = .pf1 then 1 else 0) + a.toNat % 2 ^ 44) 96)) ∧
          has (t.reg (keySlotReg slot)) 63 = true ∧ t.mem = s.mem) ∧
      (¬ valid ∨ has (s.reg (keySlotReg slot)) 57 = true → refused (.keyload ⟨who, win⟩ slot a)) ∧
      (valid → Tbl.sorted s.keys = true → ∃ t, exec (.keydestroy ⟨who, win⟩ slot) s = .next t ∧ t.reg (win + 0x20) = 0 ∧
        t.keys.get? slot = none ∧ has (t.reg (keySlotReg slot)) 63 = false ∧ has (t.reg (keySlotReg slot)) 57 = false ∧
        t.mem = s.mem) ∧
      (¬ valid → refused (.keydestroy ⟨who, win⟩ slot)))) ∧
    (∀ code, s.recovering = false → isWindow win = true → code.toNat ∉ commandCodes →
      exec (.unknownCommand win code) s = .next ((s.setReg (win + 0x18) code).setReg (win + 0x20) 1)) ∧
    (∀ code, s.recovering = true ∨ isWindow win = false ∨ code.toNat ∈ commandCodes → exec (.unknownCommand win code) s = .next s)

/-- R256, R356, R361, R371, R381, R382, R408, R409: a start whose stages verify and whose training succeeds is operational, with no
failure counted, a key in slot 0 and on every link, 4,095 free tokens in each ring, the market running and the index record sent, and
reports coolant out of range, which fails none (log 66); a stage without a good copy, a failed training or, where the start has not
failed already, the watchdog counts a failure with its stage and reason; after three the start ends in recovery, unless RESTART asks for
a normal one. The mailbox writes the flash, verifies a copy as a start would, answers with BOOTSTAT, and restarts. -/
def Obligations.PackageStarts : Prop :=
  ∀ s : State,
    (∀ training : BitVec 8,
      let good := fun (n : Nat) => Config.imageReason (s.flashCopy (2 * n)) = 0 ∨ Config.imageReason (s.flashCopy (2 * n + 1)) = 0
      let failed := fun (t : State) (stage reason : Nat) => exec (.packageStart training) s = .next t ∧
        t.fails = min 3 (s.fails + 1) ∧ bits (t.reg bootStat) 15 14 = 0 ∧ bits (t.reg bootStat) 13 12 = stage ∧
        bits (t.reg bootStat) 11 10 = min 3 (s.fails + 1) ∧ bits (t.reg bootStat) 7 0 = reason
      let normal := s.fails < 3 ∨ s.restarting = true
      (¬ normal → ∃ t, exec (.packageStart training) s = .next t ∧ bits (t.reg bootStat) 15 14 = 2 ∧ t.fails = s.fails ∧
        t.squads = []) ∧
      (normal → (∀ n, n < 3 → good n) → training = 0 ∨ training = 8 →
        ∃ t k, exec (.packageStart training) s = .next t ∧ bits (t.reg bootStat) 15 14 = 1 ∧ t.fails = 0 ∧ t.powered = true ∧
          t.keys.get? 0 = some k ∧ t.market.running = true ∧ t.market.interval = 0 ∧ t.leases = [] ∧ t.squads = [] ∧
          t.flash = s.flash ∧ (∀ a, isHbm a = true → t.homeByte 0 a = 0) ∧
          (bits (t.reg bootStat) 8 8 = 0 ↔ Config.imageReason (s.flashCopy 2) = 0) ∧
          (bits (t.reg bootStat) 7 0 = if training = 8 then 8 else if s.powered then 0 else 7) ∧
          (∀ stack, stack < 16 → (t.linkKeys.get? stack).isSome = true) ∧ (∃ g w, Message.index g 0 w ∈ t.out) ∧
          ∀ cl, cl < 160 → ((List.range 10).map fun p => at' (t.cluster cl).free p 0).sum = 4095) ∧
      (∀ n, n < 3 → normal → (∀ j, j < n → good j) → ¬ good n →
        ∃ t, failed t n (Config.imageReason (s.flashCopy (2 * n + 1))).toNat) ∧
      (normal → (∀ n, n < 3 → good n) → training ≠ 0 → training ≠ 8 → ∃ t, failed t 3 (if training = 5 then 5 else 4))) ∧
    (bits (s.reg bootStat) 15 14 = 0 → bits (s.reg bootStat) 7 0 = 0 → s.fails < 3 → ∃ t, exec .bootWatchdog s = .next t ∧ t.fails = s.fails + 1 ∧
      bits (t.reg bootStat) 7 0 = 6 ∧ bits (t.reg bootStat) 15 14 = 0) ∧
    (bits (s.reg bootStat) 15 14 ≠ 0 ∨ bits (s.reg bootStat) 7 0 ≠ 0 → exec .bootWatchdog s = .next s) ∧
    (let copy := field s.mailIn 1 1
     (copy < 6 →
      (∃ t, exec .flashwrite s = .next t ∧ bits (t.reg (packageBase + 0x400)) 15 8 = 0 ∧
        (∀ i, i < 240 → (t.flashCopy copy)[field s.mailIn 4 4 + i]? = s.mailIn[16 + i]?) ∧
        ∀ other, other ≠ copy → t.flashCopy other = s.flashCopy other) ∧
      (Config.imageReason (s.flashCopy copy) = 0 →
        ∃ t, exec .flashcommit s = .next t ∧ t.committed = true ∧ bits (t.reg (packageBase + 0x400)) 15 8 = 0) ∧
      (Config.imageReason (s.flashCopy copy) ≠ 0 →
        ∃ t, exec .flashcommit s = .next t ∧ t.committed = s.committed ∧ bits (t.reg (packageBase + 0x400)) 15 8 = 1)) ∧
     (6 ≤ copy → ∃ t, exec .flashwrite s = .next t ∧ t.flash = s.flash ∧ bits (t.reg (packageBase + 0x400)) 15 8 = 1)) ∧
    (∃ t, exec .status s = .next t ∧ t.reg (packageBase + 0x410) = s.reg bootStat ∧
      bits (t.reg (packageBase + 0x400)) 7 0 = 3 ∧ bits (t.reg (packageBase + 0x400)) 15 8 = 0) ∧
    (∃ t, exec .restart s = .next t ∧ t.fails = (if s.committed then 0 else s.fails) ∧ bits (t.reg bootStat) 15 14 = 0 ∧
      t.restarting = true ∧ t.squads = [] ∧ t.flash = s.flash ∧ ∀ a, isHbm a = true → t.homeByte 0 a = 0)

/-! ## Writes of software to the registers -/

/-- R8, R360, R373 to R376, R401, R403, R409: a write to a register changes the bits that the writer may write and no other register;
one of a window's CMDCODE posts the command that it names with the window's arguments, another code being refused, and one of the
mailbox's doorbell performs the code of its buffer; the owner of one interface changes nothing in another; a value out of range is ignored; taking a right from level 1 takes it from
every interface, and level 1 hands on bits 0, 2 and 7 alone; the consumer's index of a queue moves on for an agent that may write
it; PF 1 hears of its refused write of PF1DELEG; and in recovery nothing but the mailbox takes a write. -/
def Obligations.RegisterWrites : Prop :=
  ∀ (s : State) (who : Agent) (off : Nat) (v : DWord),
    (ignoredValue off v = false → off ≠ packageBase + 0x10 → (off = packageBase + 0x500 → who ≠ .level0) →
      (isWindow (off - 0x18) = true → s.writeMask who off = 0) →
      ∃ t, exec (.registerWrite who off v) s = .next t ∧
        (∀ k, has (t.reg off) k = if has (s.writeMask who off) k then has v k else has (s.reg off) k) ∧
        (∀ a, a ≠ off → t.reg a = s.reg a) ∧ t.mem = s.mem ∧ t.squads = s.squads) ∧
    (ignoredValue off v = false → off = packageBase + 0x10 → who = .level0 → s.recovering = false →
      ∃ t, exec (.registerWrite who off v) s = .next t ∧ bits (t.reg off) 3 0 = bits v 3 0 ∧
        ∀ k, 4 ≤ k → has (t.reg off) k = has (s.reg off) k) ∧
    (off = packageBase + 0x10 → s.recovering = false →
      exec (.registerWrite .pf1 off v) s = .next (s.eventPf1 (eventRecord evRefused 0 0 0 0 off))) ∧
    (∀ win, off = win + 0x18 → isWindow win = true → s.writeMask who off ≠ 0 →
      let s1 := s.writeBits off (s.writeMask who off) v
      let p : Post := ⟨who, win⟩
      let a := s1.reg win
      let b := s1.reg (win + 8)
      let vf := if isPart win then (win - 0x10000000) / 0x800000 else bits b 4 0
      let iface := if isIface win then (ifaceOf win).2 else bits b 13 8
      (∀ c ∈ [(1, .invs1 p vf iface a b), (2, .invs1all p vf iface), (3, .invs2 p vf a b), (4, .invs2all p vf), (0x20, .ckpt p vf a b),
          (0x21, .restore p vf a b), (0x30, .keyload p a.toNat b), (0x31, .keydestroy p a.toNat),
          (0x32, Instr.retire p (bits a 2 0) (bits a 31 16))],
        (s1.reg off).toNat = c.1 → exec (.registerWrite who off v) s = exec c.2 s1) ∧
      (∀ lk l, s1.launchNamed (contextKey vf iface (bits b 17 16)) a.toNat = some (lk, l) →
        ∀ c ∈ [(0x10, .suspend p lk false), (0x11, .resume p lk false), (0x12, Instr.endCmd p lk)],
          (s1.reg off).toNat = c.1 → exec (.registerWrite who off v) s = exec c.2 s1) ∧
      ((s1.reg off).toNat ∉ commandCodes → exec (.registerWrite who off v) s =
        .next (s1.setReg (win + 0x20) (if has (s1.reg (win + 0x20)) 63 then withBits (s1.reg (win + 0x20)) 7 0 2 else 1)))) ∧
    (∀ code, code = field s.mailIn 0 1 →
      (∀ c ∈ [(1, .flashwrite), (2, .flashcommit), (3, .status), (4, Instr.restart)], code = c.1 →
        exec (.registerWrite .level0 (packageBase + 0x500) v) s = exec c.2 s) ∧
      (code = 0 ∨ 4 < code → ∃ t, exec (.registerWrite .level0 (packageBase + 0x500) v) s = .next t ∧ t.flash = s.flash ∧
        bits (t.reg (packageBase + 0x400)) 7 0 = code ∧ bits (t.reg (packageBase + 0x400)) 15 8 = 1)) ∧
    (s.recovering = true → inRecovery who off = false → off ≠ packageBase + 0x10 → exec (.registerWrite who off v) s = .next s) ∧
    (s.recovering = true → exec (.rightsWrite who off v) s = .next s) ∧
    (ignoredValue off v = true → exec (.registerWrite who off v) s = .next s) ∧
    (∀ vf iface, isIface off = true → who = .level2 vf iface → (vf, iface) ≠ ifaceOf off →
      exec (.registerWrite who off v) s = .next s) ∧
    (∀ ms : DWord, s.recovering = false → exec (.registerWrite .level0 (packageBase + 0x8) ms) s =
      .next (if 250 ≤ bits ms 14 0 ∧ bits ms 14 0 ≤ 16000 ∧ bits (s.reg (packageBase + 0x8)) 14 0 ≠ bits ms 14 0 then
        s.setReg (packageBase + 0x8) ((s.reg (packageBase + 0x8) &&& 0xFFFFFFFFFFFF8000#64) ||| (ms &&& 0x7FFF#64)) else s)) ∧
    (∀ vf, vf < 32 → s.recovering = false → ∃ t, exec (.rightsWrite .level0 (partBase vf) v) s = .next t ∧
      t.reg (partBase vf) = (s.reg (partBase vf) &&& 0xFFFFFFFFFFFFFF00#64) ||| (v &&& 0xFF#64) ∧
      ∀ i, i < 64 → t.reg (partBase vf + 0x200 + 8 * i) = s.reg (partBase vf + 0x200 + 8 * i) &&& v) ∧
    (∀ vf i, vf < 32 → i < 64 → s.recovering = false → ∃ t, exec (.rightsWrite (.level1 vf) (partBase vf + 0x200 + 8 * i) v) s = .next t ∧
      t.reg (partBase vf + 0x200 + 8 * i) = (s.reg (partBase vf + 0x200 + 8 * i) &&& ~~~0x85#64) ||| (v &&& 0x85#64) ∧
      t.reg (partBase vf) = s.reg (partBase vf)) ∧
    (∀ vf i, exec (.rightsWrite (.level2 vf i) off v) s = .next s) ∧
    (∀ cons : BitVec 16, (s.ringAt off).off = off →
      (s.writeMask who (off + 8) &&& 0xFFFF#64 = 0xFFFF#64 →
        (∃ t, exec (.queueConsume ⟨who, off⟩ cons) s = .next t ∧ bits (t.reg (off + 8)) 15 0 = cons.toNat) ∧
        ((∀ w ∈ s.waiting, w.queue ≠ off) →
          exec (.queueConsume ⟨who, off⟩ cons) s = .next (s.setReg (off + 8) (withBits (s.reg (off + 8)) 15 0 cons.toNat)))) ∧
      (s.writeMask who (off + 8) &&& 0xFFFF#64 ≠ 0xFFFF#64 → exec (.queueConsume ⟨who, off⟩ cons) s = .next s))

/-- R184, R327, R347, R351, R354, R364, R376 to R378, R398, R404, R407: the registers with a rule of their own take a write of
their holder under that rule, and otherwise keep their value, the refusal counted (another agent changes nothing): place tables
while no team of the context is on the units named (of banks, on their die, log 128), FIXED while the fixed units, those of the others
reduced to what is in service, fit it, PSLOTS from 1 to 64,
circuits on free leased lanes, VFPORT bits of partitions without contexts, PODCFG with no launch over several packages
resident; CKCTL begins tracking, MIGPOL clears its counters, an export entry takes the next generation, and the claim reserve
is a queue of frames. In recovery none takes a write (R409). -/
def Obligations.RuledRegisters : Prop :=
  ∀ (s : State) (off : Nat) (v : DWord),
    (s.recovering = true → ∀ (who : Agent) (vf d : Nat) (large : Bool), ∀ i ∈ [.placeTableWrite who off v, .fixedWrite who off v,
      .pmktctlWrite who off v, .connectionTableWrite who off v, .ckctlWrite who off v, .migpolWrite who off v, .vfportWrite who off v,
      .podcfgWrite who off v, .exportTableWrite who off v, .claimReservePush who vf d large v, .claimReservePop who vf d],
      exec i s = .next s) ∧
    (s.recovering = false →
    let counted := fun (t : State) (err : Nat) => t.reg off = s.reg off ∧ t.reg (errorCounter err) = s.reg (errorCounter err) + 1
    let takes := fun (t : State) (m : DWord) => ∀ k, has (t.reg off) k = if has m k then has v k else has (s.reg off) k
    (isIface off = true → 0x4000 ≤ inIface off → inIface off < 0x10000 → off % 8 = 0 →
      let o := (inIface off - 0x4000) % 0x3000
      let ctx := contextKey (ifaceOf off).1 (ifaceOf off).2 ((inIface off - 0x4000) / 0x3000)
      let here := fun (p : Nat → Prop) => ∃ x ∈ s.teams, p x.2.core ∧ ((s.gangs.get? x.2.gang).map s.gangContext) = some ctx
      let dies := fun c => ∃ r, (r = s.reg off ∨ r = v) ∧ ∃ l, l < 8 ∧ has r (24 + l) = true ∧ bits r (3 * l + 2) (3 * l) = dieOf c
      let clusters := fun c => ∃ r, (r = s.reg off ∨ r = v) ∧ has r 63 = true ∧ bits r 7 0 = clusterOf c
      (o = 0 → (¬ here dies → ∃ t, exec (.placeTableWrite .level0 off v) s = .next t ∧ takes t (field64 31 0)) ∧
        (here dies → ∃ t, exec (.placeTableWrite .level0 off v) s = .next t ∧ counted t errPlace)) ∧
      (0 < o → o < 0x508 →
        (¬ here clusters → ∃ t, exec (.placeTableWrite .level0 off v) s = .next t ∧ takes t (field64 63 63 ||| field64 39 0)) ∧
        (here clusters → ∃ t, exec (.placeTableWrite .level0 off v) s = .next t ∧ counted t errPlace)) ∧
      (0x508 ≤ o → o < 0x548 →
        let named := (s.reg off ≠ 0 ∨ v ≠ 0) ∧ here fun c => s.physDie? ctx ((o - 0x508) / 8) = some (dieOf c)
        (¬ named → ∃ t, exec (.placeTableWrite .level0 off v) s = .next t ∧ t.reg off = v) ∧
        (named → ∃ t, exec (.placeTableWrite .level0 off v) s = .next t ∧ counted t errPlace))) ∧
    (∀ vf c, vf < 32 → c < 5 → off = partBase vf + 0x400 + 8 * c →
      let fits := ∀ d, d < 8 → ((List.range 32).map fun x =>
        if x = vf then bits v (8 * d + 7) (8 * d) else s.fixedUnits x c d).sum ≤ s.inService c d
      ∀ who, (who = .level0 ∨ s.pf1Has who vf 3 = true →
          (fits → exec (.fixedWrite who off v) s = .next (s.setReg off v).retestFit) ∧
          (¬ fits → ∃ t, exec (.fixedWrite who off v) s = .next t ∧ counted t errFixed)) ∧
        (who ≠ .level0 → s.pf1Has who vf 3 = false → exec (.fixedWrite who off v) s = .next s)) ∧
    (∀ who : Agent, who ≠ .level0 → ∀ i ∈ [.placeTableWrite who off v, .pmktctlWrite who off v, .connectionTableWrite who off v,
      .vfportWrite who off v, .podcfgWrite who off v], exec i s = .next s) ∧
    (∀ vf, vf < 32 → off = partBase vf + 0x4D0 →
      (1 ≤ bits v 6 0 ∧ bits v 6 0 ≤ 64 → ∃ t, exec (.pmktctlWrite .level0 off v) s = .next t ∧ takes t (field64 6 0) ∧
        t.market.ptr2.get? vf = some 0 ∧ t.market.ptr1 = s.market.ptr1) ∧
      (¬ (1 ≤ bits v 6 0 ∧ bits v 6 0 ≤ 64) → ∃ t, exec (.pmktctlWrite .level0 off v) s = .next t ∧ counted t errSlots)) ∧
    (packageBase + 0x2000 ≤ off → off < packageBase + 0x4000 → off % 8 = 0 →
      let ls := circuitLanes v
      let mine := fun l => 1024 ≤ l ∨ ∃ c, s.leaseOf 4 l = some c ∧ contextVf c = bits v 35 31 ∧ contextIface c = bits v 55 36
      let free := ∀ a, packageBase + 0x2000 ≤ a → a < packageBase + 0x4000 → a % 8 = 0 → a ≠ off → has (s.reg a) 63 = true →
        ∀ l ∈ circuitLanes (s.reg a), l ∉ ls
      let right := (∀ l ∈ ls, mine l) ∧ free ∧ ls.Nodup
      (has v 63 = false ∨ right → ∃ t, exec (.connectionTableWrite .level0 off v) s = .next t ∧
        takes t (field64 63 62 ||| field64 55 31 ||| field64 23 7 ||| field64 2 0) ∧ ∀ a, a ≠ off → t.reg a = s.reg a) ∧
      (has v 63 = true → ¬ right → ∃ t, exec (.connectionTableWrite .level0 off v) s = .next t ∧ has (t.reg off) 63 = false ∧
        t.reg (errorCounter errCircuit) = s.reg (errorCounter errCircuit) + 1)) ∧
    (∀ vf who, vf < 32 → off = partBase vf + 0x500 → who = .level0 ∨ (who = .level1 vf ∧ has (s.reg (partBase vf)) 6 = true) →
      ∃ t, exec (.ckctlWrite who off v) s = .next t ∧ takes t (field64 1 0) ∧
        (has v 0 = true → has (s.reg off) 0 = false → (t.parts.getD vf {}).dirtyAll = true ∧ (t.parts.getD vf {}).ckfull = true) ∧
        (has v 1 = false → (t.parts.getD vf {}).stopped = false)) ∧
    (∀ vf i, vf < 32 → i < 64 → off = ifaceBase vf i + 0x18 →
      ∃ t, exec (.migpolWrite .level0 off v) s = .next t ∧ takes t (field64 63 63 ||| field64 47 24 ||| 1) ∧
        ∀ c ∈ s.contextsIn vf i, (t.context c).moves = [] ∧ (t.context c).bids = (s.context c).bids) ∧
    (off = packageBase + 0x20 → ∃ t, exec (.vfportWrite .level0 off v) s = .next t ∧
      ∀ k, has (t.reg off) k = if k < 32 ∧ (∀ c ∈ s.contexts, contextVf c.1 ≠ k) then has v k else has (s.reg off) k) ∧
    (off = podCfg →
      let resident := ∃ l ∈ s.launches, 2 ≤ l.2.podCount ∧ ∃ x ∈ s.teams, ((s.gangs.get? x.2.gang).map fun g => g.launch) = some l.1
      (¬ resident → ∃ t, exec (.podcfgWrite .level0 off v) s = .next t ∧ takes t (field64 31 0) ∧ t.launches = s.launches) ∧
      (resident → exec (.podcfgWrite .level0 off v) s = .next s)) ∧
    (∀ vf i who, vf < 32 → i < 256 → off = partBase vf + 0x8000 + 16 * i →
      (s.handed who vf 2 = false → exec (.exportTableWrite who off v) s = .next s) ∧
      (s.handed who vf 2 = true →
      (has v 0 = true → ∃ t, exec (.exportTableWrite who off v) s = .next t ∧
        (t.exportEntry vf i).gen = ((s.exportEntry vf i).gen + 1) % 2 ^ 19 ∧ (t.exportEntry vf i).valid = true ∧
        (t.exportEntry vf i).iface = bits v 47 28 ∧ (t.exportEntry vf i).readable = has v 1 ∧
        (t.exportEntry vf i).writable = has v 2) ∧
      (has v 0 = false → ∃ t, exec (.exportTableWrite who off v) s = .next t ∧
        (t.exportEntry vf i).gen = (s.exportEntry vf i).gen ∧ (t.exportEntry vf i).valid = false) ∧
      ∃ t, exec (.exportTableWrite who (off + 8) v) s = .next t ∧ (t.exportEntry vf i).len = bits v 47 23 * 4096 ∧
        (t.exportEntry vf i).peer = bits v 63 48 ∧ (t.exportEntry vf i).gen = (s.exportEntry vf i).gen)) ∧
    (∀ vf d who (large : Bool), (s.handed who vf 1 = false →
        exec (.claimReservePush who vf d large v) s = .next s ∧ exec (.claimReservePop who vf d) s = .next s) ∧
      (s.handed who vf 1 = true →
      let p := s.parts.getD vf {}
      let key := 2 * d + (if large then 1 else 0)
      let frame := bits v 45 12 * 4096
      let l := p.reserve.getD key []
      (l.length < 4096 → large = false ∨ frame % 2 ^ 21 = 0 → ∃ t, exec (.claimReservePush who vf d large v) s = .next t ∧
        (t.parts.getD vf {}).reserve.getD key [] = l ++ [frame] ∧ t.mem = s.mem ∧ t.regs = s.regs) ∧
      (4096 ≤ l.length ∨ (large = true ∧ frame % 2 ^ 21 ≠ 0) → exec (.claimReservePush who vf d large v) s =
        .next (s.setReg (errorCounter errReserve) (s.reg (errorCounter errReserve) + 1))) ∧
      (p.returned.getD d [] = [] → exec (.claimReservePop who vf d) s =
        .next { s with out := s.out ++ [.data (leBytes 0 8)] }) ∧
      ∀ f b rest, p.returned.getD d [] = (f, b) :: rest → ∃ t, exec (.claimReservePop who vf d) s = .next t ∧
        t.out = s.out ++ [.data (leBytes (2 ^ 63 + f + if b then 1 else 0) 8)] ∧ (t.parts.getD vf {}).returned.getD d [] = rest)))

/-! ## Steps, reset and encodings -/

/-- R22, R25, R28, R40 to R42, R65: a step runs the device step that comes next; with none, the word at the position of the
split that the quarter in turn has chosen, decoded from the clause it stands in, an unassigned one raising its trap; a clause is
fetched from its header's address, as many words as the header counts. -/
def Obligations.StepRunsTheWord : Prop :=
  ∀ s : State,
    (∀ i rest, s.agenda = i :: rest → step s = exec i { s with agenda := rest }) ∧
    (s.agenda = [] → s.powered = false → step s = .fault .powerOff) ∧
    (∀ k sp q p c, s.agenda = [] → s.powered = true → (at' (s.core (s.turn / 4)).quarters (s.turn % 4) {}).chosen = some (k, sp) →
      s.squads.get? k = some q → q.split? sp = some p → p.clause = some c → p.wait = none → p.held = false →
      q.mayIssue sp = true → s.paused q.core = false → (∃ x ∈ c.items (indexOf p.pos), x.1 = indexOf p.pos) →
      (∀ i n, decode (c.words.drop (indexOf p.pos)) = .ok (i, n) → step s = exec i { s with cur := ⟨k, sp⟩ }) ∧
      (∀ w ws e, c.words.drop (indexOf p.pos) = w :: ws → decode (w :: ws) = .error e →
        step s = exec (.unassignedOpcode w) { s with cur := ⟨k, sp⟩ })) ∧
    (∀ (u : Issuer) (e : Nat → TlbEntry) (h : Word), let a := headerOf u.split.pos
      let n := (fld h 24 3).toNat + 1
      let ctx := s.contextOf u.squad
      let w := fun j => BitVec.ofNat 32 (leNat (s.homeLoad ((e j).xlateFor ctx (a + 4 * j)) 4))
      a + 4 * n < 2 ^ 48 → w 0 = h → fld h 27 5 = 0x1F#5 →
      (∀ j, j ≤ n → inPodWindow (a + 4 * j) = false ∧
        s.tlbHit u.squad.core u.squad.quarter (contextVf ctx) (contextIface ctx) (a + 4 * j) .fetch = some (e j)) →
      s.fetchClause u = .clause ⟨h, (List.range n).map fun j => w (j + 1)⟩)

/-- R360, R364, R381, R392, R401, R408: right after package reset nothing is resident, no unit is leased, the market does not
run, memory is in canonical form, and the registers hold their reset values. -/
def Obligations.ResetState : Prop :=
  let s := State.reset
  s.squads = [] ∧ s.teams = [] ∧ s.gangs = [] ∧ s.launches = [] ∧ s.contexts = [] ∧ s.leases = [] ∧
  s.retired = [] ∧ s.market.running = false ∧ s.market.interval = 0 ∧ Memory.wf s.mem = true ∧
  (∀ v i, v < 32 → i < 64 →
    bits (s.reg (packageBase + 0x8)) 14 0 = 1000 ∧ bits (s.reg (partBase v + 0x4D0)) 6 0 = 64 ∧
    bits (s.reg (packageBase + 0x210)) 31 0 = 1000 ∧ bits (s.reg (partBase v + 0x710)) 31 0 = 1000 ∧
    bits (s.reg (ifaceBase v i + 0x250)) 31 0 = 1000 ∧ bits (s.reg (ifaceBase v i + 0x270)) 31 0 = 1000 ∧
    bits (s.reg (hbCtl v i)) 43 32 = 30 ∧ bits (s.reg (hbCtl v i)) 15 0 = 1000 ∧ s.session v i = 0 ∧
    has (s.reg (keySlotReg 0)) 63 = true ∧ s.reg bootStat = 0 ∧ s.reg (partBase v) = 0 ∧ s.reg (pursePart v) = 0 ∧
    s.reg (purseIface v i) = 0 ∧ s.reg (ckCtl v) = 0)

/-- R30 to R36, R40: words written out from the encoding tables decode to the instructions they stand for. -/
def Obligations.WordsDecode : Prop :=
  ∀ x ∈ ([(0x0014C070#32, .sadd 5 6 (.reg 7)), (0x1014A1FF#32, .saddI 5 5 0x1FF#9),
      (0xC1088E10#32, .vldW 2 4 7 (.vec 1 false .ident)), (0x400C5267#32, .vadd 3 (.vec 2 true .rot) (.sca 6)),
      (0xA0180023#32, .vmov 6 (.vec 2 false .bc)), (0xB4206040#32, .mma 0 1 0 3 0 4),
      (0xE41C0203#32, .bari 7 1 3), (0x20B3FFF4#32, .brs 12 0x3FFF4#18), (0x2600002A#32, .trap 0x002A#16)] : List (Word × Instr)),
    decode [x.1] = .ok (x.2, 1)

/-- R30 to R36, R40, R42, R412: every well-formed body word is read back from its encoding, with every operand and its literal
word, whatever words follow. -/
def Obligations.EncodedWordsDecode : Prop :=
  ∀ (i : Instr) (rest : List Word), isWord i = true → i.wf = true → decode (encode i ++ rest) = .ok (i, wordsOf i)

/-- Every step keeps memory in canonical form: addresses rise strictly, and no entry is what an unlisted address reads as. -/
def Obligations.StepKeepsMemoryCanonical : Prop :=
  ∀ s t : State, Memory.wf s.mem = true → step s = .next t → Memory.wf t.mem = true
end

