-- ==== Sys2Proof/Laws/Table.lean ====
section
/-! SUPPORT. Laws of sparse tables, fixed vectors and memories: reading after writing, and the canonical forms that every
operation keeps. -/

namespace Sys2Proof.Machine

/-! ## Sparse tables -/

@[simp] theorem Tbl.get?_nil {α : Type} (k : Nat) : Tbl.get? ([] : Tbl α) k = none := rfl

@[simp] theorem Tbl.get?_set_self {α : Type} (t : Tbl α) (k : Nat) (v : α) : (Tbl.set t k v).get? k = some v := by
  induction t with
  | nil => simp [Tbl.set, Tbl.get?]
  | cons e t ih =>
    obtain ⟨j, x⟩ := e
    simp only [Tbl.set]
    split
    · simp [Tbl.get?]
    · split
      · simp [Tbl.get?]
      · rename_i h1 h2
        simp only [Tbl.get?, if_neg (Ne.symm h2)]
        exact ih

theorem Tbl.get?_set_ne {α : Type} (t : Tbl α) {k l : Nat} (v : α) (h : l ≠ k) : (Tbl.set t k v).get? l = t.get? l := by
  induction t with
  | nil => simp [Tbl.set, Tbl.get?, h.symm]
  | cons e t ih =>
    obtain ⟨j, x⟩ := e
    simp only [Tbl.set]
    split
    · simp [Tbl.get?, h.symm]
    · split
      · rename_i _ hk
        subst hk
        simp [Tbl.get?, h.symm]
      · simp only [Tbl.get?]
        split
        · rfl
        · exact ih

theorem Tbl.get?_set {α : Type} (t : Tbl α) (k l : Nat) (v : α) :
    (Tbl.set t k v).get? l = if l = k then some v else t.get? l := by
  by_cases h : l = k
  · subst h; simp
  · simp [h, Tbl.get?_set_ne t v h]

theorem Tbl.getD_set {α : Type} (t : Tbl α) (k l : Nat) (v d : α) :
    (Tbl.set t k v).getD l d = if l = k then v else t.getD l d := by
  unfold Tbl.getD
  rw [Tbl.get?_set]
  split <;> rfl

/-- Every key of a table is above a bound. -/
def Tbl.above {α : Type} (b : Nat) (t : Tbl α) : Prop := ∀ e ∈ t, b < e.1

theorem Tbl.sorted_cons {α : Type} {j : Nat} {x : α} {t : Tbl α} :
    Tbl.sorted ((j, x) :: t) = true ↔ Tbl.above j t ∧ Tbl.sorted t = true := by
  induction t generalizing j x with
  | nil => simp [Tbl.sorted, Tbl.above]
  | cons e t ih =>
    obtain ⟨k, y⟩ := e
    simp only [Tbl.sorted, Bool.and_eq_true, decide_eq_true_eq]
    constructor
    · rintro ⟨hjk, hs⟩
      refine ⟨?_, hs⟩
      intro e he
      rcases List.mem_cons.mp he with rfl | he
      · exact hjk
      · exact Nat.lt_trans hjk ((ih.mp hs).1 e he)
    · rintro ⟨ha, hs⟩
      exact ⟨ha (k, y) (by simp), hs⟩

theorem Tbl.mem_of_get? {α : Type} {t : Tbl α} {k : Nat} {v : α} (h : t.get? k = some v) : (k, v) ∈ t := by
  induction t with
  | nil => cases h
  | cons e t ih =>
    obtain ⟨j, x⟩ := e
    simp only [Tbl.get?] at h
    split at h
    · rename_i hj
      cases h
      simp [hj]
    · exact List.mem_cons_of_mem _ (ih h)

theorem Tbl.get?_above {α : Type} {b k : Nat} {t : Tbl α} (h : Tbl.above b t) (hk : k ≤ b) : t.get? k = none := by
  induction t with
  | nil => rfl
  | cons e t ih =>
    obtain ⟨j, x⟩ := e
    have hj : b < j := h (j, x) (by simp)
    have hne : j ≠ k := by omega
    simp only [Tbl.get?, if_neg hne]
    exact ih fun e he => h e (by simp [he])

theorem Tbl.mem_set {α : Type} {t : Tbl α} {k : Nat} {v : α} {e : Nat × α} (h : e ∈ Tbl.set t k v) : e = (k, v) ∨ e ∈ t := by
  induction t with
  | nil => simpa [Tbl.set] using h
  | cons f t ih =>
    obtain ⟨j, x⟩ := f
    simp only [Tbl.set] at h
    split at h
    · rcases List.mem_cons.mp h with h | h
      · exact .inl h
      · exact .inr h
    · split at h
      · rcases List.mem_cons.mp h with h | h
        · exact .inl h
        · exact .inr (by simp [h])
      · rcases List.mem_cons.mp h with h | h
        · exact .inr (by simp [h])
        · rcases ih h with h | h
          · exact .inl h
          · exact .inr (by simp [h])

theorem Tbl.sorted_set {α : Type} {t : Tbl α} (h : Tbl.sorted t = true) (k : Nat) (v : α) : Tbl.sorted (Tbl.set t k v) = true := by
  induction t with
  | nil => simp [Tbl.set, Tbl.sorted]
  | cons e t ih =>
    obtain ⟨j, x⟩ := e
    obtain ⟨ha, hs⟩ := Tbl.sorted_cons.mp h
    simp only [Tbl.set]
    split
    · rename_i hk
      refine Tbl.sorted_cons.mpr ⟨?_, h⟩
      intro f hf
      rcases List.mem_cons.mp hf with rfl | hf
      · exact hk
      · exact Nat.lt_trans hk (ha f hf)
    · split
      · rename_i hk
        subst hk
        exact Tbl.sorted_cons.mpr ⟨ha, hs⟩
      · refine Tbl.sorted_cons.mpr ⟨?_, ih hs⟩
        intro f hf
        rcases Tbl.mem_set hf with rfl | hf
        · simp only; omega
        · exact ha f hf

theorem Tbl.mem_erase {α : Type} {t : Tbl α} {k : Nat} {e : Nat × α} (h : e ∈ Tbl.erase t k) : e ∈ t := by
  induction t with
  | nil => simp [Tbl.erase] at h
  | cons f t ih =>
    obtain ⟨j, x⟩ := f
    simp only [Tbl.erase] at h
    split at h
    · simp [h]
    · rcases List.mem_cons.mp h with h | h
      · simp [h]
      · simp [ih h]

theorem Tbl.sorted_erase {α : Type} {t : Tbl α} (h : Tbl.sorted t = true) (k : Nat) : Tbl.sorted (Tbl.erase t k) = true := by
  induction t with
  | nil => rfl
  | cons e t ih =>
    obtain ⟨j, x⟩ := e
    obtain ⟨ha, hs⟩ := Tbl.sorted_cons.mp h
    simp only [Tbl.erase]
    split
    · exact hs
    · exact Tbl.sorted_cons.mpr ⟨fun f hf => ha f (Tbl.mem_erase hf), ih hs⟩

theorem Tbl.get?_erase {α : Type} {t : Tbl α} (h : Tbl.sorted t = true) (k l : Nat) :
    (Tbl.erase t k).get? l = if l = k then none else t.get? l := by
  induction t with
  | nil => simp [Tbl.erase]
  | cons e t ih =>
    obtain ⟨j, x⟩ := e
    obtain ⟨ha, hs⟩ := Tbl.sorted_cons.mp h
    simp only [Tbl.erase]
    split
    · rename_i hj
      subst hj
      split
      · rename_i hl
        subst hl
        exact Tbl.get?_above ha (Nat.le_refl _)
      · rename_i hl
        simp [Tbl.get?, Ne.symm hl]
    · rename_i hj
      simp only [Tbl.get?, ih hs]
      split
      · rename_i h1
        subst h1
        simp [hj]
      · rfl

theorem Tbl.sorted_filter {α : Type} {t : Tbl α} (h : Tbl.sorted t = true) (p : Nat × α → Bool) :
    Tbl.sorted (t.filter p) = true := by
  induction t with
  | nil => rfl
  | cons e t ih =>
    obtain ⟨j, x⟩ := e
    obtain ⟨ha, hs⟩ := Tbl.sorted_cons.mp h
    simp only [List.filter_cons]
    split
    · exact Tbl.sorted_cons.mpr ⟨fun f hf => ha f (List.mem_filter.mp hf).1, ih hs⟩
    · exact ih hs

/-! ## Fixed vectors -/

theorem at'_put {α : Type} {n : Nat} (v : Vector α n) (i j : Nat) (x d : α) :
    at' (put v i x) j d = if i = j ∧ j < n then x else at' v j d := by
  unfold at' put
  simp only [Vector.toList, List.getD_eq_getElem?_getD, List.getElem?_set]
  by_cases h : i = j
  · subst h
    by_cases hi : i < n
    · simp [hi]
    · simp [hi]
  · simp [h]

theorem at'_put_self {α : Type} {n : Nat} (v : Vector α n) {i : Nat} (x d : α) (h : i < n) : at' (put v i x) i d = x := by
  simp [at'_put, h]

theorem at'_put_ne {α : Type} {n : Nat} (v : Vector α n) {i j : Nat} (x d : α) (h : i ≠ j) : at' (put v i x) j d = at' v j d := by
  simp [at'_put, h]

theorem at'_tab {α : Type} (n : Nat) (f : Nat → α) {i : Nat} (d : α) (h : i < n) : at' (tab n f) i d = f i := by
  simp [at', tab, Vector.toList, h]

/-- A lane of the register of a function. -/
theorem lane_lanesOf (f : Nat → Word) {i : Nat} (h : i < 32) : lane (lanesOf f) i = f i := at'_tab 32 f 0 h

/-! ## Memories -/

/-- Canonical form, as its two halves. -/
theorem Memory.wf_iff {m : List Host.Cell} : Memory.wf m = true ↔ Tbl.sorted (α := Byte) m = true ∧ ∀ c ∈ m, c.2 ≠ unlisted := by
  simp [Memory.wf]

/-- Writing a byte keeps the canonical form. -/
theorem writeByte_wf {m : List Host.Cell} (h : Memory.wf m = true) (a : Nat) (b : Byte) : Memory.wf (writeByte m a b) = true := by
  obtain ⟨hs, hn⟩ := Memory.wf_iff.mp h
  unfold writeByte
  split
  · exact Memory.wf_iff.mpr ⟨Tbl.sorted_erase hs a, fun c hc => hn c (Tbl.mem_erase hc)⟩
  · rename_i hb
    refine Memory.wf_iff.mpr ⟨Tbl.sorted_set hs a b, fun c hc => ?_⟩
    rcases Tbl.mem_set hc with rfl | hc
    · exact hb
    · exact hn c hc

/-- Writing bytes keeps the canonical form. -/
theorem writeBytes_wf {m : List Host.Cell} (h : Memory.wf m = true) (a : Nat) (bs : List Byte) :
    Memory.wf (writeBytes m a bs) = true := by
  induction bs generalizing m a with
  | nil => exact h
  | cons b bs ih => exact ih (writeByte_wf h a b) (a + 1)

/-- Keeping some cells keeps the canonical form. -/
theorem filter_wf {m : List Host.Cell} (h : Memory.wf m = true) (p : Host.Cell → Bool) : Memory.wf (m.filter p) = true := by
  obtain ⟨hs, hn⟩ := Memory.wf_iff.mp h
  exact Memory.wf_iff.mpr ⟨Tbl.sorted_filter hs p, fun c hc => hn c (List.mem_filter.mp hc).1⟩

/-- Clearing a range keeps the canonical form. -/
theorem clearBytes_wf {m : List Host.Cell} (h : Memory.wf m = true) (a n : Nat) : Memory.wf (clearBytes m a n) = true :=
  filter_wf h _

/-- Reading a byte of a memory in canonical form after a byte is written. -/
theorem readByte_writeByte {m : List Host.Cell} (h : Memory.wf m = true) (a x : Nat) (b : Byte) :
    readByte (writeByte m a b) x = if x = a then b else readByte m x := by
  obtain ⟨hs, _⟩ := Memory.wf_iff.mp h
  unfold readByte writeByte
  split
  · rename_i hb
    unfold Tbl.getD
    rw [Tbl.get?_erase hs]
    split
    · simp [hb]
    · rfl
  · exact Tbl.getD_set (α := Byte) m a x b unlisted

/-- Reading a byte of a memory in canonical form after bytes are written. -/
theorem readByte_writeBytes {m : List Host.Cell} (h : Memory.wf m = true) (a x : Nat) (bs : List Byte) :
    readByte (writeBytes m a bs) x = if a ≤ x ∧ x < a + bs.length then bs.getD (x - a) 0 else readByte m x := by
  induction bs generalizing m a with
  | nil =>
    rw [if_neg (by simp)]
    rfl
  | cons b bs ih =>
    simp only [writeBytes, ih (writeByte_wf h a b), readByte_writeByte h, List.length_cons]
    by_cases h1 : x = a
    · subst h1
      rw [if_pos rfl, if_neg (by omega), if_pos (by omega), Nat.sub_self]
      rfl
    · by_cases h2 : a + 1 ≤ x ∧ x < a + 1 + bs.length
      · have h3 : a ≤ x ∧ x < a + (bs.length + 1) := by omega
        have h4 : x - a = (x - (a + 1)) + 1 := by omega
        rw [if_pos h2, if_pos h3, h4]
        simp
      · have h3 : ¬ (a ≤ x ∧ x < a + (bs.length + 1)) := by omega
        rw [if_neg h2, if_neg h3, if_neg h1]

end Sys2Proof.Machine
end

