-- ==== Sys2Proof/Laws/State.lean ====
section
/-! SUPPORT. Each field of the state after each update of one unit: one lemma for each, so that no proof unfolds a record. -/

namespace Sys2Proof.Machine

/-! ## `State.setSquad` -/

@[simp] theorem State.setSquad_cur (s : State) (k : Nat) (x : Squad) : (s.setSquad k x).cur = s.cur := rfl
@[simp] theorem State.setSquad_turn (s : State) (k : Nat) (x : Squad) : (s.setSquad k x).turn = s.turn := rfl
@[simp] theorem State.setSquad_agenda (s : State) (k : Nat) (x : Squad) : (s.setSquad k x).agenda = s.agenda := rfl
@[simp] theorem State.setSquad_rotor (s : State) (k : Nat) (x : Squad) : (s.setSquad k x).rotor = s.rotor := rfl
@[simp] theorem State.setSquad_fresh (s : State) (k : Nat) (x : Squad) : (s.setSquad k x).fresh = s.fresh := rfl
@[simp] theorem State.setSquad_nextId (s : State) (k : Nat) (x : Squad) : (s.setSquad k x).nextId = s.nextId := rfl
@[simp] theorem State.setSquad_squads (s : State) (k : Nat) (x : Squad) : (s.setSquad k x).squads = s.squads.set k x := rfl
@[simp] theorem State.setSquad_teams (s : State) (k : Nat) (x : Squad) : (s.setSquad k x).teams = s.teams := rfl
@[simp] theorem State.setSquad_gangs (s : State) (k : Nat) (x : Squad) : (s.setSquad k x).gangs = s.gangs := rfl
@[simp] theorem State.setSquad_launches (s : State) (k : Nat) (x : Squad) : (s.setSquad k x).launches = s.launches := rfl
@[simp] theorem State.setSquad_contexts (s : State) (k : Nat) (x : Squad) : (s.setSquad k x).contexts = s.contexts := rfl
@[simp] theorem State.setSquad_parts (s : State) (k : Nat) (x : Squad) : (s.setSquad k x).parts = s.parts := rfl
@[simp] theorem State.setSquad_cores (s : State) (k : Nat) (x : Squad) : (s.setSquad k x).cores = s.cores := rfl
@[simp] theorem State.setSquad_clusters (s : State) (k : Nat) (x : Squad) : (s.setSquad k x).clusters = s.clusters := rfl
@[simp] theorem State.setSquad_dies (s : State) (k : Nat) (x : Squad) : (s.setSquad k x).dies = s.dies := rfl
@[simp] theorem State.setSquad_mem (s : State) (k : Nat) (x : Squad) : (s.setSquad k x).mem = s.mem := rfl
@[simp] theorem State.setSquad_burstKey (s : State) (k : Nat) (x : Squad) : (s.setSquad k x).burstKey = s.burstKey := rfl
@[simp] theorem State.setSquad_regs (s : State) (k : Nat) (x : Squad) : (s.setSquad k x).regs = s.regs := rfl
@[simp] theorem State.setSquad_fabric (s : State) (k : Nat) (x : Squad) : (s.setSquad k x).fabric = s.fabric := rfl
@[simp] theorem State.setSquad_leases (s : State) (k : Nat) (x : Squad) : (s.setSquad k x).leases = s.leases := rfl
@[simp] theorem State.setSquad_market (s : State) (k : Nat) (x : Squad) : (s.setSquad k x).market = s.market := rfl
@[simp] theorem State.setSquad_retired (s : State) (k : Nat) (x : Squad) : (s.setSquad k x).retired = s.retired := rfl
@[simp] theorem State.setSquad_retiring (s : State) (k : Nat) (x : Squad) : (s.setSquad k x).retiring = s.retiring := rfl
@[simp] theorem State.setSquad_sweeps (s : State) (k : Nat) (x : Squad) : (s.setSquad k x).sweeps = s.sweeps := rfl
@[simp] theorem State.setSquad_scrubs (s : State) (k : Nat) (x : Squad) : (s.setSquad k x).scrubs = s.scrubs := rfl
@[simp] theorem State.setSquad_scrubbed (s : State) (k : Nat) (x : Squad) : (s.setSquad k x).scrubbed = s.scrubbed := rfl
@[simp] theorem State.setSquad_saved (s : State) (k : Nat) (x : Squad) : (s.setSquad k x).saved = s.saved := rfl
@[simp] theorem State.setSquad_freshness (s : State) (k : Nat) (x : Squad) : (s.setSquad k x).freshness = s.freshness := rfl
@[simp] theorem State.setSquad_keys (s : State) (k : Nat) (x : Squad) : (s.setSquad k x).keys = s.keys := rfl
@[simp] theorem State.setSquad_linkKeys (s : State) (k : Nat) (x : Squad) : (s.setSquad k x).linkKeys = s.linkKeys := rfl
@[simp] theorem State.setSquad_waiting (s : State) (k : Nat) (x : Squad) : (s.setSquad k x).waiting = s.waiting := rfl
@[simp] theorem State.setSquad_out (s : State) (k : Nat) (x : Squad) : (s.setSquad k x).out = s.out := rfl
@[simp] theorem State.setSquad_wakes (s : State) (k : Nat) (x : Squad) : (s.setSquad k x).wakes = s.wakes := rfl
@[simp] theorem State.setSquad_services (s : State) (k : Nat) (x : Squad) : (s.setSquad k x).services = s.services := rfl
@[simp] theorem State.setSquad_flash (s : State) (k : Nat) (x : Squad) : (s.setSquad k x).flash = s.flash := rfl
@[simp] theorem State.setSquad_fails (s : State) (k : Nat) (x : Squad) : (s.setSquad k x).fails = s.fails := rfl
@[simp] theorem State.setSquad_committed (s : State) (k : Nat) (x : Squad) : (s.setSquad k x).committed = s.committed := rfl
@[simp] theorem State.setSquad_powered (s : State) (k : Nat) (x : Squad) : (s.setSquad k x).powered = s.powered := rfl
@[simp] theorem State.setSquad_submissionsStopped (s : State) (k : Nat) (x : Squad) : (s.setSquad k x).submissionsStopped = s.submissionsStopped := rfl
@[simp] theorem State.setSquad_time (s : State) (k : Nat) (x : Squad) : (s.setSquad k x).time = s.time := rfl
@[simp] theorem State.setSquad_admissions (s : State) (k : Nat) (x : Squad) : (s.setSquad k x).admissions = s.admissions := rfl
@[simp] theorem State.setSquad_tickets (s : State) (k : Nat) (x : Squad) : (s.setSquad k x).tickets = s.tickets := rfl
@[simp] theorem State.setSquad_halts (s : State) (k : Nat) (x : Squad) : (s.setSquad k x).halts = s.halts := rfl
@[simp] theorem State.setSquad_fencets (s : State) (k : Nat) (x : Squad) : (s.setSquad k x).fencets = s.fencets := rfl

/-! ## `State.setTeam` -/

@[simp] theorem State.setTeam_cur (s : State) (k : Nat) (x : Team) : (s.setTeam k x).cur = s.cur := rfl
@[simp] theorem State.setTeam_turn (s : State) (k : Nat) (x : Team) : (s.setTeam k x).turn = s.turn := rfl
@[simp] theorem State.setTeam_agenda (s : State) (k : Nat) (x : Team) : (s.setTeam k x).agenda = s.agenda := rfl
@[simp] theorem State.setTeam_rotor (s : State) (k : Nat) (x : Team) : (s.setTeam k x).rotor = s.rotor := rfl
@[simp] theorem State.setTeam_fresh (s : State) (k : Nat) (x : Team) : (s.setTeam k x).fresh = s.fresh := rfl
@[simp] theorem State.setTeam_nextId (s : State) (k : Nat) (x : Team) : (s.setTeam k x).nextId = s.nextId := rfl
@[simp] theorem State.setTeam_squads (s : State) (k : Nat) (x : Team) : (s.setTeam k x).squads = s.squads := rfl
@[simp] theorem State.setTeam_teams (s : State) (k : Nat) (x : Team) : (s.setTeam k x).teams = s.teams.set k x := rfl
@[simp] theorem State.setTeam_gangs (s : State) (k : Nat) (x : Team) : (s.setTeam k x).gangs = s.gangs := rfl
@[simp] theorem State.setTeam_launches (s : State) (k : Nat) (x : Team) : (s.setTeam k x).launches = s.launches := rfl
@[simp] theorem State.setTeam_contexts (s : State) (k : Nat) (x : Team) : (s.setTeam k x).contexts = s.contexts := rfl
@[simp] theorem State.setTeam_parts (s : State) (k : Nat) (x : Team) : (s.setTeam k x).parts = s.parts := rfl
@[simp] theorem State.setTeam_cores (s : State) (k : Nat) (x : Team) : (s.setTeam k x).cores = s.cores := rfl
@[simp] theorem State.setTeam_clusters (s : State) (k : Nat) (x : Team) : (s.setTeam k x).clusters = s.clusters := rfl
@[simp] theorem State.setTeam_dies (s : State) (k : Nat) (x : Team) : (s.setTeam k x).dies = s.dies := rfl
@[simp] theorem State.setTeam_mem (s : State) (k : Nat) (x : Team) : (s.setTeam k x).mem = s.mem := rfl
@[simp] theorem State.setTeam_burstKey (s : State) (k : Nat) (x : Team) : (s.setTeam k x).burstKey = s.burstKey := rfl
@[simp] theorem State.setTeam_regs (s : State) (k : Nat) (x : Team) : (s.setTeam k x).regs = s.regs := rfl
@[simp] theorem State.setTeam_fabric (s : State) (k : Nat) (x : Team) : (s.setTeam k x).fabric = s.fabric := rfl
@[simp] theorem State.setTeam_leases (s : State) (k : Nat) (x : Team) : (s.setTeam k x).leases = s.leases := rfl
@[simp] theorem State.setTeam_market (s : State) (k : Nat) (x : Team) : (s.setTeam k x).market = s.market := rfl
@[simp] theorem State.setTeam_retired (s : State) (k : Nat) (x : Team) : (s.setTeam k x).retired = s.retired := rfl
@[simp] theorem State.setTeam_retiring (s : State) (k : Nat) (x : Team) : (s.setTeam k x).retiring = s.retiring := rfl
@[simp] theorem State.setTeam_sweeps (s : State) (k : Nat) (x : Team) : (s.setTeam k x).sweeps = s.sweeps := rfl
@[simp] theorem State.setTeam_scrubs (s : State) (k : Nat) (x : Team) : (s.setTeam k x).scrubs = s.scrubs := rfl
@[simp] theorem State.setTeam_scrubbed (s : State) (k : Nat) (x : Team) : (s.setTeam k x).scrubbed = s.scrubbed := rfl
@[simp] theorem State.setTeam_saved (s : State) (k : Nat) (x : Team) : (s.setTeam k x).saved = s.saved := rfl
@[simp] theorem State.setTeam_freshness (s : State) (k : Nat) (x : Team) : (s.setTeam k x).freshness = s.freshness := rfl
@[simp] theorem State.setTeam_keys (s : State) (k : Nat) (x : Team) : (s.setTeam k x).keys = s.keys := rfl
@[simp] theorem State.setTeam_linkKeys (s : State) (k : Nat) (x : Team) : (s.setTeam k x).linkKeys = s.linkKeys := rfl
@[simp] theorem State.setTeam_waiting (s : State) (k : Nat) (x : Team) : (s.setTeam k x).waiting = s.waiting := rfl
@[simp] theorem State.setTeam_out (s : State) (k : Nat) (x : Team) : (s.setTeam k x).out = s.out := rfl
@[simp] theorem State.setTeam_wakes (s : State) (k : Nat) (x : Team) : (s.setTeam k x).wakes = s.wakes := rfl
@[simp] theorem State.setTeam_services (s : State) (k : Nat) (x : Team) : (s.setTeam k x).services = s.services := rfl
@[simp] theorem State.setTeam_flash (s : State) (k : Nat) (x : Team) : (s.setTeam k x).flash = s.flash := rfl
@[simp] theorem State.setTeam_fails (s : State) (k : Nat) (x : Team) : (s.setTeam k x).fails = s.fails := rfl
@[simp] theorem State.setTeam_committed (s : State) (k : Nat) (x : Team) : (s.setTeam k x).committed = s.committed := rfl
@[simp] theorem State.setTeam_powered (s : State) (k : Nat) (x : Team) : (s.setTeam k x).powered = s.powered := rfl
@[simp] theorem State.setTeam_submissionsStopped (s : State) (k : Nat) (x : Team) : (s.setTeam k x).submissionsStopped = s.submissionsStopped := rfl
@[simp] theorem State.setTeam_time (s : State) (k : Nat) (x : Team) : (s.setTeam k x).time = s.time := rfl
@[simp] theorem State.setTeam_admissions (s : State) (k : Nat) (x : Team) : (s.setTeam k x).admissions = s.admissions := rfl
@[simp] theorem State.setTeam_tickets (s : State) (k : Nat) (x : Team) : (s.setTeam k x).tickets = s.tickets := rfl
@[simp] theorem State.setTeam_halts (s : State) (k : Nat) (x : Team) : (s.setTeam k x).halts = s.halts := rfl
@[simp] theorem State.setTeam_fencets (s : State) (k : Nat) (x : Team) : (s.setTeam k x).fencets = s.fencets := rfl

/-! ## `State.setGang` -/

@[simp] theorem State.setGang_cur (s : State) (k : Nat) (x : Gang) : (s.setGang k x).cur = s.cur := rfl
@[simp] theorem State.setGang_turn (s : State) (k : Nat) (x : Gang) : (s.setGang k x).turn = s.turn := rfl
@[simp] theorem State.setGang_agenda (s : State) (k : Nat) (x : Gang) : (s.setGang k x).agenda = s.agenda := rfl
@[simp] theorem State.setGang_rotor (s : State) (k : Nat) (x : Gang) : (s.setGang k x).rotor = s.rotor := rfl
@[simp] theorem State.setGang_fresh (s : State) (k : Nat) (x : Gang) : (s.setGang k x).fresh = s.fresh := rfl
@[simp] theorem State.setGang_nextId (s : State) (k : Nat) (x : Gang) : (s.setGang k x).nextId = s.nextId := rfl
@[simp] theorem State.setGang_squads (s : State) (k : Nat) (x : Gang) : (s.setGang k x).squads = s.squads := rfl
@[simp] theorem State.setGang_teams (s : State) (k : Nat) (x : Gang) : (s.setGang k x).teams = s.teams := rfl
@[simp] theorem State.setGang_gangs (s : State) (k : Nat) (x : Gang) : (s.setGang k x).gangs = s.gangs.set k x := rfl
@[simp] theorem State.setGang_launches (s : State) (k : Nat) (x : Gang) : (s.setGang k x).launches = s.launches := rfl
@[simp] theorem State.setGang_contexts (s : State) (k : Nat) (x : Gang) : (s.setGang k x).contexts = s.contexts := rfl
@[simp] theorem State.setGang_parts (s : State) (k : Nat) (x : Gang) : (s.setGang k x).parts = s.parts := rfl
@[simp] theorem State.setGang_cores (s : State) (k : Nat) (x : Gang) : (s.setGang k x).cores = s.cores := rfl
@[simp] theorem State.setGang_clusters (s : State) (k : Nat) (x : Gang) : (s.setGang k x).clusters = s.clusters := rfl
@[simp] theorem State.setGang_dies (s : State) (k : Nat) (x : Gang) : (s.setGang k x).dies = s.dies := rfl
@[simp] theorem State.setGang_mem (s : State) (k : Nat) (x : Gang) : (s.setGang k x).mem = s.mem := rfl
@[simp] theorem State.setGang_burstKey (s : State) (k : Nat) (x : Gang) : (s.setGang k x).burstKey = s.burstKey := rfl
@[simp] theorem State.setGang_regs (s : State) (k : Nat) (x : Gang) : (s.setGang k x).regs = s.regs := rfl
@[simp] theorem State.setGang_fabric (s : State) (k : Nat) (x : Gang) : (s.setGang k x).fabric = s.fabric := rfl
@[simp] theorem State.setGang_leases (s : State) (k : Nat) (x : Gang) : (s.setGang k x).leases = s.leases := rfl
@[simp] theorem State.setGang_market (s : State) (k : Nat) (x : Gang) : (s.setGang k x).market = s.market := rfl
@[simp] theorem State.setGang_retired (s : State) (k : Nat) (x : Gang) : (s.setGang k x).retired = s.retired := rfl
@[simp] theorem State.setGang_retiring (s : State) (k : Nat) (x : Gang) : (s.setGang k x).retiring = s.retiring := rfl
@[simp] theorem State.setGang_sweeps (s : State) (k : Nat) (x : Gang) : (s.setGang k x).sweeps = s.sweeps := rfl
@[simp] theorem State.setGang_scrubs (s : State) (k : Nat) (x : Gang) : (s.setGang k x).scrubs = s.scrubs := rfl
@[simp] theorem State.setGang_scrubbed (s : State) (k : Nat) (x : Gang) : (s.setGang k x).scrubbed = s.scrubbed := rfl
@[simp] theorem State.setGang_saved (s : State) (k : Nat) (x : Gang) : (s.setGang k x).saved = s.saved := rfl
@[simp] theorem State.setGang_freshness (s : State) (k : Nat) (x : Gang) : (s.setGang k x).freshness = s.freshness := rfl
@[simp] theorem State.setGang_keys (s : State) (k : Nat) (x : Gang) : (s.setGang k x).keys = s.keys := rfl
@[simp] theorem State.setGang_linkKeys (s : State) (k : Nat) (x : Gang) : (s.setGang k x).linkKeys = s.linkKeys := rfl
@[simp] theorem State.setGang_waiting (s : State) (k : Nat) (x : Gang) : (s.setGang k x).waiting = s.waiting := rfl
@[simp] theorem State.setGang_out (s : State) (k : Nat) (x : Gang) : (s.setGang k x).out = s.out := rfl
@[simp] theorem State.setGang_wakes (s : State) (k : Nat) (x : Gang) : (s.setGang k x).wakes = s.wakes := rfl
@[simp] theorem State.setGang_services (s : State) (k : Nat) (x : Gang) : (s.setGang k x).services = s.services := rfl
@[simp] theorem State.setGang_flash (s : State) (k : Nat) (x : Gang) : (s.setGang k x).flash = s.flash := rfl
@[simp] theorem State.setGang_fails (s : State) (k : Nat) (x : Gang) : (s.setGang k x).fails = s.fails := rfl
@[simp] theorem State.setGang_committed (s : State) (k : Nat) (x : Gang) : (s.setGang k x).committed = s.committed := rfl
@[simp] theorem State.setGang_powered (s : State) (k : Nat) (x : Gang) : (s.setGang k x).powered = s.powered := rfl
@[simp] theorem State.setGang_submissionsStopped (s : State) (k : Nat) (x : Gang) : (s.setGang k x).submissionsStopped = s.submissionsStopped := rfl
@[simp] theorem State.setGang_time (s : State) (k : Nat) (x : Gang) : (s.setGang k x).time = s.time := rfl
@[simp] theorem State.setGang_admissions (s : State) (k : Nat) (x : Gang) : (s.setGang k x).admissions = s.admissions := rfl
@[simp] theorem State.setGang_tickets (s : State) (k : Nat) (x : Gang) : (s.setGang k x).tickets = s.tickets := rfl
@[simp] theorem State.setGang_halts (s : State) (k : Nat) (x : Gang) : (s.setGang k x).halts = s.halts := rfl
@[simp] theorem State.setGang_fencets (s : State) (k : Nat) (x : Gang) : (s.setGang k x).fencets = s.fencets := rfl

/-! ## `State.setLaunch` -/

@[simp] theorem State.setLaunch_cur (s : State) (k : Nat) (x : Launch) : (s.setLaunch k x).cur = s.cur := rfl
@[simp] theorem State.setLaunch_turn (s : State) (k : Nat) (x : Launch) : (s.setLaunch k x).turn = s.turn := rfl
@[simp] theorem State.setLaunch_agenda (s : State) (k : Nat) (x : Launch) : (s.setLaunch k x).agenda = s.agenda := rfl
@[simp] theorem State.setLaunch_rotor (s : State) (k : Nat) (x : Launch) : (s.setLaunch k x).rotor = s.rotor := rfl
@[simp] theorem State.setLaunch_fresh (s : State) (k : Nat) (x : Launch) : (s.setLaunch k x).fresh = s.fresh := rfl
@[simp] theorem State.setLaunch_nextId (s : State) (k : Nat) (x : Launch) : (s.setLaunch k x).nextId = s.nextId := rfl
@[simp] theorem State.setLaunch_squads (s : State) (k : Nat) (x : Launch) : (s.setLaunch k x).squads = s.squads := rfl
@[simp] theorem State.setLaunch_teams (s : State) (k : Nat) (x : Launch) : (s.setLaunch k x).teams = s.teams := rfl
@[simp] theorem State.setLaunch_gangs (s : State) (k : Nat) (x : Launch) : (s.setLaunch k x).gangs = s.gangs := rfl
@[simp] theorem State.setLaunch_launches (s : State) (k : Nat) (x : Launch) : (s.setLaunch k x).launches = s.launches.set k x := rfl
@[simp] theorem State.setLaunch_contexts (s : State) (k : Nat) (x : Launch) : (s.setLaunch k x).contexts = s.contexts := rfl
@[simp] theorem State.setLaunch_parts (s : State) (k : Nat) (x : Launch) : (s.setLaunch k x).parts = s.parts := rfl
@[simp] theorem State.setLaunch_cores (s : State) (k : Nat) (x : Launch) : (s.setLaunch k x).cores = s.cores := rfl
@[simp] theorem State.setLaunch_clusters (s : State) (k : Nat) (x : Launch) : (s.setLaunch k x).clusters = s.clusters := rfl
@[simp] theorem State.setLaunch_dies (s : State) (k : Nat) (x : Launch) : (s.setLaunch k x).dies = s.dies := rfl
@[simp] theorem State.setLaunch_mem (s : State) (k : Nat) (x : Launch) : (s.setLaunch k x).mem = s.mem := rfl
@[simp] theorem State.setLaunch_burstKey (s : State) (k : Nat) (x : Launch) : (s.setLaunch k x).burstKey = s.burstKey := rfl
@[simp] theorem State.setLaunch_regs (s : State) (k : Nat) (x : Launch) : (s.setLaunch k x).regs = s.regs := rfl
@[simp] theorem State.setLaunch_fabric (s : State) (k : Nat) (x : Launch) : (s.setLaunch k x).fabric = s.fabric := rfl
@[simp] theorem State.setLaunch_leases (s : State) (k : Nat) (x : Launch) : (s.setLaunch k x).leases = s.leases := rfl
@[simp] theorem State.setLaunch_market (s : State) (k : Nat) (x : Launch) : (s.setLaunch k x).market = s.market := rfl
@[simp] theorem State.setLaunch_retired (s : State) (k : Nat) (x : Launch) : (s.setLaunch k x).retired = s.retired := rfl
@[simp] theorem State.setLaunch_retiring (s : State) (k : Nat) (x : Launch) : (s.setLaunch k x).retiring = s.retiring := rfl
@[simp] theorem State.setLaunch_sweeps (s : State) (k : Nat) (x : Launch) : (s.setLaunch k x).sweeps = s.sweeps := rfl
@[simp] theorem State.setLaunch_scrubs (s : State) (k : Nat) (x : Launch) : (s.setLaunch k x).scrubs = s.scrubs := rfl
@[simp] theorem State.setLaunch_scrubbed (s : State) (k : Nat) (x : Launch) : (s.setLaunch k x).scrubbed = s.scrubbed := rfl
@[simp] theorem State.setLaunch_saved (s : State) (k : Nat) (x : Launch) : (s.setLaunch k x).saved = s.saved := rfl
@[simp] theorem State.setLaunch_freshness (s : State) (k : Nat) (x : Launch) : (s.setLaunch k x).freshness = s.freshness := rfl
@[simp] theorem State.setLaunch_keys (s : State) (k : Nat) (x : Launch) : (s.setLaunch k x).keys = s.keys := rfl
@[simp] theorem State.setLaunch_linkKeys (s : State) (k : Nat) (x : Launch) : (s.setLaunch k x).linkKeys = s.linkKeys := rfl
@[simp] theorem State.setLaunch_waiting (s : State) (k : Nat) (x : Launch) : (s.setLaunch k x).waiting = s.waiting := rfl
@[simp] theorem State.setLaunch_out (s : State) (k : Nat) (x : Launch) : (s.setLaunch k x).out = s.out := rfl
@[simp] theorem State.setLaunch_wakes (s : State) (k : Nat) (x : Launch) : (s.setLaunch k x).wakes = s.wakes := rfl
@[simp] theorem State.setLaunch_services (s : State) (k : Nat) (x : Launch) : (s.setLaunch k x).services = s.services := rfl
@[simp] theorem State.setLaunch_flash (s : State) (k : Nat) (x : Launch) : (s.setLaunch k x).flash = s.flash := rfl
@[simp] theorem State.setLaunch_fails (s : State) (k : Nat) (x : Launch) : (s.setLaunch k x).fails = s.fails := rfl
@[simp] theorem State.setLaunch_committed (s : State) (k : Nat) (x : Launch) : (s.setLaunch k x).committed = s.committed := rfl
@[simp] theorem State.setLaunch_powered (s : State) (k : Nat) (x : Launch) : (s.setLaunch k x).powered = s.powered := rfl
@[simp] theorem State.setLaunch_submissionsStopped (s : State) (k : Nat) (x : Launch) : (s.setLaunch k x).submissionsStopped = s.submissionsStopped := rfl
@[simp] theorem State.setLaunch_time (s : State) (k : Nat) (x : Launch) : (s.setLaunch k x).time = s.time := rfl
@[simp] theorem State.setLaunch_admissions (s : State) (k : Nat) (x : Launch) : (s.setLaunch k x).admissions = s.admissions := rfl
@[simp] theorem State.setLaunch_tickets (s : State) (k : Nat) (x : Launch) : (s.setLaunch k x).tickets = s.tickets := rfl
@[simp] theorem State.setLaunch_halts (s : State) (k : Nat) (x : Launch) : (s.setLaunch k x).halts = s.halts := rfl
@[simp] theorem State.setLaunch_fencets (s : State) (k : Nat) (x : Launch) : (s.setLaunch k x).fencets = s.fencets := rfl

/-! ## `State.setCore` -/

@[simp] theorem State.setCore_cur (s : State) (k : Nat) (x : Core) : (s.setCore k x).cur = s.cur := rfl
@[simp] theorem State.setCore_turn (s : State) (k : Nat) (x : Core) : (s.setCore k x).turn = s.turn := rfl
@[simp] theorem State.setCore_agenda (s : State) (k : Nat) (x : Core) : (s.setCore k x).agenda = s.agenda := rfl
@[simp] theorem State.setCore_rotor (s : State) (k : Nat) (x : Core) : (s.setCore k x).rotor = s.rotor := rfl
@[simp] theorem State.setCore_fresh (s : State) (k : Nat) (x : Core) : (s.setCore k x).fresh = s.fresh := rfl
@[simp] theorem State.setCore_nextId (s : State) (k : Nat) (x : Core) : (s.setCore k x).nextId = s.nextId := rfl
@[simp] theorem State.setCore_squads (s : State) (k : Nat) (x : Core) : (s.setCore k x).squads = s.squads := rfl
@[simp] theorem State.setCore_teams (s : State) (k : Nat) (x : Core) : (s.setCore k x).teams = s.teams := rfl
@[simp] theorem State.setCore_gangs (s : State) (k : Nat) (x : Core) : (s.setCore k x).gangs = s.gangs := rfl
@[simp] theorem State.setCore_launches (s : State) (k : Nat) (x : Core) : (s.setCore k x).launches = s.launches := rfl
@[simp] theorem State.setCore_contexts (s : State) (k : Nat) (x : Core) : (s.setCore k x).contexts = s.contexts := rfl
@[simp] theorem State.setCore_parts (s : State) (k : Nat) (x : Core) : (s.setCore k x).parts = s.parts := rfl
@[simp] theorem State.setCore_cores (s : State) (k : Nat) (x : Core) : (s.setCore k x).cores = s.cores.set k x := rfl
@[simp] theorem State.setCore_clusters (s : State) (k : Nat) (x : Core) : (s.setCore k x).clusters = s.clusters := rfl
@[simp] theorem State.setCore_dies (s : State) (k : Nat) (x : Core) : (s.setCore k x).dies = s.dies := rfl
@[simp] theorem State.setCore_mem (s : State) (k : Nat) (x : Core) : (s.setCore k x).mem = s.mem := rfl
@[simp] theorem State.setCore_burstKey (s : State) (k : Nat) (x : Core) : (s.setCore k x).burstKey = s.burstKey := rfl
@[simp] theorem State.setCore_regs (s : State) (k : Nat) (x : Core) : (s.setCore k x).regs = s.regs := rfl
@[simp] theorem State.setCore_fabric (s : State) (k : Nat) (x : Core) : (s.setCore k x).fabric = s.fabric := rfl
@[simp] theorem State.setCore_leases (s : State) (k : Nat) (x : Core) : (s.setCore k x).leases = s.leases := rfl
@[simp] theorem State.setCore_market (s : State) (k : Nat) (x : Core) : (s.setCore k x).market = s.market := rfl
@[simp] theorem State.setCore_retired (s : State) (k : Nat) (x : Core) : (s.setCore k x).retired = s.retired := rfl
@[simp] theorem State.setCore_retiring (s : State) (k : Nat) (x : Core) : (s.setCore k x).retiring = s.retiring := rfl
@[simp] theorem State.setCore_sweeps (s : State) (k : Nat) (x : Core) : (s.setCore k x).sweeps = s.sweeps := rfl
@[simp] theorem State.setCore_scrubs (s : State) (k : Nat) (x : Core) : (s.setCore k x).scrubs = s.scrubs := rfl
@[simp] theorem State.setCore_scrubbed (s : State) (k : Nat) (x : Core) : (s.setCore k x).scrubbed = s.scrubbed := rfl
@[simp] theorem State.setCore_saved (s : State) (k : Nat) (x : Core) : (s.setCore k x).saved = s.saved := rfl
@[simp] theorem State.setCore_freshness (s : State) (k : Nat) (x : Core) : (s.setCore k x).freshness = s.freshness := rfl
@[simp] theorem State.setCore_keys (s : State) (k : Nat) (x : Core) : (s.setCore k x).keys = s.keys := rfl
@[simp] theorem State.setCore_linkKeys (s : State) (k : Nat) (x : Core) : (s.setCore k x).linkKeys = s.linkKeys := rfl
@[simp] theorem State.setCore_waiting (s : State) (k : Nat) (x : Core) : (s.setCore k x).waiting = s.waiting := rfl
@[simp] theorem State.setCore_out (s : State) (k : Nat) (x : Core) : (s.setCore k x).out = s.out := rfl
@[simp] theorem State.setCore_wakes (s : State) (k : Nat) (x : Core) : (s.setCore k x).wakes = s.wakes := rfl
@[simp] theorem State.setCore_services (s : State) (k : Nat) (x : Core) : (s.setCore k x).services = s.services := rfl
@[simp] theorem State.setCore_flash (s : State) (k : Nat) (x : Core) : (s.setCore k x).flash = s.flash := rfl
@[simp] theorem State.setCore_fails (s : State) (k : Nat) (x : Core) : (s.setCore k x).fails = s.fails := rfl
@[simp] theorem State.setCore_committed (s : State) (k : Nat) (x : Core) : (s.setCore k x).committed = s.committed := rfl
@[simp] theorem State.setCore_powered (s : State) (k : Nat) (x : Core) : (s.setCore k x).powered = s.powered := rfl
@[simp] theorem State.setCore_submissionsStopped (s : State) (k : Nat) (x : Core) : (s.setCore k x).submissionsStopped = s.submissionsStopped := rfl
@[simp] theorem State.setCore_time (s : State) (k : Nat) (x : Core) : (s.setCore k x).time = s.time := rfl
@[simp] theorem State.setCore_admissions (s : State) (k : Nat) (x : Core) : (s.setCore k x).admissions = s.admissions := rfl
@[simp] theorem State.setCore_tickets (s : State) (k : Nat) (x : Core) : (s.setCore k x).tickets = s.tickets := rfl
@[simp] theorem State.setCore_halts (s : State) (k : Nat) (x : Core) : (s.setCore k x).halts = s.halts := rfl
@[simp] theorem State.setCore_fencets (s : State) (k : Nat) (x : Core) : (s.setCore k x).fencets = s.fencets := rfl

/-! ## `State.setCluster` -/

@[simp] theorem State.setCluster_cur (s : State) (k : Nat) (x : Cluster) : (s.setCluster k x).cur = s.cur := rfl
@[simp] theorem State.setCluster_turn (s : State) (k : Nat) (x : Cluster) : (s.setCluster k x).turn = s.turn := rfl
@[simp] theorem State.setCluster_agenda (s : State) (k : Nat) (x : Cluster) : (s.setCluster k x).agenda = s.agenda := rfl
@[simp] theorem State.setCluster_rotor (s : State) (k : Nat) (x : Cluster) : (s.setCluster k x).rotor = s.rotor := rfl
@[simp] theorem State.setCluster_fresh (s : State) (k : Nat) (x : Cluster) : (s.setCluster k x).fresh = s.fresh := rfl
@[simp] theorem State.setCluster_nextId (s : State) (k : Nat) (x : Cluster) : (s.setCluster k x).nextId = s.nextId := rfl
@[simp] theorem State.setCluster_squads (s : State) (k : Nat) (x : Cluster) : (s.setCluster k x).squads = s.squads := rfl
@[simp] theorem State.setCluster_teams (s : State) (k : Nat) (x : Cluster) : (s.setCluster k x).teams = s.teams := rfl
@[simp] theorem State.setCluster_gangs (s : State) (k : Nat) (x : Cluster) : (s.setCluster k x).gangs = s.gangs := rfl
@[simp] theorem State.setCluster_launches (s : State) (k : Nat) (x : Cluster) : (s.setCluster k x).launches = s.launches := rfl
@[simp] theorem State.setCluster_contexts (s : State) (k : Nat) (x : Cluster) : (s.setCluster k x).contexts = s.contexts := rfl
@[simp] theorem State.setCluster_parts (s : State) (k : Nat) (x : Cluster) : (s.setCluster k x).parts = s.parts := rfl
@[simp] theorem State.setCluster_cores (s : State) (k : Nat) (x : Cluster) : (s.setCluster k x).cores = s.cores := rfl
@[simp] theorem State.setCluster_clusters (s : State) (k : Nat) (x : Cluster) : (s.setCluster k x).clusters = s.clusters.set k x := rfl
@[simp] theorem State.setCluster_dies (s : State) (k : Nat) (x : Cluster) : (s.setCluster k x).dies = s.dies := rfl
@[simp] theorem State.setCluster_mem (s : State) (k : Nat) (x : Cluster) : (s.setCluster k x).mem = s.mem := rfl
@[simp] theorem State.setCluster_burstKey (s : State) (k : Nat) (x : Cluster) : (s.setCluster k x).burstKey = s.burstKey := rfl
@[simp] theorem State.setCluster_regs (s : State) (k : Nat) (x : Cluster) : (s.setCluster k x).regs = s.regs := rfl
@[simp] theorem State.setCluster_fabric (s : State) (k : Nat) (x : Cluster) : (s.setCluster k x).fabric = s.fabric := rfl
@[simp] theorem State.setCluster_leases (s : State) (k : Nat) (x : Cluster) : (s.setCluster k x).leases = s.leases := rfl
@[simp] theorem State.setCluster_market (s : State) (k : Nat) (x : Cluster) : (s.setCluster k x).market = s.market := rfl
@[simp] theorem State.setCluster_retired (s : State) (k : Nat) (x : Cluster) : (s.setCluster k x).retired = s.retired := rfl
@[simp] theorem State.setCluster_retiring (s : State) (k : Nat) (x : Cluster) : (s.setCluster k x).retiring = s.retiring := rfl
@[simp] theorem State.setCluster_sweeps (s : State) (k : Nat) (x : Cluster) : (s.setCluster k x).sweeps = s.sweeps := rfl
@[simp] theorem State.setCluster_scrubs (s : State) (k : Nat) (x : Cluster) : (s.setCluster k x).scrubs = s.scrubs := rfl
@[simp] theorem State.setCluster_scrubbed (s : State) (k : Nat) (x : Cluster) : (s.setCluster k x).scrubbed = s.scrubbed := rfl
@[simp] theorem State.setCluster_saved (s : State) (k : Nat) (x : Cluster) : (s.setCluster k x).saved = s.saved := rfl
@[simp] theorem State.setCluster_freshness (s : State) (k : Nat) (x : Cluster) : (s.setCluster k x).freshness = s.freshness := rfl
@[simp] theorem State.setCluster_keys (s : State) (k : Nat) (x : Cluster) : (s.setCluster k x).keys = s.keys := rfl
@[simp] theorem State.setCluster_linkKeys (s : State) (k : Nat) (x : Cluster) : (s.setCluster k x).linkKeys = s.linkKeys := rfl
@[simp] theorem State.setCluster_waiting (s : State) (k : Nat) (x : Cluster) : (s.setCluster k x).waiting = s.waiting := rfl
@[simp] theorem State.setCluster_out (s : State) (k : Nat) (x : Cluster) : (s.setCluster k x).out = s.out := rfl
@[simp] theorem State.setCluster_wakes (s : State) (k : Nat) (x : Cluster) : (s.setCluster k x).wakes = s.wakes := rfl
@[simp] theorem State.setCluster_services (s : State) (k : Nat) (x : Cluster) : (s.setCluster k x).services = s.services := rfl
@[simp] theorem State.setCluster_flash (s : State) (k : Nat) (x : Cluster) : (s.setCluster k x).flash = s.flash := rfl
@[simp] theorem State.setCluster_fails (s : State) (k : Nat) (x : Cluster) : (s.setCluster k x).fails = s.fails := rfl
@[simp] theorem State.setCluster_committed (s : State) (k : Nat) (x : Cluster) : (s.setCluster k x).committed = s.committed := rfl
@[simp] theorem State.setCluster_powered (s : State) (k : Nat) (x : Cluster) : (s.setCluster k x).powered = s.powered := rfl
@[simp] theorem State.setCluster_submissionsStopped (s : State) (k : Nat) (x : Cluster) : (s.setCluster k x).submissionsStopped = s.submissionsStopped := rfl
@[simp] theorem State.setCluster_time (s : State) (k : Nat) (x : Cluster) : (s.setCluster k x).time = s.time := rfl
@[simp] theorem State.setCluster_admissions (s : State) (k : Nat) (x : Cluster) : (s.setCluster k x).admissions = s.admissions := rfl
@[simp] theorem State.setCluster_tickets (s : State) (k : Nat) (x : Cluster) : (s.setCluster k x).tickets = s.tickets := rfl
@[simp] theorem State.setCluster_halts (s : State) (k : Nat) (x : Cluster) : (s.setCluster k x).halts = s.halts := rfl
@[simp] theorem State.setCluster_fencets (s : State) (k : Nat) (x : Cluster) : (s.setCluster k x).fencets = s.fencets := rfl

/-! ## `State.setDie` -/

@[simp] theorem State.setDie_cur (s : State) (k : Nat) (x : Die) : (s.setDie k x).cur = s.cur := rfl
@[simp] theorem State.setDie_turn (s : State) (k : Nat) (x : Die) : (s.setDie k x).turn = s.turn := rfl
@[simp] theorem State.setDie_agenda (s : State) (k : Nat) (x : Die) : (s.setDie k x).agenda = s.agenda := rfl
@[simp] theorem State.setDie_rotor (s : State) (k : Nat) (x : Die) : (s.setDie k x).rotor = s.rotor := rfl
@[simp] theorem State.setDie_fresh (s : State) (k : Nat) (x : Die) : (s.setDie k x).fresh = s.fresh := rfl
@[simp] theorem State.setDie_nextId (s : State) (k : Nat) (x : Die) : (s.setDie k x).nextId = s.nextId := rfl
@[simp] theorem State.setDie_squads (s : State) (k : Nat) (x : Die) : (s.setDie k x).squads = s.squads := rfl
@[simp] theorem State.setDie_teams (s : State) (k : Nat) (x : Die) : (s.setDie k x).teams = s.teams := rfl
@[simp] theorem State.setDie_gangs (s : State) (k : Nat) (x : Die) : (s.setDie k x).gangs = s.gangs := rfl
@[simp] theorem State.setDie_launches (s : State) (k : Nat) (x : Die) : (s.setDie k x).launches = s.launches := rfl
@[simp] theorem State.setDie_contexts (s : State) (k : Nat) (x : Die) : (s.setDie k x).contexts = s.contexts := rfl
@[simp] theorem State.setDie_parts (s : State) (k : Nat) (x : Die) : (s.setDie k x).parts = s.parts := rfl
@[simp] theorem State.setDie_cores (s : State) (k : Nat) (x : Die) : (s.setDie k x).cores = s.cores := rfl
@[simp] theorem State.setDie_clusters (s : State) (k : Nat) (x : Die) : (s.setDie k x).clusters = s.clusters := rfl
@[simp] theorem State.setDie_dies (s : State) (k : Nat) (x : Die) : (s.setDie k x).dies = s.dies.set k x := rfl
@[simp] theorem State.setDie_mem (s : State) (k : Nat) (x : Die) : (s.setDie k x).mem = s.mem := rfl
@[simp] theorem State.setDie_burstKey (s : State) (k : Nat) (x : Die) : (s.setDie k x).burstKey = s.burstKey := rfl
@[simp] theorem State.setDie_regs (s : State) (k : Nat) (x : Die) : (s.setDie k x).regs = s.regs := rfl
@[simp] theorem State.setDie_fabric (s : State) (k : Nat) (x : Die) : (s.setDie k x).fabric = s.fabric := rfl
@[simp] theorem State.setDie_leases (s : State) (k : Nat) (x : Die) : (s.setDie k x).leases = s.leases := rfl
@[simp] theorem State.setDie_market (s : State) (k : Nat) (x : Die) : (s.setDie k x).market = s.market := rfl
@[simp] theorem State.setDie_retired (s : State) (k : Nat) (x : Die) : (s.setDie k x).retired = s.retired := rfl
@[simp] theorem State.setDie_retiring (s : State) (k : Nat) (x : Die) : (s.setDie k x).retiring = s.retiring := rfl
@[simp] theorem State.setDie_sweeps (s : State) (k : Nat) (x : Die) : (s.setDie k x).sweeps = s.sweeps := rfl
@[simp] theorem State.setDie_scrubs (s : State) (k : Nat) (x : Die) : (s.setDie k x).scrubs = s.scrubs := rfl
@[simp] theorem State.setDie_scrubbed (s : State) (k : Nat) (x : Die) : (s.setDie k x).scrubbed = s.scrubbed := rfl
@[simp] theorem State.setDie_saved (s : State) (k : Nat) (x : Die) : (s.setDie k x).saved = s.saved := rfl
@[simp] theorem State.setDie_freshness (s : State) (k : Nat) (x : Die) : (s.setDie k x).freshness = s.freshness := rfl
@[simp] theorem State.setDie_keys (s : State) (k : Nat) (x : Die) : (s.setDie k x).keys = s.keys := rfl
@[simp] theorem State.setDie_linkKeys (s : State) (k : Nat) (x : Die) : (s.setDie k x).linkKeys = s.linkKeys := rfl
@[simp] theorem State.setDie_waiting (s : State) (k : Nat) (x : Die) : (s.setDie k x).waiting = s.waiting := rfl
@[simp] theorem State.setDie_out (s : State) (k : Nat) (x : Die) : (s.setDie k x).out = s.out := rfl
@[simp] theorem State.setDie_wakes (s : State) (k : Nat) (x : Die) : (s.setDie k x).wakes = s.wakes := rfl
@[simp] theorem State.setDie_services (s : State) (k : Nat) (x : Die) : (s.setDie k x).services = s.services := rfl
@[simp] theorem State.setDie_flash (s : State) (k : Nat) (x : Die) : (s.setDie k x).flash = s.flash := rfl
@[simp] theorem State.setDie_fails (s : State) (k : Nat) (x : Die) : (s.setDie k x).fails = s.fails := rfl
@[simp] theorem State.setDie_committed (s : State) (k : Nat) (x : Die) : (s.setDie k x).committed = s.committed := rfl
@[simp] theorem State.setDie_powered (s : State) (k : Nat) (x : Die) : (s.setDie k x).powered = s.powered := rfl
@[simp] theorem State.setDie_submissionsStopped (s : State) (k : Nat) (x : Die) : (s.setDie k x).submissionsStopped = s.submissionsStopped := rfl
@[simp] theorem State.setDie_time (s : State) (k : Nat) (x : Die) : (s.setDie k x).time = s.time := rfl
@[simp] theorem State.setDie_admissions (s : State) (k : Nat) (x : Die) : (s.setDie k x).admissions = s.admissions := rfl
@[simp] theorem State.setDie_tickets (s : State) (k : Nat) (x : Die) : (s.setDie k x).tickets = s.tickets := rfl
@[simp] theorem State.setDie_halts (s : State) (k : Nat) (x : Die) : (s.setDie k x).halts = s.halts := rfl
@[simp] theorem State.setDie_fencets (s : State) (k : Nat) (x : Die) : (s.setDie k x).fencets = s.fencets := rfl

/-! ## `State.setContext` -/

@[simp] theorem State.setContext_cur (s : State) (k : Nat) (x : Context) : (s.setContext k x).cur = s.cur := rfl
@[simp] theorem State.setContext_turn (s : State) (k : Nat) (x : Context) : (s.setContext k x).turn = s.turn := rfl
@[simp] theorem State.setContext_agenda (s : State) (k : Nat) (x : Context) : (s.setContext k x).agenda = s.agenda := rfl
@[simp] theorem State.setContext_rotor (s : State) (k : Nat) (x : Context) : (s.setContext k x).rotor = s.rotor := rfl
@[simp] theorem State.setContext_fresh (s : State) (k : Nat) (x : Context) : (s.setContext k x).fresh = s.fresh := rfl
@[simp] theorem State.setContext_nextId (s : State) (k : Nat) (x : Context) : (s.setContext k x).nextId = s.nextId := rfl
@[simp] theorem State.setContext_squads (s : State) (k : Nat) (x : Context) : (s.setContext k x).squads = s.squads := rfl
@[simp] theorem State.setContext_teams (s : State) (k : Nat) (x : Context) : (s.setContext k x).teams = s.teams := rfl
@[simp] theorem State.setContext_gangs (s : State) (k : Nat) (x : Context) : (s.setContext k x).gangs = s.gangs := rfl
@[simp] theorem State.setContext_launches (s : State) (k : Nat) (x : Context) : (s.setContext k x).launches = s.launches := rfl
@[simp] theorem State.setContext_contexts (s : State) (k : Nat) (x : Context) : (s.setContext k x).contexts = s.contexts.set k x := rfl
@[simp] theorem State.setContext_parts (s : State) (k : Nat) (x : Context) : (s.setContext k x).parts = s.parts := rfl
@[simp] theorem State.setContext_cores (s : State) (k : Nat) (x : Context) : (s.setContext k x).cores = s.cores := rfl
@[simp] theorem State.setContext_clusters (s : State) (k : Nat) (x : Context) : (s.setContext k x).clusters = s.clusters := rfl
@[simp] theorem State.setContext_dies (s : State) (k : Nat) (x : Context) : (s.setContext k x).dies = s.dies := rfl
@[simp] theorem State.setContext_mem (s : State) (k : Nat) (x : Context) : (s.setContext k x).mem = s.mem := rfl
@[simp] theorem State.setContext_burstKey (s : State) (k : Nat) (x : Context) : (s.setContext k x).burstKey = s.burstKey := rfl
@[simp] theorem State.setContext_regs (s : State) (k : Nat) (x : Context) : (s.setContext k x).regs = s.regs := rfl
@[simp] theorem State.setContext_fabric (s : State) (k : Nat) (x : Context) : (s.setContext k x).fabric = s.fabric := rfl
@[simp] theorem State.setContext_leases (s : State) (k : Nat) (x : Context) : (s.setContext k x).leases = s.leases := rfl
@[simp] theorem State.setContext_market (s : State) (k : Nat) (x : Context) : (s.setContext k x).market = s.market := rfl
@[simp] theorem State.setContext_retired (s : State) (k : Nat) (x : Context) : (s.setContext k x).retired = s.retired := rfl
@[simp] theorem State.setContext_retiring (s : State) (k : Nat) (x : Context) : (s.setContext k x).retiring = s.retiring := rfl
@[simp] theorem State.setContext_sweeps (s : State) (k : Nat) (x : Context) : (s.setContext k x).sweeps = s.sweeps := rfl
@[simp] theorem State.setContext_scrubs (s : State) (k : Nat) (x : Context) : (s.setContext k x).scrubs = s.scrubs := rfl
@[simp] theorem State.setContext_scrubbed (s : State) (k : Nat) (x : Context) : (s.setContext k x).scrubbed = s.scrubbed := rfl
@[simp] theorem State.setContext_saved (s : State) (k : Nat) (x : Context) : (s.setContext k x).saved = s.saved := rfl
@[simp] theorem State.setContext_freshness (s : State) (k : Nat) (x : Context) : (s.setContext k x).freshness = s.freshness := rfl
@[simp] theorem State.setContext_keys (s : State) (k : Nat) (x : Context) : (s.setContext k x).keys = s.keys := rfl
@[simp] theorem State.setContext_linkKeys (s : State) (k : Nat) (x : Context) : (s.setContext k x).linkKeys = s.linkKeys := rfl
@[simp] theorem State.setContext_waiting (s : State) (k : Nat) (x : Context) : (s.setContext k x).waiting = s.waiting := rfl
@[simp] theorem State.setContext_out (s : State) (k : Nat) (x : Context) : (s.setContext k x).out = s.out := rfl
@[simp] theorem State.setContext_wakes (s : State) (k : Nat) (x : Context) : (s.setContext k x).wakes = s.wakes := rfl
@[simp] theorem State.setContext_services (s : State) (k : Nat) (x : Context) : (s.setContext k x).services = s.services := rfl
@[simp] theorem State.setContext_flash (s : State) (k : Nat) (x : Context) : (s.setContext k x).flash = s.flash := rfl
@[simp] theorem State.setContext_fails (s : State) (k : Nat) (x : Context) : (s.setContext k x).fails = s.fails := rfl
@[simp] theorem State.setContext_committed (s : State) (k : Nat) (x : Context) : (s.setContext k x).committed = s.committed := rfl
@[simp] theorem State.setContext_powered (s : State) (k : Nat) (x : Context) : (s.setContext k x).powered = s.powered := rfl
@[simp] theorem State.setContext_submissionsStopped (s : State) (k : Nat) (x : Context) : (s.setContext k x).submissionsStopped = s.submissionsStopped := rfl
@[simp] theorem State.setContext_time (s : State) (k : Nat) (x : Context) : (s.setContext k x).time = s.time := rfl
@[simp] theorem State.setContext_admissions (s : State) (k : Nat) (x : Context) : (s.setContext k x).admissions = s.admissions := rfl
@[simp] theorem State.setContext_tickets (s : State) (k : Nat) (x : Context) : (s.setContext k x).tickets = s.tickets := rfl
@[simp] theorem State.setContext_halts (s : State) (k : Nat) (x : Context) : (s.setContext k x).halts = s.halts := rfl
@[simp] theorem State.setContext_fencets (s : State) (k : Nat) (x : Context) : (s.setContext k x).fencets = s.fencets := rfl

/-! ## `State.setReg` -/

@[simp] theorem State.setReg_cur (s : State) (k : Nat) (x : DWord) : (s.setReg k x).cur = s.cur := rfl
@[simp] theorem State.setReg_turn (s : State) (k : Nat) (x : DWord) : (s.setReg k x).turn = s.turn := rfl
@[simp] theorem State.setReg_agenda (s : State) (k : Nat) (x : DWord) : (s.setReg k x).agenda = s.agenda := rfl
@[simp] theorem State.setReg_rotor (s : State) (k : Nat) (x : DWord) : (s.setReg k x).rotor = s.rotor := rfl
@[simp] theorem State.setReg_fresh (s : State) (k : Nat) (x : DWord) : (s.setReg k x).fresh = s.fresh := rfl
@[simp] theorem State.setReg_nextId (s : State) (k : Nat) (x : DWord) : (s.setReg k x).nextId = s.nextId := rfl
@[simp] theorem State.setReg_squads (s : State) (k : Nat) (x : DWord) : (s.setReg k x).squads = s.squads := rfl
@[simp] theorem State.setReg_teams (s : State) (k : Nat) (x : DWord) : (s.setReg k x).teams = s.teams := rfl
@[simp] theorem State.setReg_gangs (s : State) (k : Nat) (x : DWord) : (s.setReg k x).gangs = s.gangs := rfl
@[simp] theorem State.setReg_launches (s : State) (k : Nat) (x : DWord) : (s.setReg k x).launches = s.launches := rfl
@[simp] theorem State.setReg_contexts (s : State) (k : Nat) (x : DWord) : (s.setReg k x).contexts = s.contexts := rfl
@[simp] theorem State.setReg_parts (s : State) (k : Nat) (x : DWord) : (s.setReg k x).parts = s.parts := rfl
@[simp] theorem State.setReg_cores (s : State) (k : Nat) (x : DWord) : (s.setReg k x).cores = s.cores := rfl
@[simp] theorem State.setReg_clusters (s : State) (k : Nat) (x : DWord) : (s.setReg k x).clusters = s.clusters := rfl
@[simp] theorem State.setReg_dies (s : State) (k : Nat) (x : DWord) : (s.setReg k x).dies = s.dies := rfl
@[simp] theorem State.setReg_mem (s : State) (k : Nat) (x : DWord) : (s.setReg k x).mem = s.mem := rfl
@[simp] theorem State.setReg_burstKey (s : State) (k : Nat) (x : DWord) : (s.setReg k x).burstKey = s.burstKey := rfl
@[simp] theorem State.setReg_regs (s : State) (k : Nat) (x : DWord) : (s.setReg k x).regs = s.regs.set k x := rfl
@[simp] theorem State.setReg_fabric (s : State) (k : Nat) (x : DWord) : (s.setReg k x).fabric = s.fabric := rfl
@[simp] theorem State.setReg_leases (s : State) (k : Nat) (x : DWord) : (s.setReg k x).leases = s.leases := rfl
@[simp] theorem State.setReg_market (s : State) (k : Nat) (x : DWord) : (s.setReg k x).market = s.market := rfl
@[simp] theorem State.setReg_retired (s : State) (k : Nat) (x : DWord) : (s.setReg k x).retired = s.retired := rfl
@[simp] theorem State.setReg_retiring (s : State) (k : Nat) (x : DWord) : (s.setReg k x).retiring = s.retiring := rfl
@[simp] theorem State.setReg_sweeps (s : State) (k : Nat) (x : DWord) : (s.setReg k x).sweeps = s.sweeps := rfl
@[simp] theorem State.setReg_scrubs (s : State) (k : Nat) (x : DWord) : (s.setReg k x).scrubs = s.scrubs := rfl
@[simp] theorem State.setReg_scrubbed (s : State) (k : Nat) (x : DWord) : (s.setReg k x).scrubbed = s.scrubbed := rfl
@[simp] theorem State.setReg_saved (s : State) (k : Nat) (x : DWord) : (s.setReg k x).saved = s.saved := rfl
@[simp] theorem State.setReg_freshness (s : State) (k : Nat) (x : DWord) : (s.setReg k x).freshness = s.freshness := rfl
@[simp] theorem State.setReg_keys (s : State) (k : Nat) (x : DWord) : (s.setReg k x).keys = s.keys := rfl
@[simp] theorem State.setReg_linkKeys (s : State) (k : Nat) (x : DWord) : (s.setReg k x).linkKeys = s.linkKeys := rfl
@[simp] theorem State.setReg_waiting (s : State) (k : Nat) (x : DWord) : (s.setReg k x).waiting = s.waiting := rfl
@[simp] theorem State.setReg_out (s : State) (k : Nat) (x : DWord) : (s.setReg k x).out = s.out := rfl
@[simp] theorem State.setReg_wakes (s : State) (k : Nat) (x : DWord) : (s.setReg k x).wakes = s.wakes := rfl
@[simp] theorem State.setReg_services (s : State) (k : Nat) (x : DWord) : (s.setReg k x).services = s.services := rfl
@[simp] theorem State.setReg_flash (s : State) (k : Nat) (x : DWord) : (s.setReg k x).flash = s.flash := rfl
@[simp] theorem State.setReg_fails (s : State) (k : Nat) (x : DWord) : (s.setReg k x).fails = s.fails := rfl
@[simp] theorem State.setReg_committed (s : State) (k : Nat) (x : DWord) : (s.setReg k x).committed = s.committed := rfl
@[simp] theorem State.setReg_powered (s : State) (k : Nat) (x : DWord) : (s.setReg k x).powered = s.powered := rfl
@[simp] theorem State.setReg_submissionsStopped (s : State) (k : Nat) (x : DWord) : (s.setReg k x).submissionsStopped = s.submissionsStopped := rfl
@[simp] theorem State.setReg_time (s : State) (k : Nat) (x : DWord) : (s.setReg k x).time = s.time := rfl
@[simp] theorem State.setReg_admissions (s : State) (k : Nat) (x : DWord) : (s.setReg k x).admissions = s.admissions := rfl
@[simp] theorem State.setReg_tickets (s : State) (k : Nat) (x : DWord) : (s.setReg k x).tickets = s.tickets := rfl
@[simp] theorem State.setReg_halts (s : State) (k : Nat) (x : DWord) : (s.setReg k x).halts = s.halts := rfl
@[simp] theorem State.setReg_fencets (s : State) (k : Nat) (x : DWord) : (s.setReg k x).fencets = s.fencets := rfl

/-! ## `State.spend` -/

@[simp] theorem State.spend_cur (s : State) : (s.spend).cur = s.cur := rfl
@[simp] theorem State.spend_turn (s : State) : (s.spend).turn = s.turn := rfl
@[simp] theorem State.spend_agenda (s : State) : (s.spend).agenda = s.agenda := rfl
@[simp] theorem State.spend_rotor (s : State) : (s.spend).rotor = s.rotor := rfl
@[simp] theorem State.spend_fresh (s : State) : (s.spend).fresh = s.fresh + 1 := rfl
@[simp] theorem State.spend_nextId (s : State) : (s.spend).nextId = s.nextId := rfl
@[simp] theorem State.spend_squads (s : State) : (s.spend).squads = s.squads := rfl
@[simp] theorem State.spend_teams (s : State) : (s.spend).teams = s.teams := rfl
@[simp] theorem State.spend_gangs (s : State) : (s.spend).gangs = s.gangs := rfl
@[simp] theorem State.spend_launches (s : State) : (s.spend).launches = s.launches := rfl
@[simp] theorem State.spend_contexts (s : State) : (s.spend).contexts = s.contexts := rfl
@[simp] theorem State.spend_parts (s : State) : (s.spend).parts = s.parts := rfl
@[simp] theorem State.spend_cores (s : State) : (s.spend).cores = s.cores := rfl
@[simp] theorem State.spend_clusters (s : State) : (s.spend).clusters = s.clusters := rfl
@[simp] theorem State.spend_dies (s : State) : (s.spend).dies = s.dies := rfl
@[simp] theorem State.spend_mem (s : State) : (s.spend).mem = s.mem := rfl
@[simp] theorem State.spend_burstKey (s : State) : (s.spend).burstKey = s.burstKey := rfl
@[simp] theorem State.spend_regs (s : State) : (s.spend).regs = s.regs := rfl
@[simp] theorem State.spend_fabric (s : State) : (s.spend).fabric = s.fabric := rfl
@[simp] theorem State.spend_leases (s : State) : (s.spend).leases = s.leases := rfl
@[simp] theorem State.spend_market (s : State) : (s.spend).market = s.market := rfl
@[simp] theorem State.spend_retired (s : State) : (s.spend).retired = s.retired := rfl
@[simp] theorem State.spend_retiring (s : State) : (s.spend).retiring = s.retiring := rfl
@[simp] theorem State.spend_sweeps (s : State) : (s.spend).sweeps = s.sweeps := rfl
@[simp] theorem State.spend_scrubs (s : State) : (s.spend).scrubs = s.scrubs := rfl
@[simp] theorem State.spend_scrubbed (s : State) : (s.spend).scrubbed = s.scrubbed := rfl
@[simp] theorem State.spend_saved (s : State) : (s.spend).saved = s.saved := rfl
@[simp] theorem State.spend_freshness (s : State) : (s.spend).freshness = s.freshness := rfl
@[simp] theorem State.spend_keys (s : State) : (s.spend).keys = s.keys := rfl
@[simp] theorem State.spend_linkKeys (s : State) : (s.spend).linkKeys = s.linkKeys := rfl
@[simp] theorem State.spend_waiting (s : State) : (s.spend).waiting = s.waiting := rfl
@[simp] theorem State.spend_out (s : State) : (s.spend).out = s.out := rfl
@[simp] theorem State.spend_wakes (s : State) : (s.spend).wakes = s.wakes := rfl
@[simp] theorem State.spend_services (s : State) : (s.spend).services = s.services := rfl
@[simp] theorem State.spend_flash (s : State) : (s.spend).flash = s.flash := rfl
@[simp] theorem State.spend_fails (s : State) : (s.spend).fails = s.fails := rfl
@[simp] theorem State.spend_committed (s : State) : (s.spend).committed = s.committed := rfl
@[simp] theorem State.spend_powered (s : State) : (s.spend).powered = s.powered := rfl
@[simp] theorem State.spend_submissionsStopped (s : State) : (s.spend).submissionsStopped = s.submissionsStopped := rfl
@[simp] theorem State.spend_time (s : State) : (s.spend).time = s.time := rfl
@[simp] theorem State.spend_admissions (s : State) : (s.spend).admissions = s.admissions := rfl
@[simp] theorem State.spend_tickets (s : State) : (s.spend).tickets = s.tickets := rfl
@[simp] theorem State.spend_halts (s : State) : (s.spend).halts = s.halts := rfl
@[simp] theorem State.spend_fencets (s : State) : (s.spend).fencets = s.fencets := rfl

/-! ## Units read after an update -/

theorem State.core_setCore (s : State) (k c : Nat) (x : Core) : (s.setCore k x).core c = if c = k then x else s.core c :=
  Tbl.getD_set s.cores k c x {}

theorem State.cluster_setCluster (s : State) (k c : Nat) (x : Cluster) :
    (s.setCluster k x).cluster c = if c = k then x else s.cluster c := Tbl.getD_set s.clusters k c x {}

theorem State.die_setDie (s : State) (k c : Nat) (x : Die) : (s.setDie k x).die c = if c = k then x else s.die c :=
  Tbl.getD_set s.dies k c x {}

theorem State.context_setContext (s : State) (k c : Nat) (x : Context) :
    (s.setContext k x).context c = if c = k then x else s.context c := Tbl.getD_set s.contexts k c x {}

theorem State.reg_setReg (s : State) (k o : Nat) (v : DWord) : (s.setReg k v).reg o = if o = k then v else s.reg o :=
  Tbl.getD_set s.regs k o v (regReset o)

end Sys2Proof.Machine
end

