-- ==== Sys2Proof/Laws/Squad.lean ====
section
/-! SUPPORT. Laws of a squad's registers, predicates, renaming and outstanding operations: what each operation reads, writes and
leaves alone. -/

namespace Sys2Proof.Machine

/-! ## A squad changed in place -/

theorem onSquad_get? (s : State) (k l : Nat) (f : Squad → Squad) :
    (s.onSquad k f).squads.get? l = if l = k then (s.squads.get? k).map f else s.squads.get? l := by
  unfold State.onSquad
  cases h : s.squads.get? k with
  | none =>
    by_cases hl : l = k
    · simp [hl, h]
    · simp [hl]
  | some q => simp only [State.setSquad_squads, Tbl.get?_set, Option.map_some]

/-! ## Scalar registers and predicates (R32, R121, R136) -/

/-- s0 reads 0 whatever is written to it; every other register reads what was written last. -/
theorem Squad.sreg_setSreg (q : Squad) {n : Nat} (hn : n < 28) (m : Nat) (v : DWord) :
    (q.setSreg n v).sreg m = if m = n ∧ n ≠ 0 then v else q.sreg m := by
  unfold Squad.setSreg Squad.sreg
  by_cases h0 : n = 0
  · simp [h0]
  · simp only [if_neg h0]
    by_cases hm : m = 0
    · have h1 : ¬ (m = n ∧ n ≠ 0) := by omega
      simp [hm, Ne.symm h0]
    · by_cases he : m = n
      · subst he; simp [hm, at'_put_self _ _ _ hn]
      · simp [hm, he, at'_put_ne _ _ _ (Ne.symm he)]

/-- A write of a scalar register changes nothing else of the squad. -/
theorem Squad.setSreg_rest (q : Squad) (n : Nat) (v : DWord) : ∃ r, q.setSreg n v = { q with sregs := r } := by
  unfold Squad.setSreg
  split
  · exact ⟨q.sregs, rfl⟩
  · exact ⟨_, rfl⟩

/-- A predicate takes its value in the lanes written and keeps the others; p7 and every other predicate keep all. -/
theorem Squad.pred_setPred (q : Squad) {n : Nat} (hn : n < 7) (m : Nat) (lanes v : Mask) :
    (q.setPred n lanes v).pred m = if m = n then (v &&& lanes) ||| (q.pred n &&& ~~~lanes) else q.pred m := by
  unfold Squad.setPred
  by_cases hm : m = n
  · subst hm; rw [if_pos rfl]; simp only [Squad.pred, hn, if_true]; exact at'_put_self _ _ _ hn
  · rw [if_neg hm]; unfold Squad.pred; simp only [at'_put_ne _ _ _ (Ne.symm hm)]

/-! ## Renaming (R198 to R200) -/

/-- `r` differs from `q` at most in its vector names and retired registers. -/
def NamesOnly (q r : Squad) : Prop := ∃ v t, r = { q with vregs := v, retired := t }

theorem NamesOnly.refl (q : Squad) : NamesOnly q q := ⟨_, _, rfl⟩

theorem NamesOnly.trans {q r x : Squad} (h : NamesOnly q r) (g : NamesOnly r x) : NamesOnly q x := by
  obtain ⟨v, t, rfl⟩ := h
  obtain ⟨v', t', rfl⟩ := g
  exact ⟨v', t', rfl⟩

theorem NamesOnly.foldl {α : Type} (f : Squad → α → Squad) (h : ∀ q a, NamesOnly q (f q a)) (l : List α) (q : Squad) :
    NamesOnly q (l.foldl f q) := by
  induction l generalizing q with
  | nil => exact .refl q
  | cons a l ih => exact (h q a).trans (ih (f q a))

theorem release_namesOnly (q : Squad) (n : Nat) : NamesOnly q (q.release n) := by
  unfold Squad.release
  split
  · exact .refl q
  · split <;> exact ⟨_, _, rfl⟩

theorem bindName_namesOnly (q : Squad) (tok n : Nat) (lanes : Mask) (f : Nat → Word) : NamesOnly q (q.bindName tok n lanes f) := by
  unfold Squad.bindName
  split
  · exact ⟨_, _, rfl⟩
  · dsimp only
    split <;> exact ⟨_, _, rfl⟩

theorem commit_namesOnly (q : Squad) (tok : Nat) (rels : List Nat) (dests : List (Nat × (Nat → Word))) (lanes : Mask) :
    NamesOnly q (q.commit tok rels dests lanes) :=
  (NamesOnly.foldl _ release_namesOnly _ q).trans (NamesOnly.foldl _ (fun q _ => bindName_namesOnly q _ _ _ _) _ _)

/-- A released name reads 0 in every lane; every other name keeps its value. -/
theorem vreg_release (q : Squad) {n : Nat} (hn : n < 32) (m : Nat) : (q.release n).vreg m = if m = n then zeroLanes else q.vreg m := by
  have key : ∀ t, Squad.vreg { q with vregs := put q.vregs n none, retired := t } m = if m = n then zeroLanes else q.vreg m := by
    intro t
    unfold Squad.vreg
    by_cases hm : m = n
    · subst hm; simp [at'_put_self _ _ _ hn]
    · simp [hm, at'_put_ne _ _ _ (Ne.symm hm)]
  unfold Squad.release
  split
  · rename_i h
    by_cases hm : m = n
    · subst hm; simp [Squad.vreg, h]
    · simp [hm]
  · split
    · exact key _
    · exact key _

theorem lane_zeroLanes (i : Nat) : lane zeroLanes i = 0 := by
  rcases Nat.lt_or_ge i 32 with hi | hi
  · exact lane_lanesOf _ hi
  · unfold lane at'
    rw [List.getD_eq_getElem?_getD, List.getElem?_eq_none (by simpa [Vector.toList] using hi)]
    rfl

/-- A name that a word writes takes the lanes written and keeps the others, an unbound one zero; every other name keeps its value. -/
theorem vreg_bindName (q : Squad) {n : Nat} (hn : n < 32) (tok m : Nat) (lanes : Mask) (f : Nat → Word) :
    (q.bindName tok n lanes f).vreg m =
      if m = n then lanesOf (fun i => if has lanes i then f i else lane (q.vreg n) i) else q.vreg m := by
  have key : ∀ (tk : Nat) (v : Lanes) t, Squad.vreg { q with vregs := put q.vregs n (some ⟨tk, v⟩), retired := t } m =
      if m = n then v else q.vreg m := by
    intro tk v t
    unfold Squad.vreg
    by_cases hm : m = n
    · subst hm; simp [at'_put_self _ _ _ hn]
    · simp [hm, at'_put_ne _ _ _ (Ne.symm hm)]
  unfold Squad.bindName
  split
  · rename_i h
    rw [key]
    have hv : q.vreg n = zeroLanes := by unfold Squad.vreg; rw [h]; rfl
    have hz : ∀ i, lane (q.vreg n) i = 0 := fun i => by rw [hv]; exact lane_zeroLanes i
    simp only [hz]
  · rename_i b h
    have hl : q.vreg n = b.lanes := by simp [Squad.vreg, h]
    dsimp only
    split
    · rw [key]; simp only [hl]
    · rw [key]; simp only [hl]

/-! ## Outstanding operations (R24, R60) -/

theorem mem_settled {l : List Op} {b : List Nat} {o : Op} (h : o ∈ settled l b) : o ∈ l := by
  induction l generalizing b with
  | nil => cases h
  | cons x l ih =>
    unfold settled at h
    split at h
    · split at h
      · exact List.mem_cons_of_mem _ (ih h)
      · rcases List.mem_cons.mp h with rfl | h
        · exact List.mem_cons_self
        · exact List.mem_cons_of_mem _ (ih h)
    · split at h
      · exact List.mem_cons_of_mem _ (ih h)
      · rcases List.mem_cons.mp h with rfl | h
        · exact List.mem_cons_self
        · exact List.mem_cons_of_mem _ (ih h)

theorem settled_keeps {l : List Op} {b : List Nat} {o : Op} (h : o ∈ l) (ho : o.finished = false) : o ∈ settled l b := by
  induction l generalizing b with
  | nil => cases h
  | cons x l ih =>
    unfold settled
    rcases List.mem_cons.mp h with rfl | h
    · split
      · simp [ho]
      · simp [ho]
    · split
      · split
        · exact ih h
        · exact List.mem_cons_of_mem _ (ih h)
      · split
        · exact ih h
        · exact List.mem_cons_of_mem _ (ih h)

/-- Completing an operation: it stands in the list only as a complete one, every other outstanding one stays as it was, and of the
squad nothing but the list and the retired registers changes. -/
theorem complete_spec (q : Squad) (id : Nat) :
    (∃ l t, q.complete id = { q with ops := l, retired := t }) ∧
      (∀ o ∈ (q.complete id).ops, o.id = id → o.finished = true) ∧
      (∀ o ∈ q.ops, o.id ≠ id → o.finished = false → o ∈ (q.complete id).ops) := by
  refine ⟨⟨_, _, rfl⟩, ?_, ?_⟩
  · intro o ho hid
    have hm := mem_settled ho
    obtain ⟨x, hx, rfl⟩ := List.mem_map.mp hm
    by_cases h : x.id = id
    · simp [h]
    · simp [h] at hid
  · intro o ho hid hf
    refine settled_keeps (List.mem_map.mpr ⟨o, ho, ?_⟩) hf
    simp [hid]

end Sys2Proof.Machine
end

