-- ==== Sys2Proof/Laws/Access.lean ====
section
/-! SUPPORT. Laws of translated accesses: what a TLB entry that serves an access is, what translating the lanes of a word gives,
and what becoming outstanding leaves alone. -/

namespace Sys2Proof.Machine

/-- A hit stands in the TLB of the quarter or of the core, serves the access, and is of the agent (R175). -/
theorem tlbHit_spec {s : State} {core quarter vf iface va : Nat} {kind : AccessKind} {e : TlbEntry}
    (h : s.tlbHit core quarter vf iface va kind = some e) :
    (e ∈ (s.core core).quarterTlb quarter ∨ e ∈ (s.core core).tlb) ∧ e.serves vf iface va kind = true ∧ e.vf = vf ∧ e.iface = iface := by
  have hs : (e ∈ (s.core core).quarterTlb quarter ∨ e ∈ (s.core core).tlb) ∧ e.serves vf iface va kind = true := by
    simp only [State.tlbHit, Option.or_eq_some_iff] at h
    rcases h with h | ⟨_, h⟩
    · have hs := List.find?_some h
      exact ⟨.inl (List.mem_of_find?_eq_some h), hs⟩
    · have hs := List.find?_some h
      exact ⟨.inr (List.mem_of_find?_eq_some h), hs⟩
  refine ⟨hs.1, hs.2, ?_, ?_⟩
  · have h1 := hs.2; simp only [TlbEntry.serves, Bool.and_eq_true, beq_iff_eq] at h1; exact h1.1.1.1
  · have h1 := hs.2; simp only [TlbEntry.serves, Bool.and_eq_true, beq_iff_eq] at h1; exact h1.1.1.2

/-- Translating lanes keeps their order, lane numbers, addresses and data; each lane's place is what its address translates to. -/
theorem translateLanes_spec {s : State} {u : Issuer} {kind : AccessKind} {lanes r : List LaneAccess}
    (h : s.translateLanes u kind lanes = .placed r) :
    ∃ ps, lanes.map (fun l => s.translate u l.va.toNat kind) = ps.map Trans.place ∧
      r = List.zipWith (fun l p => { l with place := p }) lanes ps := by
  induction lanes generalizing r with
  | nil => cases h; exact ⟨[], rfl, rfl⟩
  | cons l ls ih =>
    unfold State.translateLanes at h
    split at h
    · cases h
    · cases h
    · cases h
    · rename_i p hp
      split at h
      · rename_i x hx
        cases h
        obtain ⟨ps, h1, h2⟩ := ih hx
        exact ⟨p :: ps, by simp [hp, h1], by simp [h2]⟩
      · rename_i hx
        exact absurd h (hx r)

/-- Popping commands changes nothing of a squad but its command queues. -/
theorem popAll_rest (q : Squad) (ports : List Nat) : ∃ c n, q.popAll ports = { q with commands := c, popped := n } := by
  unfold Squad.popAll
  induction ports generalizing q with
  | nil => exact ⟨_, _, rfl⟩
  | cons p ps ih =>
    obtain ⟨c, n, h⟩ := ih (q.pop p)
    refine ⟨c, n, ?_⟩
    rw [List.foldl_cons, h]
    unfold Squad.pop
    split <;> rfl

theorem bindDests_namesOnly (q : Squad) (tok : Nat) (dests : List Nat) : NamesOnly q (q.bindDests tok dests) :=
  .foldl _ (fun q _ => bindName_namesOnly q _ _ _ _) _ _

/-- A word that becomes outstanding changes its squad and the counter of keys; of its squad it changes the command queues, the
operations, the vector names and the retired registers, and its operation stands at the end of the list under the next key. -/
theorem launchOp_spec (s : State) (u : Issuer) (q : Squad) (w : MemWord) (lanes : List LaneAccess) :
    ∃ c m v t o n, s.launchOp u q w lanes = { s.setSquad u.key { q with
        commands := c, popped := m, ops := q.ops ++ [o], vregs := v, retired := t } with nextId := n } ∧
      o.id = s.nextId ∧ o.lanes = lanes ∧ o.kind = w.op.kind ∧ o.path = w.op.path ∧ o.scope = w.op.scope ∧ o.size = w.op.size ∧
      o.flag = u.split.flagOf w.op.loadClass ∧ o.writes = nameMask w.dests := by
  obtain ⟨c, m, hc⟩ := popAll_rest q w.pops
  unfold State.launchOp
  dsimp only
  rw [hc]
  obtain ⟨v, t, h⟩ := (NamesOnly.foldl Squad.release release_namesOnly (w.rels.filter fun n => !w.dests.contains n) _).trans
    (bindDests_namesOnly _ (s.nextId + 1) w.dests)
  rw [h]
  exact ⟨c, m, v, t, _, _, rfl, rfl, rfl, rfl, rfl, rfl, rfl, rfl, rfl⟩

end Sys2Proof.Machine
end

