-- ==== Sys2Proof/Laws/Issue.lean ====
section
/-! SUPPORT. What issuing a word does, said once: a word that takes effect, stalls or traps, and what moving on changes. -/

namespace Sys2Proof.Machine

/-- A word that issues and takes effect leaves `State.taken`. -/
theorem issue_takes {i : Instr} {s t : State} {u : Issuer} {f : Issuer → Result} {m : Move} (h : Issues s i u)
    (hf : f u = .takes m t) : issue i s f = .next (s.taken u i m t) := by
  simp only [issue, h.issuer, h.legal, if_true]
  split
  · rename_i hp
    simp [State.taken, hp, hf]
  · rename_i hp
    have hfit : ¬ s.cap (clusterOf u.squad.core) < s.price u.squad i := Nat.not_lt.mpr h.fits
    have hpaid : ¬ u.split.heldFor (indexOf u.split.pos) < s.price u.squad i := Nat.not_lt.mpr h.paid
    rw [State.issuePriced]
    simp [hf, Result.refuses, hfit, hpaid, State.taken, hp]

/-- A word that issues and stops stalls at its word or traps there. -/
theorem issue_stops {i : Instr} {s t : State} {u : Issuer} {f : Issuer → Result} {w : Stop} (h : Issues s i u)
    (hf : f u = .stops w t) : issue i s f = .next (State.conclude u (wordsOf i) (.stops w t)) := by
  simp only [issue, h.issuer, h.legal, if_true]
  split
  · rw [hf]
  · have hfit : ¬ s.cap (clusterOf u.squad.core) < s.price u.squad i := Nat.not_lt.mpr h.fits
    have hpaid : ¬ u.split.heldFor (indexOf u.split.pos) < s.price u.squad i := Nat.not_lt.mpr h.paid
    rw [State.issuePriced]
    simp [hf, hfit, hpaid]

/-- The issuing split stands at the cursor. -/
theorem issuer_spec {s : State} {u : Issuer} (h : s.issuer = some u) :
    u.key = s.cur.squad ∧ s.squads.get? u.key = some u.squad ∧ u.squad.split? s.cur.split = some u.split := by
  unfold State.issuer at h
  split at h
  · cases h
  · rename_i q hq
    split at h
    · cases h
    · rename_i p hp
      cases h
      exact ⟨rfl, hq, hp⟩

end Sys2Proof.Machine
end

