-- ==== Sys2Proof/Laws/Memory.lean ====
section
/-! SUPPORT. Laws of home memory, the L1s, the release log and the scratchpad: each operation keeps the canonical form of
memory and touches nothing but memory, its keys, the dirty maps and the cores; and what a read after a write gives. -/

namespace Sys2Proof.Machine

/-! ## What an operation over memory can do -/

/-- `t` differs from `s` at most in memory, the keys of bursts, the fabric of the dies, the dirty maps of partitions and the cores,
and memory keeps its canonical form. -/
structure MemoryOnly (s t : State) : Prop where
  rest : ∃ m b f p c, t = { s with mem := m, burstKey := b, fabric := f, parts := p, cores := c }
  wf : Memory.wf s.mem = true → Memory.wf t.mem = true

theorem MemoryOnly.refl (s : State) : MemoryOnly s s := ⟨⟨_, _, _, _, _, rfl⟩, id⟩

theorem MemoryOnly.trans {s t r : State} (h : MemoryOnly s t) (g : MemoryOnly t r) : MemoryOnly s r := by
  obtain ⟨⟨m, b, f, p, c, rfl⟩, h2⟩ := h
  obtain ⟨⟨m', b', f', p', c', rfl⟩, g2⟩ := g
  exact ⟨⟨m', b', f', p', c', rfl⟩, fun x => g2 (h2 x)⟩

theorem MemoryOnly.foldl {α : Type} (f : State → α → State) (h : ∀ s a, MemoryOnly s (f s a)) (l : List α) (s : State) :
    MemoryOnly s (l.foldl f s) := by
  induction l generalizing s with
  | nil => exact .refl s
  | cons a l ih => exact (h s a).trans (ih (f s a))

theorem MemoryOnly.squads {s t : State} (h : MemoryOnly s t) : t.squads = s.squads := by
  obtain ⟨⟨_, _, _, _, _, rfl⟩, _⟩ := h; rfl

theorem MemoryOnly.teams {s t : State} (h : MemoryOnly s t) : t.teams = s.teams := by
  obtain ⟨⟨_, _, _, _, _, rfl⟩, _⟩ := h; rfl

theorem MemoryOnly.gangs {s t : State} (h : MemoryOnly s t) : t.gangs = s.gangs := by
  obtain ⟨⟨_, _, _, _, _, rfl⟩, _⟩ := h; rfl

theorem MemoryOnly.launches {s t : State} (h : MemoryOnly s t) : t.launches = s.launches := by
  obtain ⟨⟨_, _, _, _, _, rfl⟩, _⟩ := h; rfl

theorem MemoryOnly.contexts {s t : State} (h : MemoryOnly s t) : t.contexts = s.contexts := by
  obtain ⟨⟨_, _, _, _, _, rfl⟩, _⟩ := h; rfl

theorem MemoryOnly.clusters {s t : State} (h : MemoryOnly s t) : t.clusters = s.clusters := by
  obtain ⟨⟨_, _, _, _, _, rfl⟩, _⟩ := h; rfl

theorem MemoryOnly.dies {s t : State} (h : MemoryOnly s t) : t.dies = s.dies := by
  obtain ⟨⟨_, _, _, _, _, rfl⟩, _⟩ := h; rfl

theorem MemoryOnly.regs {s t : State} (h : MemoryOnly s t) : t.regs = s.regs := by
  obtain ⟨⟨_, _, _, _, _, rfl⟩, _⟩ := h; rfl

theorem MemoryOnly.keys {s t : State} (h : MemoryOnly s t) : t.keys = s.keys := by
  obtain ⟨⟨_, _, _, _, _, rfl⟩, _⟩ := h; rfl

theorem MemoryOnly.sweeps {s t : State} (h : MemoryOnly s t) : t.sweeps = s.sweeps := by
  obtain ⟨⟨_, _, _, _, _, rfl⟩, _⟩ := h; rfl

theorem MemoryOnly.out {s t : State} (h : MemoryOnly s t) : t.out = s.out := by
  obtain ⟨⟨_, _, _, _, _, rfl⟩, _⟩ := h; rfl

theorem MemoryOnly.leases {s t : State} (h : MemoryOnly s t) : t.leases = s.leases := by
  obtain ⟨⟨_, _, _, _, _, rfl⟩, _⟩ := h; rfl

theorem MemoryOnly.market {s t : State} (h : MemoryOnly s t) : t.market = s.market := by
  obtain ⟨⟨_, _, _, _, _, rfl⟩, _⟩ := h; rfl

/-- `t` differs from `s` in the fabric alone, and there neither in what the banks hold dirty, nor in the pins, nor in the swept pages. -/
structure Traffic (s t : State) : Prop where
  rest : t = { s with fabric := t.fabric }
  data : t.fabric.bankData = s.fabric.bankData
  pins : t.fabric.pins = s.fabric.pins
  swept : t.fabric.swept = s.fabric.swept

theorem Traffic.refl (s : State) : Traffic s s := ⟨rfl, rfl, rfl, rfl⟩

theorem Traffic.trans {s t r : State} (h : Traffic s t) (g : Traffic t r) : Traffic s r :=
  ⟨by rw [g.rest, h.rest], g.data.trans h.data, g.pins.trans h.pins, g.swept.trans h.swept⟩

theorem Traffic.foldl {α : Type} (f : State → α → State) (h : ∀ s a, Traffic s (f s a)) (l : List α) (s : State) :
    Traffic s (l.foldl f s) := by
  induction l generalizing s with
  | nil => exact .refl s
  | cons a l ih => exact (h s a).trans (ih (f s a))

theorem Traffic.memoryOnly {s t : State} (h : Traffic s t) : MemoryOnly s t :=
  ⟨⟨_, _, _, _, _, h.rest⟩, fun x => by rw [h.rest]; exact x⟩

theorem Traffic.mem {s t : State} (h : Traffic s t) : t.mem = s.mem := by rw [h.rest]

theorem Traffic.cores {s t : State} (h : Traffic s t) : t.cores = s.cores := by rw [h.rest]

/-- What HBM gives under a slot depends on memory, on the keys of bursts and of swept pages, and on the slots alone. -/
theorem hbmByte_congr {s t : State} (hm : t.mem = s.mem) (hb : t.burstKey = s.burstKey) (hw : t.fabric.swept = s.fabric.swept)
    (hk : t.keys = s.keys) (slot pa : Nat) : t.hbmByte slot pa = s.hbmByte slot pa := by
  have h : ∀ k, t.writtenUnder pa k = s.writtenUnder pa k := fun k => by rw [State.writtenUnder, hb, hw, State.writtenUnder]
  simp only [State.hbmByte, State.slotKey, h, hm, hk]
  congr

/-- Traffic changes no byte that a home holds. -/
theorem Traffic.homeByte {s t : State} (h : Traffic s t) (slot pa : Nat) : t.homeByte slot pa = s.homeByte slot pa := by
  have hd := h.data
  have hb : t.hbmByte slot pa = s.hbmByte slot pa :=
    hbmByte_congr (by rw [h.rest]) (by rw [h.rest]) h.swept (by rw [h.rest]) slot pa
  simp only [State.homeByte, hd, hb]

/-! ## What requests leave in the fabric (R315 to R330) -/

theorem use_traffic (s : State) (ctx : Option Nat) (die n x : Nat) : Traffic s (s.use ctx die n x) := by
  unfold State.use
  split
  · exact .refl s
  · split
    · exact .refl s
    · exact ⟨rfl, rfl, rfl, rfl⟩

theorem checkLines_traffic (s : State) (ctx : Option Nat) (pa n : Nat) (w : Bool) : Traffic s (s.checkLines ctx pa n w) := by
  unfold State.checkLines
  dsimp only
  split
  · exact .refl s
  · split
    · exact ⟨rfl, rfl, rfl, rfl⟩
    · split
      · exact ⟨rfl, rfl, rfl, rfl⟩
      · exact .refl s

theorem chargeTicks_traffic (s : State) (ctx : Option Nat) (die n : Nat) : Traffic s (s.chargeTicks ctx die n) := by
  unfold State.chargeTicks
  split
  · exact .refl s
  · exact (use_traffic s _ _ _ _).trans ⟨rfl, rfl, rfl, rfl⟩

theorem passLink_traffic (s : State) (pa n : Nat) : Traffic s (s.passLink pa n) := ⟨rfl, rfl, rfl, rfl⟩

theorem chargeHbm_traffic (s : State) (ctx : Option Nat) (pa n : Nat) (w : Bool) : Traffic s (s.chargeHbm ctx pa n w) :=
  ((Traffic.trans (t := s.openRows pa n w) ⟨rfl, rfl, rfl, rfl⟩ (checkLines_traffic _ _ _ _ _)).trans (passLink_traffic _ _ _)).trans
    (chargeTicks_traffic _ _ _ _)

theorem carry_traffic (s : State) (ctx : Option Nat) (a b n : Nat) : Traffic s (s.carry ctx a b n) := by
  unfold State.carry
  split
  · exact .refl s
  · split
    · exact .refl s
    · exact use_traffic s _ _ _ _

theorem applyWrite_traffic (s : State) (a b : Nat) : Traffic s (s.applyWrite a b) := by
  unfold State.applyWrite
  split
  · exact .refl s
  · exact ⟨rfl, rfl, rfl, rfl⟩

theorem backL2_traffic (s : State) (line : Nat) (l : L2Line) : Traffic s (s.backL2 line l) := by
  unfold State.backL2
  split
  · exact chargeHbm_traffic s _ _ _ _
  · exact .refl s

theorem cleanL2_traffic (s : State) (line : Nat) : Traffic s (s.cleanL2 line) := by
  unfold State.cleanL2
  split
  · exact .refl s
  · exact (backL2_traffic s line _).trans ⟨rfl, rfl, rfl, rfl⟩

theorem dropL2_traffic (s : State) (line : Nat) : Traffic s (s.dropL2 line) := by
  unfold State.dropL2
  split
  · exact .refl s
  · exact (backL2_traffic s line _).trans ⟨rfl, rfl, rfl, rfl⟩

theorem readL2_traffic (s : State) (ctx line : Nat) (whole : Bool) : Traffic s (s.readL2 ctx line whole) := by
  unfold State.readL2
  split
  · exact .refl s
  · exact chargeHbm_traffic s _ _ _ _

theorem allocL2_traffic (s : State) (ctx line way : Nat) (dirty whole : Bool) : Traffic s (s.allocL2 ctx line way dirty whole) :=
  (((Traffic.foldl State.dropL2 dropL2_traffic _ s).trans (readL2_traffic _ _ _ _)).trans (use_traffic _ _ _ _ _)).trans
    ⟨rfl, rfl, rfl, rfl⟩

theorem atSlice_traffic (s : State) (ctx : Option Nat) (line pa n : Nat) (w : Bool) : Traffic s (s.atSlice ctx line pa n w) := by
  unfold State.atSlice
  split
  · split
    · exact ⟨rfl, rfl, rfl, rfl⟩
    · exact .refl s
  · split
    · exact allocL2_traffic s _ _ _ _ _
    · exact chargeHbm_traffic s _ _ _ _

theorem travel_traffic (s : State) (ctx : Option Nat) (source home n : Nat) (w : Bool) :
    Traffic s (s.travel ctx source home n w) := by
  unfold State.travel
  split
  · exact (carry_traffic s _ _ _ _).trans (applyWrite_traffic _ _ _)
  · exact carry_traffic s _ _ _ _

theorem visit_traffic (s : State) (ctx : Option Nat) (source pa n : Nat) (w : Bool) : Traffic s (s.visit ctx source pa n w) := by
  unfold State.visit
  dsimp only
  split
  · exact .refl s
  · split
    · exact travel_traffic s _ _ _ _ _
    · exact (travel_traffic s _ _ _ _ _).trans (atSlice_traffic _ _ _ _ _ _)

theorem fillBank_traffic (s : State) (p : Pin) (va line leaf : Nat) : Traffic s (s.fillBank p va line leaf) := by
  unfold State.fillBank
  dsimp only
  split
  · exact .refl s
  · exact ((((dropL2_traffic s line).trans (chargeHbm_traffic _ _ _ _ _)).trans (use_traffic _ _ _ _ _)).trans
      (carry_traffic _ _ _ _ _)).trans ⟨rfl, rfl, rfl, rfl⟩

/-- An access that reaches its homes leaves traffic there and nothing else. -/
theorem reach_traffic (s : State) (source : Nat) (x : Xlate) (n : Nat) (w : Bool) : Traffic s (s.reach source x n w) := by
  refine .foldl _ (fun s line => (Traffic.trans ?_ (visit_traffic _ _ _ _ _ _))) _ s
  unfold State.fillPinned
  split
  · exact fillBank_traffic s _ _ _ _
  · exact .refl s

theorem dirtyLines_traffic (s : State) (pa n : Nat) : Traffic s (s.dirtyLines pa n) := by
  unfold State.dirtyLines
  split
  · exact .refl s
  · exact ⟨rfl, rfl, rfl, rfl⟩

theorem sweepWays_traffic (s : State) : Traffic s s.sweepWays := .foldl _ dropL2_traffic _ s

/-! ## Each operation -/

theorem setCore_memoryOnly (s : State) (c : Nat) (x : Core) : MemoryOnly s (s.setCore c x) := ⟨⟨_, _, _, _, _, rfl⟩, id⟩

theorem hbmPut_memoryOnly (s : State) (slot pa : Nat) (b : Byte) : MemoryOnly s (s.hbmPut slot pa b) := by
  unfold State.hbmPut
  split
  · refine ⟨⟨_, _, _, _, _, rfl⟩, fun h => writeByte_wf ?_ _ _⟩
    split
    · exact h
    · exact writeBytes_wf h _ _
  · exact ⟨⟨_, _, _, _, _, rfl⟩, fun h => writeByte_wf h _ _⟩

theorem homePut_memoryOnly (s : State) (slot pa : Nat) (b : Byte) : MemoryOnly s (s.homePut slot pa b) := by
  unfold State.homePut
  split
  · exact ⟨⟨_, _, _, _, _, rfl⟩, id⟩
  · exact hbmPut_memoryOnly s slot pa b

theorem homePuts_memoryOnly (s : State) (slot pa : Nat) (bs : List Byte) : MemoryOnly s (s.homePuts slot pa bs) := by
  induction bs generalizing s pa with
  | nil => exact .refl s
  | cons b bs ih => exact (homePut_memoryOnly s slot pa b).trans (ih _ _)

theorem markDirty_memoryOnly (s : State) (pa n : Nat) : MemoryOnly s (s.markDirty pa n) := by
  unfold State.markDirty
  split
  · exact .refl s
  · exact ⟨⟨_, _, _, _, _, rfl⟩, id⟩

theorem homeWrite_memoryOnly (s : State) (slot pa : Nat) (bs : List Byte) : MemoryOnly s (s.homeWrite slot pa bs) :=
  ((homePuts_memoryOnly s slot pa bs).trans (dirtyLines_traffic _ _ _).memoryOnly).trans (markDirty_memoryOnly _ _ _)

theorem writeBack_memoryOnly (s : State) (core : Nat) (p : Nat → Bool) : MemoryOnly s (s.writeBack core p) := by
  unfold State.writeBack
  dsimp only
  split
  · exact .refl s
  · exact ((setCore_memoryOnly s _ _).trans (.foldl _ (fun s _ => (visit_traffic s _ _ _ _ _).memoryOnly) _ _)).trans
      (.foldl _ (fun s e => (homePut_memoryOnly s _ _ _).trans (markDirty_memoryOnly _ _ _)) _ _)

theorem recall_memoryOnly (s : State) (except : Option Nat) (pa n : Nat) : MemoryOnly s (s.recall except pa n) := by
  refine .foldl _ (fun s c => ?_) _ s
  split
  · exact .refl s
  · exact writeBack_memoryOnly s c _

theorem dropLine_memoryOnly (s : State) (core line : Nat) : MemoryOnly s (s.dropLine core line) :=
  (writeBack_memoryOnly s core _).trans (setCore_memoryOnly _ _ _)

theorem makeRoom_memoryOnly (s : State) (core line : Nat) : MemoryOnly s (s.makeRoom core line) := by
  unfold State.makeRoom
  split
  · exact dropLine_memoryOnly s core _
  · exact .refl s

theorem fillL1_memoryOnly (s : State) (core : Nat) (x : Xlate) (line : Nat) : MemoryOnly s (s.fillL1 core x line) := by
  unfold State.fillL1
  split
  · exact .refl s
  · exact ((makeRoom_memoryOnly s core line).trans (reach_traffic _ _ _ _ _).memoryOnly).trans (setCore_memoryOnly _ _ _)

theorem fillLines_memoryOnly (s : State) (core : Nat) (x : Xlate) (n : Nat) : MemoryOnly s (s.fillLines core x n) :=
  .foldl _ (fun s line => fillL1_memoryOnly s _ x line) _ s

theorem recallFor_memoryOnly (s : State) (core pa n : Nat) : MemoryOnly s (s.recallFor core pa n) :=
  .foldl _ (fun s _ => recall_memoryOnly s _ _ _) _ s

theorem ownHome_memoryOnly (s : State) (core pa n : Nat) : MemoryOnly s (s.ownHome core pa n) :=
  .foldl _ (fun s _ => writeBack_memoryOnly s _ _) _ s

theorem dropCopies_memoryOnly (s : State) (core pa n : Nat) : MemoryOnly s (s.dropCopies core pa n) :=
  .foldl _ (fun s c => .foldl _ (fun s line => dropLine_memoryOnly s c line) _ s) _ s

theorem flushL1_memoryOnly (s : State) (core : Nat) : MemoryOnly s (s.flushL1 core) :=
  .foldl _ (fun s c => writeBack_memoryOnly s c _) _ s

theorem publish_memoryOnly (s : State) (core scope : Nat) : MemoryOnly s (s.publish core scope) := by
  refine .foldl _ (fun s c => ?_) _ s
  split
  · exact .refl s
  · exact writeBack_memoryOnly s c _

theorem bankBack_memoryOnly (s : State) (slot : Nat) : MemoryOnly s (s.bankBack slot) := by
  unfold State.bankBack
  split
  · exact .refl s
  · split
    · exact .refl s
    · refine MemoryOnly.trans ?_ (carry_traffic _ _ _ _ _).memoryOnly
      refine MemoryOnly.trans ?_ (use_traffic _ _ _ _ _).memoryOnly
      refine MemoryOnly.trans ?_ (chargeHbm_traffic _ _ _ _ _).memoryOnly
      refine MemoryOnly.trans ?_ (.foldl _ (fun s e => hbmPut_memoryOnly s _ _ _) _ _)
      exact ⟨⟨_, _, _, _, _, rfl⟩, id⟩

theorem cleanBank_memoryOnly (s : State) (bank : Nat) : MemoryOnly s (s.cleanBank bank) := .foldl _ bankBack_memoryOnly _ s

theorem dropTlb_memoryOnly (s : State) (p : TlbEntry → Bool) : MemoryOnly s (s.dropTlb p) := ⟨⟨_, _, _, _, _, rfl⟩, id⟩

theorem zeroPage_memoryOnly (s : State) (slot base size : Nat) : MemoryOnly s (s.zeroPage slot base size) :=
  ⟨⟨_, _, _, _, _, rfl⟩, fun h => clearBytes_wf h _ _⟩

theorem chargeSweep_traffic (s : State) (x : Xlate) : Traffic s (s.chargeSweep x) := by
  unfold State.chargeSweep
  split
  · exact chargeHbm_traffic s _ _ _ _
  · exact .refl s

theorem sweepBegin_memoryOnly (s : State) (x : Xlate) : MemoryOnly s (s.sweepBegin x) :=
  ((MemoryOnly.trans (t := s.dropPage (x.pa - x.pa % x.size) x.size) ⟨⟨_, _, _, _, _, rfl⟩, id⟩
    (chargeSweep_traffic _ x).memoryOnly).trans (zeroPage_memoryOnly _ _ _ _)).trans (markDirty_memoryOnly _ _ _)

theorem clearZp_memoryOnly (s : State) (leaf : Nat) : MemoryOnly s (s.clearZp leaf) :=
  (recall_memoryOnly s none leaf 8).trans (homeWrite_memoryOnly _ 0 leaf _)

theorem sweepEnd_memoryOnly (s : State) (leaf : Nat) : MemoryOnly s (s.sweepEnd leaf) :=
  ((MemoryOnly.foldl _ clearZp_memoryOnly _ s).trans (clearZp_memoryOnly _ _)).trans (dropTlb_memoryOnly _ _)

theorem touch_memoryOnly (s : State) (x : Xlate) : MemoryOnly s (s.touch x) := by
  unfold State.touch
  split
  · exact (sweepBegin_memoryOnly s x).trans (sweepEnd_memoryOnly _ _)
  · exact .refl s

theorem loadAt_memoryOnly (s : State) (core scope : Nat) (x : Xlate) (n : Nat) : MemoryOnly s (s.loadAt core scope x n).1 := by
  unfold State.loadAt
  split
  · exact .refl s
  split
  · exact .refl s
  · dsimp only
    split
    · exact fillLines_memoryOnly s _ _ _
    · exact (ownHome_memoryOnly s _ _ _).trans (reach_traffic _ _ _ _ _).memoryOnly

theorem dirtyPut_memoryOnly (s : State) (core key pa : Nat) (b : Byte) : MemoryOnly s (s.dirtyPut core key pa b) :=
  setCore_memoryOnly s _ _

theorem storeAt_memoryOnly (s : State) (core scope : Nat) (x : Xlate) (bs : List Byte) : MemoryOnly s (s.storeAt core scope x bs) := by
  unfold State.storeAt
  split
  · exact .refl s
  refine (touch_memoryOnly s x).trans ?_
  dsimp only
  split
  · exact ((recallFor_memoryOnly _ _ _ _).trans (fillLines_memoryOnly _ _ _ _)).trans
      (.foldl _ (fun s e => dirtyPut_memoryOnly s _ _ _ _) _ _)
  · exact (((recall_memoryOnly _ _ _ _).trans (dropCopies_memoryOnly _ _ _ _)).trans (reach_traffic _ _ _ _ _).memoryOnly).trans
      (homeWrite_memoryOnly _ _ _ _)

theorem performCut_memoryOnly (s : State) (cut : List Nat) : MemoryOnly s (s.performCut cut) :=
  .foldl _ (fun s c => writeBack_memoryOnly s c _) _ s

theorem promoteOldest_memoryOnly (s : State) (core : Nat) : MemoryOnly s (s.promoteOldest core) := by
  unfold State.promoteOldest
  split
  · exact .refl s
  · exact (performCut_memoryOnly s _).trans (setCore_memoryOnly _ _ _)

theorem promoteContext_memoryOnly (s : State) (core ctx : Nat) : MemoryOnly s (s.promoteContext core ctx) := by
  unfold State.promoteContext
  split
  · exact .refl s
  · exact (performCut_memoryOnly s _).trans (setCore_memoryOnly _ _ _)

theorem release_memoryOnly (s : State) (core ctx scope : Nat) : MemoryOnly s (s.release core ctx scope) := by
  have h := publish_memoryOnly s core scope
  unfold State.release
  generalize s.publish core scope = r at h
  dsimp only
  split
  · refine MemoryOnly.trans ?_ (setCore_memoryOnly _ _ _)
    split
    · exact h.trans (promoteOldest_memoryOnly r core)
    · exact h
  · exact h

theorem ownStore_memoryOnly (s : State) (core scope : Nat) : MemoryOnly s (s.ownStore core scope) := by
  unfold State.ownStore
  split
  · exact setCore_memoryOnly s _ _
  · exact .refl s

/-! ## The scratchpad (R146, R154) -/

/-- A store to a scratchpad changes that team's scratchpad alone. -/
theorem scratchStore_teams (s : State) (team a : Nat) (bs : List Byte) (k : Nat) :
    (s.scratchStore team a bs).teams.get? k =
      if k = team then (s.teams.get? team).map fun t => { t with scratch := writeBytes t.scratch a bs } else s.teams.get? k := by
  unfold State.scratchStore
  cases h : s.teams.get? team with
  | none =>
    by_cases hk : k = team
    · simp [hk, h]
    · simp [hk]
  | some t =>
    simp only [State.setTeam_teams, Tbl.get?_set, Option.map_some]

theorem scratchStore_mem (s : State) (team a : Nat) (bs : List Byte) : (s.scratchStore team a bs).mem = s.mem := by
  unfold State.scratchStore
  split <;> rfl

/-- A store to a scratchpad keeps its canonical form. -/
theorem scratchStore_wf {s : State} (h : ∀ k t, s.teams.get? k = some t → Memory.wf t.scratch = true) (team a : Nat) (bs : List Byte) :
    ∀ k t, (s.scratchStore team a bs).teams.get? k = some t → Memory.wf t.scratch = true := by
  intro k t ht
  rw [scratchStore_teams] at ht
  split at ht
  · cases hx : s.teams.get? team with
    | none => rw [hx] at ht; cases ht
    | some y => rw [hx] at ht; cases ht; exact writeBytes_wf (h _ _ hx) _ _
  · exact h k t ht

/-! ## Reading after writing, at the home (R380) -/

@[simp] theorem State.slotKey_mem (s : State) (m : List Host.Cell) (b : Tbl Nat) (slot : Nat) :
    State.slotKey { s with mem := m, burstKey := b } slot = s.slotKey slot := rfl

theorem length_homeBytes (s : State) (slot pa n : Nat) : (s.homeBytes slot pa n).length = n := by simp [State.homeBytes]

/-- The keys of a burst that has been written are the writer's, and no other burst's have changed. -/
theorem writtenUnder_set (s : State) (m : List Host.Cell) (pa a k k' : Nat) :
    State.writtenUnder { s with mem := m, burstKey := s.burstKey.set (pa / 64) k } a k' =
      if a / 64 = pa / 64 then k else s.writtenUnder a k' := by
  simp only [State.writtenUnder, Tbl.get?_set]
  by_cases h : a / 64 = pa / 64
  · simp [h]
  · simp only [if_neg h]

/-- A burst stands under one pair of keys. -/
theorem writtenUnder_burst (s : State) {a pa : Nat} (h : a / 64 = pa / 64) (k : Nat) : s.writtenUnder a k = s.writtenUnder pa k := by
  simp only [State.writtenUnder, h]

/-- A byte of memory read under the slot it was written under is the byte written; no other byte read under the slot has
changed, whatever keys its burst stood under. -/
theorem hbmByte_hbmPut {s : State} (h : Memory.wf s.mem = true) (slot pa a : Nat) (b : Byte) :
    (s.hbmPut slot pa b).hbmByte slot a = if a = pa then b else s.hbmByte slot a := by
  unfold State.hbmPut
  split
  · rename_i hp
    dsimp only
    obtain ⟨bs, hbs⟩ : ∃ bs, bs = (List.range 64).map fun i => s.hbmByte slot (pa / 64 * 64 + i) := ⟨_, rfl⟩
    have hl : bs.length = 64 := by rw [hbs]; simp
    have hg : ∀ i, i < 64 → bs.getD i 0 = s.hbmByte slot (pa / 64 * 64 + i) := by intro i hi; rw [hbs]; simp [hi]
    rw [← hbs]
    clear hbs
    obtain ⟨m, hm, hr⟩ : ∃ m, m = (if s.writtenUnder pa (s.slotKey slot) = s.slotKey slot then s.mem else
        writeBytes s.mem (pa / 64 * 64) bs) ∧ Memory.wf m = true :=
      ⟨_, rfl, by split <;> first | exact h | exact writeBytes_wf h _ _⟩
    rw [← hm]
    by_cases ha : a = pa
    · subst ha
      simp [State.hbmByte, writtenUnder_set, hp, readByte_writeByte hr]
    rw [if_neg ha]
    have hx : State.hbmByte { s with mem := writeByte m pa b, burstKey := s.burstKey.set (pa / 64) (s.slotKey slot) } slot a =
        if isHbm a then
          if a / 64 = pa / 64 then readByte m a
          else if s.writtenUnder a (s.slotKey slot) = s.slotKey slot then readByte m a
          else Config.xtsOther (s.writtenUnder a (s.slotKey slot)) (s.slotKey slot) (a / 64)
            (readBytes (writeByte m pa b) (a / 64 * 64) 64) (a % 64)
        else readByte m a := by
      simp only [State.hbmByte, State.slotKey_mem, writtenUnder_set, readByte_writeByte hr, if_neg ha]
      by_cases hd : a / 64 = pa / 64
      · simp [hd]
      · simp only [if_neg hd]
    rw [hx]
    have hp' := hp
    simp only [isHbm, decide_eq_true_eq] at hp'
    by_cases hd : a / 64 = pa / 64
    · have hy : isHbm a = true := by simp only [isHbm, decide_eq_true_eq]; omega
      rw [if_pos hy, if_pos hd, hm]
      by_cases hw : s.writtenUnder pa (s.slotKey slot) = s.slotKey slot
      · simp only [State.hbmByte, hy, writtenUnder_burst s hd, hw, if_true]
      · have he : pa / 64 * 64 + (a - pa / 64 * 64) = a := by omega
        have hread := hg (a - pa / 64 * 64) (by omega)
        rw [he] at hread
        rw [if_neg hw, readByte_writeBytes h, hl, if_pos (by omega), hread]
    · have hother : ∀ x, x / 64 ≠ pa / 64 → readByte m x = readByte s.mem x := by
        intro x hx'
        rw [hm]
        split
        · rfl
        · rw [readByte_writeBytes h, hl, if_neg (by omega)]
      have hblock : readBytes (writeByte m pa b) (a / 64 * 64) 64 = readBytes s.mem (a / 64 * 64) 64 := by
        simp only [readBytes]
        refine List.map_congr_left fun i hi => ?_
        have hi' := List.mem_range.mp hi
        rw [readByte_writeByte hr, if_neg (by omega), hother _ (by omega)]
      simp only [if_neg hd, hother a hd, hblock, State.hbmByte]
  · rename_i hp
    have hf : State.writtenUnder { s with mem := writeByte s.mem pa b } = s.writtenUnder := rfl
    by_cases ha : a = pa
    · subst ha; simp [State.hbmByte, hp, readByte_writeByte h]
    · rw [if_neg ha]
      simp only [State.hbmByte, readByte_writeByte h, if_neg ha, hf]
      by_cases hy : isHbm a
      · have hp' := hp
        simp only [isHbm, decide_eq_true_eq] at hp' hy
        have hblock : readBytes (writeByte s.mem pa b) (a / 64 * 64) 64 = readBytes s.mem (a / 64 * 64) 64 := by
          simp only [readBytes]
          refine List.map_congr_left fun i hi => ?_
          have hi' := List.mem_range.mp hi
          rw [readByte_writeByte h, if_neg (by omega)]
        simp only [hblock]
        rfl
      · simp [hy]

/-- A byte read at the home under the slot it was written under is the byte written, in a bank or in memory; no other byte read under
the slot has changed. -/
theorem homeByte_homePut {s : State} (h : Memory.wf s.mem = true) (slot pa a : Nat) (b : Byte) :
    (s.homePut slot pa b).homeByte slot a = if a = pa then b else s.homeByte slot a := by
  unfold State.homePut
  split
  · have hb : ∀ (d : Tbl Byte) (x : Nat), State.hbmByte { s with fabric := { s.fabric with bankData := d } } slot x = s.hbmByte slot x :=
      fun d x => hbmByte_congr (t := { s with fabric := { s.fabric with bankData := d } }) rfl rfl rfl rfl slot x
    simp only [State.homeByte, Tbl.get?_set]
    by_cases ha : a = pa
    · subst ha; simp
    · simp only [if_neg ha]; rfl
  · rename_i hb
    have hf : (s.hbmPut slot pa b).fabric = s.fabric := by unfold State.hbmPut; split <;> rfl
    have hn : s.fabric.bankData.get? pa = none := by
      simp only [State.banked, Bool.or_eq_true, not_or, Bool.not_eq_true, Option.isSome_eq_false_iff, Option.isNone_iff_eq_none] at hb
      exact hb.2
    simp only [State.homeByte, hf, hbmByte_hbmPut h]
    by_cases ha : a = pa
    · subst ha; simp [hn]
    · simp only [if_neg ha]

/-- The same for bytes from an address up. -/
theorem homeByte_homePuts {s : State} (h : Memory.wf s.mem = true) (slot pa a : Nat) (bs : List Byte) :
    (s.homePuts slot pa bs).homeByte slot a = if pa ≤ a ∧ a < pa + bs.length then bs.getD (a - pa) 0 else s.homeByte slot a := by
  induction bs generalizing s pa with
  | nil =>
    rw [if_neg (by simp)]
    rfl
  | cons b bs ih =>
    simp only [State.homePuts, ih ((homePut_memoryOnly s slot pa b).wf h), homeByte_homePut h, List.length_cons]
    by_cases h1 : a = pa
    · subst h1
      rw [if_pos rfl, if_neg (by omega), if_pos (by omega), Nat.sub_self]
      rfl
    · by_cases h2 : pa + 1 ≤ a ∧ a < pa + 1 + bs.length
      · have h3 : pa ≤ a ∧ a < pa + (bs.length + 1) := by omega
        have h4 : a - pa = (a - (pa + 1)) + 1 := by omega
        rw [if_pos h2, if_pos h3, h4]
        simp
      · have h3 : ¬ (pa ≤ a ∧ a < pa + (bs.length + 1)) := by omega
        rw [if_neg h2, if_neg h3, if_neg h1]

@[simp] theorem homeByte_markDirty (s : State) (pa n slot a : Nat) : (s.markDirty pa n).homeByte slot a = s.homeByte slot a := by
  unfold State.markDirty
  split <;> rfl

/-- Reading after a write at the home, under the same slot. -/
theorem homeByte_homeWrite {s : State} (h : Memory.wf s.mem = true) (slot pa a : Nat) (bs : List Byte) :
    (s.homeWrite slot pa bs).homeByte slot a = if pa ≤ a ∧ a < pa + bs.length then bs.getD (a - pa) 0 else s.homeByte slot a := by
  unfold State.homeWrite
  rw [homeByte_markDirty, (dirtyLines_traffic _ _ _).homeByte, homeByte_homePuts h]

end Sys2Proof.Machine
end

