-- ==== Sys2Proof/Laws/Place.lean ====
section
/-! SUPPORT. What the operations around a word change: turns, tokens and the place of a split, and nothing else. -/

namespace Sys2Proof.Machine

/-! ## States that differ in turns and tokens only -/

/-- `t` is `s` but for turns, tokens and the counter of keys. -/
structure Quiet (s t : State) : Prop where
  squads : t.squads = s.squads
  around : t.around = s.around
  core : ∀ c, (t.core c).still = (s.core c).still

theorem Quiet.refl (s : State) : Quiet s s := ⟨rfl, rfl, fun _ => rfl⟩

theorem Quiet.trans {s t r : State} (h : Quiet s t) (g : Quiet t r) : Quiet s r :=
  ⟨g.squads.trans h.squads, g.around.trans h.around, fun c => (g.core c).trans (h.core c)⟩

theorem Quiet.setCluster (s : State) (k : Nat) (x : Cluster) : Quiet s (s.setCluster k x) := ⟨rfl, rfl, fun _ => rfl⟩

theorem Quiet.giveTokens (s : State) (c n : Nat) : Quiet s (s.giveTokens c n) := by
  unfold State.giveTokens
  split
  · exact Quiet.refl s
  · exact Quiet.setCluster s _ _

theorem Quiet.onQuarter (s : State) (c q : Nat) (f : Quarter → Quarter) : Quiet s (s.onQuarter c q f) := by
  refine ⟨rfl, rfl, fun k => ?_⟩
  unfold State.onQuarter
  rw [State.core_setCore]
  split
  · rename_i h; subst h; rfl
  · rfl

theorem Quiet.setTurn (s : State) (n : Nat) : Quiet s { s with turn := n } := ⟨rfl, rfl, fun _ => rfl⟩

theorem Quiet.endTurn (s : State) (q : Squad) : Quiet s (s.endTurn q) :=
  (Quiet.onQuarter s _ _ _).trans (Quiet.setTurn _ _)

theorem Quiet.countWords (s : State) (u : Issuer) (n : Nat) : Quiet s (s.countWords u n) := Quiet.onQuarter s _ _ _

theorem Quiet.yieldAfter (s : State) (u : Issuer) : Quiet s (s.yieldAfter u) := by
  unfold State.yieldAfter
  split
  · exact Quiet.onQuarter s _ _ _
  · exact Quiet.refl s

theorem Quiet.dropRequests (s : State) (c k sp : Nat) : Quiet s (s.dropRequests c k sp) := by
  unfold State.dropRequests
  dsimp only
  split
  · exact Quiet.refl s
  · exact (Quiet.setCluster s _ _).trans (Quiet.giveTokens _ _ _)

/-! ## A split changes -/

/-- The squads after a split has changed. -/
theorem onSplit_get? (s : State) (k sp l : Nat) (f : Split → Split) :
    (s.onSplit k sp f).squads.get? l =
      if l = k then (s.squads.get? k).map fun q => { q with splits := q.splits.map fun x => if x.id == sp then f x else x }
      else s.squads.get? l := by
  unfold State.onSplit State.onSquad
  cases h : s.squads.get? k with
  | none =>
    by_cases hl : l = k
    · subst hl; simp [h]
    · simp [hl]
  | some q => simp [State.setSquad, Tbl.get?_set]

theorem onSplit_around (s : State) (k sp : Nat) (f : Split → Split) : (s.onSplit k sp f).around = s.around := by
  unfold State.onSplit State.onSquad
  split <;> rfl

theorem onSplit_core (s : State) (k sp : Nat) (f : Split → Split) (c : Nat) : (s.onSplit k sp f).core c = s.core c := by
  unfold State.onSplit State.onSquad
  split <;> rfl

/-- A split found by its id after a change that keeps ids. -/
theorem find_map_split (l : List Split) (sp : Nat) (f : Split → Split) (hf : ∀ x, x.id = sp → (f x).id = sp) (p : Split)
    (h : l.find? (fun x => x.id == sp) = some p) :
    (l.map fun x => if x.id == sp then f x else x).find? (fun x => x.id == sp) = some (f p) := by
  induction l with
  | nil => simp at h
  | cons a l ih =>
    simp only [List.map_cons, List.find?_cons]
    by_cases ha : a.id = sp
    · have hp : a = p := by simpa [List.find?_cons, ha] using h
      subst hp
      simp [ha, hf a ha]
    · have hl : l.find? (fun x => x.id == sp) = some p := by simpa [List.find?_cons, ha] using h
      have hb : (a.id == sp) = false := by simpa using ha
      simp only [hb, Bool.false_eq_true, if_false]
      exact ih hl

/-- `t` is `s` with one split changed by `f`, but for turns and tokens. -/
structure Placed (s t : State) (k sp : Nat) (f : Split → Split) : Prop where
  squads : ∀ l, t.squads.get? l = (s.onSplit k sp f).squads.get? l
  around : t.around = s.around
  core : ∀ c, (t.core c).still = (s.core c).still

theorem Placed.onSplit (s : State) (k sp : Nat) (f : Split → Split) : Placed s (s.onSplit k sp f) k sp f :=
  ⟨fun _ => rfl, onSplit_around s k sp f, fun c => by rw [onSplit_core]⟩

theorem Placed.quiet {s t r : State} {k sp : Nat} {f : Split → Split} (h : Placed s t k sp f) (g : Quiet t r) :
    Placed s r k sp f :=
  ⟨fun l => by rw [g.squads]; exact h.squads l, g.around.trans h.around, fun c => (g.core c).trans (h.core c)⟩

theorem Placed.after {s r t : State} {k sp : Nat} {f : Split → Split} (g : Quiet s r) (h : Placed r t k sp f) :
    Placed s t k sp f := by
  refine ⟨fun l => ?_, h.around.trans g.around, fun c => (h.core c).trans (g.core c)⟩
  rw [h.squads l, onSplit_get?, onSplit_get?, g.squads]

theorem Placed.comp {s r t : State} {k sp : Nat} {f g : Split → Split} (hf : ∀ x, x.id = sp → (f x).id = sp)
    (h : Placed s r k sp f) (h' : Placed r t k sp g) : Placed s t k sp fun x => g (f x) := by
  refine ⟨fun l => ?_, h'.around.trans h.around, fun c => (h'.core c).trans (h.core c)⟩
  rw [h'.squads l, onSplit_get?, onSplit_get?]
  by_cases hl : l = k
  · subst hl
    rw [if_pos rfl, if_pos rfl, h.squads l, onSplit_get?, if_pos rfl]
    cases s.squads.get? l with
    | none => rfl
    | some q =>
      simp only [Option.map_some, List.map_map]
      congr 3
      funext x
      simp only [Function.comp]
      by_cases hx : x.id = sp
      · simp [hx, hf x hx]
      · simp [hx]
  · rw [if_neg hl, if_neg hl, h.squads l, onSplit_get?, if_neg hl]

/-- The squad after a split has changed: all of it but the splits, and the split itself. -/
theorem Placed.squad {s t : State} {k sp : Nat} {f : Split → Split} {q : Squad} {p : Split} (h : Placed s t k sp f)
    (hf : ∀ x, x.id = sp → (f x).id = sp) (hq : s.squads.get? k = some q) (hp : q.split? sp = some p) :
    ∃ q', t.squads.get? k = some q' ∧ q'.still = q.still ∧ q'.split? sp = some (f p) ∧
      q'.splits = q.splits.map (fun x => if x.id == sp then f x else x) ∧ q'.bench = q.bench := by
  refine ⟨{ q with splits := q.splits.map fun x => if x.id == sp then f x else x }, ?_, rfl, ?_, rfl, rfl⟩
  · rw [h.squads, onSplit_get?, if_pos rfl, hq]; rfl
  · exact find_map_split q.splits sp f hf p hp

/-- The other squads. -/
theorem Placed.others {s t : State} {k sp : Nat} {f : Split → Split} (h : Placed s t k sp f) {l : Nat} (hl : l ≠ k) :
    t.squads.get? l = s.squads.get? l := by
  rw [h.squads, onSplit_get?, if_neg hl]

/-! ## Moving on, and ending a clause -/

theorem endClause_placed (s : State) (u : Issuer) (pos : DWord) :
    Placed s (s.endClause u pos) u.key u.split.id fun x => x.atHeader pos :=
  ((Placed.onSplit s _ _ _).quiet (Quiet.giveTokens _ _ _)).quiet (Quiet.yieldAfter _ u)

/-- What moving on by `n` words does to a split (R26, R28). -/
def Issuer.step (u : Issuer) (n : Nat) (x : Split) : Split :=
  if indexOf u.split.pos + n < u.split.length then
    { x with pos := u.split.after n, wait := none, arrived := none, released := false, begun := true, walked := none, owed := none }
  else x.atHeader (u.split.after n)

theorem moveOn_placed (s : State) (u : Issuer) (n : Nat) : Placed s (s.moveOn u n) u.key u.split.id (u.step n) := by
  unfold State.moveOn
  dsimp only
  by_cases h : indexOf u.split.pos + n < u.split.length
  · rw [if_pos h]
    have hs : u.step n = fun x =>
      { x with pos := u.split.after n, wait := none, arrived := none, released := false, begun := true, walked := none,
               owed := none } := by
      funext x; simp [Issuer.step, h]
    rw [hs]
    exact Placed.after (Quiet.countWords s u n) (Placed.onSplit _ _ _ _)
  · rw [if_neg h]
    have hs : u.step n = fun x => x.atHeader (u.split.after n) := by
      funext x; simp [Issuer.step, h]
    rw [hs]
    exact (Placed.after (Quiet.countWords s u n) (endClause_placed _ u _)).quiet (Quiet.endTurn _ _)

/-- Dropping the tokens of a word. -/
def Split.without (idx : Nat) (x : Split) : Split := { x with tokens := x.tokens.filter fun t => t.1 != idx }

theorem holdTokens_placed (s : State) (u : Issuer) (idx price : Nat) (op : Option Nat)
    (h : ¬ (price = 0 ∧ u.split.heldFor idx = 0)) :
    Placed s (s.holdTokens u idx price op) u.key u.split.id (Split.without idx) := by
  unfold State.holdTokens
  rw [if_neg h]
  dsimp only
  split
  · exact Placed.after (Quiet.giveTokens s _ _) (Placed.onSplit _ _ _ _)
  · refine Placed.after ?_ (Placed.onSplit _ _ _ _)
    have h : ∀ r : State, Quiet s r → Quiet s (r.giveTokens u.squad.core (u.split.heldFor idx - price)) :=
      fun r hr => hr.trans (Quiet.giveTokens r _ _)
    exact h _ ⟨rfl, rfl, fun _ => rfl⟩

/-- What a word that takes effect does to its split. -/
def State.stepOf (s : State) (u : Issuer) (i : Instr) (x : Split) : Split :=
  if s.price u.squad i = 0 ∧ u.split.heldFor (indexOf u.split.pos) = 0 then u.step (wordsOf i) x
  else u.step (wordsOf i) (Split.without (indexOf u.split.pos) x)

theorem stepOf_id (s : State) (u : Issuer) (i : Instr) (x : Split) : (s.stepOf u i x).id = x.id := by
  unfold State.stepOf Issuer.step Split.atHeader Split.without
  split <;> split <;> rfl

theorem conclude_next_placed (t : State) (u : Issuer) (n : Nat) (m : Move) (hm : m = .next ∨ m = .yields) :
    Placed t (State.conclude u n (.takes m t)) u.key u.split.id (u.step n) := by
  rcases hm with rfl | rfl
  · exact moveOn_placed t u n
  · unfold State.conclude
    dsimp only
    split
    · exact ((moveOn_placed t u n).quiet (Quiet.endTurn _ _)).quiet (Quiet.onQuarter _ _ _ _)
    · exact (moveOn_placed t u n).quiet (Quiet.onQuarter _ _ _ _)

/-- After a word that takes effect and moves on, only its split has moved. -/
theorem taken_placed (s t : State) (u : Issuer) (i : Instr) (m : Move) (hm : m = .next ∨ m = .yields) :
    Placed t (s.taken u i m t) u.key u.split.id (s.stepOf u i) := by
  unfold State.taken
  by_cases h : s.price u.squad i = 0 ∧ u.split.heldFor (indexOf u.split.pos) = 0
  · rw [if_pos h]
    have hs : s.stepOf u i = u.step (wordsOf i) := by funext x; simp [State.stepOf, h]
    rw [hs]
    exact conclude_next_placed t u (wordsOf i) m hm
  · rw [if_neg h, show s.stepOf u i = fun x => u.step (wordsOf i) (Split.without (indexOf u.split.pos) x) by
      funext x; simp only [State.stepOf, if_neg h]]
    exact Placed.comp (fun _ hx => hx) (holdTokens_placed t u _ _ _ h) (conclude_next_placed _ _ _ m hm)

/-! ## Traps -/

/-- A trap with a handler, and none running, enters it (R95). -/
theorem takeTrap_enters {s : State} {k sp : Nat} {q : Squad} {p : Split} (hq : s.squads.get? k = some q)
    (hp : q.split? sp = some p) (ha : q.active = false) (ht : headerOf q.tvec ≠ 0) (c : Cause) (v pos : DWord) :
    Quiet (s.setSquad k { q.setSplit (p.atHeader (position (headerOf q.tvec) 0)) with
        active := true, tcause := BitVec.ofNat 6 c.code, tval := v, tpc := pos, tmask := p.mask ++ p.mask, handler := some sp })
      (s.takeTrap k sp c v pos) := by
  unfold State.takeTrap
  simp only [hq, hp]
  rw [if_neg (by simp [ha, ht])]
  have h := (Quiet.dropRequests s q.core k sp).trans (Quiet.giveTokens _ q.core p.tokenSum)
  refine ⟨?_, ?_, fun c => h.core c⟩
  · simp only [State.setSquad]; rw [h.squads]
  · have := h.around
    simpa [State.setSquad, State.around] using this

end Sys2Proof.Machine
end

