-- ==== Sys2Proof/Tests/Slice0.lean ====
section
/-! SUPPORT. The author's own tests: ill-formed terms that are refused, words written out from the spec's encodings, and for each
statement a state and operands that meet its hypotheses. -/

set_option Elab.async false

namespace Sys2Proof.Tests
open Sys2Proof Sys2Proof.Machine

/-! ## Helpers -/

/-- The reset state with a clause of one word (and its literal word) loaded, its split at the cursor: squad 4 of team 3 of gang 2
of launch 1, on core 0. -/
def base (w l : Word) : State := { State.reset.load w l with cur := ⟨4, 0⟩ }

/-- The issuing split of such a state. -/
def me (s : State) : Issuer :=
  s.issuer.getD ⟨0, programSquad 0 (programClause 0 0) [], { id := 0, pos := 0, mask := 0 }⟩

/-- Whether a word issues for the split at the cursor. -/
def issuesNow (s : State) (i : Instr) : Bool :=
  s.issuer.isSome && i.wf && decide (s.price (me s).squad i ≤ s.cap (clusterOf (me s).squad.core)) &&
    decide (s.price (me s).squad i ≤ (me s).split.heldFor (indexOf (me s).split.pos))

theorem issues_of {s : State} {i : Instr} (h : issuesNow s i = true) : Issues s i (me s) := by
  simp only [issuesNow, Bool.and_eq_true, decide_eq_true_eq] at h
  obtain ⟨⟨⟨h1, h2⟩, h3⟩, h4⟩ := h
  refine ⟨?_, h2, h3, h4⟩
  cases hx : s.issuer with
  | none => rw [hx] at h1; cases h1
  | some u => simp [me, hx]

/-- Names ready, as a check. -/
def namesNow (s : State) (q : Squad) (names dests : List Nat) : Bool :=
  (names ++ dests).all (fun n => decide (n < s.regCount q)) && (q.awaited &&& nameMask (names ++ dests) == 0) &&
    s.canTake q (dests.filter q.needsNew).length

theorem names_of {s : State} {q : Squad} {names dests : List Nat} (h : namesNow s q names dests = true) :
    NamesReady s q names dests := by
  simp only [namesNow, Bool.and_eq_true, List.all_eq_true, decide_eq_true_eq, beq_iff_eq] at h
  exact ⟨h.1.1, h.1.2, h.2⟩

/-- The squad of the loaded program, changed. -/
def squadIs (s : State) (f : Squad → Squad) : State := s.onSquad 4 f


/-! ## Ill-formed terms (R31, R32, R35, R42, R75, R90, R307) -/

theorem test_refuses_slots : [Instr.sadd 31 0 (.reg 0), .sadd 0 31 (.reg 0), .sadd 0 0 (.reg 31), .sadd 0 0 (.bad 1),
    .ssel 0 0 (.bad 0x101), .vadd 0 (.lit 0) (.sca 0), .vadd 0 (.sca 28) (.sca 0), .vadd 0 (.bad 7) (.sca 0),
    .vadd 0 (.sca 0) (.bad 7), .vmov 0 (.sca 28), .vmovx 0 (.sca 0) 0, .vmovx 0 (.vec 0 false .ident) 31,
    .vldW 0 28 0 (.sca 0), .sldW 0 0 0 (.vec 0 false .ident), .sldW 28 0 0 (.sca 0), .xq 0 0 0 (.lit 0)].map Instr.wf =
    [false, false, false, false, false, false, false, false, false, false, false, false, false, false, false, true] := by decide

theorem test_refuses_fields : [Instr.pand 7 0 0, .vceq 0 7 (.sca 0) (.sca 0), .vcvt 0 (.sca 0) 15 0, .vrdc 0 (.sca 0) 6, .sett 15,
    .setr 6 0 0, .setw 5, .setd 7, .waitc 5 0, .fence 0 0, .vldD 1 0 0 (.sca 0), .vldQ 2 0 0 (.sca 0), .atom 0 0 0 0 12,
    .acas 0 0 0 0 3, .acas 1 0 0 0 0, .acas 0 0 0 1 1, .mmaw 0 0 2 0 0 0, .bid 5 0 (.reg 0), .srd 0 0x003, .swr 0 0x030,
    .bari 0 3 0, .bara 0 2 8, .barw 0 5 0, .brs 28 0].all (fun i => !i.wf) = true := by decide

/-! ## Words written out from the encoding tables (R30 to R36, R40) -/

/-- What the decoder reads from a word and the word after it. -/
def reads (w l : Word) : Option Instr := decodeTableWord 32 (w.toNat + l.toNat * 2 ^ 32)

theorem test_words_scalar : [reads 0x0014C070 0, reads 0x1014A1FF 0, reads 0x0A700050 0, reads 0x0A1C01C0 0, reads 0x0A1401FF 0x80000001] =
    [some (.sadd 5 6 (.reg 7)), some (.saddI 5 5 0x1FF), some (.smov 28 (.reg 5)), some (.smov 7 (.reg 28)),
     some (.smov 5 (.lit 0x80000001))] := by decide +kernel

theorem test_words_control : [reads 0x20B3FFF4 0, reads 0x2600002A 0, reads 0x27000000 0, reads 0x23800000 0, reads 0x33D40013 0,
    reads 0x31100000 0, reads 0x32080000 0, reads 0x330401FF 0x1234, reads 0x3800A060 0, reads 0x380CA1FF 0x10] =
    [some (.brs 12 0x3FFF4), some (.trap 0x002A), some .tret, some .exit, some (.srd 21 0x013),
     some (.sett 4), some (.setw 2), some (.setx 1 (.lit 0x1234)), some (.bid 0 5 (.reg 6)), some (.bid 3 5 (.lit 0x10))] := by
  decide +kernel

theorem test_words_vector : [reads 0x4110A1FF 0x40490FDB, reads 0x40042015 0, reads 0xA0180023 0, reads 0xA08C0050 0, reads 0xA100A028 0,
    reads 0xA4146070 0] =
    [some (.vmul 4 (.vec 5 false .ident) (.lit 0x40490FDB)), some (.vadd 1 (.vec 1 false .ident) (.vec 1 false .bf)),
     some (.vmov 6 (.vec 2 false .bc)), some (.vmovx 3 (.vec 0 false .ident) 5), some (.vmovxw 0 5 (.vec 2 true .ident)),
     some (.rdep 5 (.vec 3 false .ident) (.reg 7))] := by decide +kernel

theorem test_words_memory : [reads 0xC1088E10 0, reads 0xCD088E10 0, reads 0xC59909FF 0x100, reads 0xD9088810 0, reads 0xDB24C830 0,
    reads 0xE010C810 0, reads 0xE088A63B 0, reads 0xE120C811 0, reads 0xD8080800 0, reads 0xD8800000 0, reads 0xD2880E50 0] =
    [some (.vldW 2 4 7 (.vec 1 false .ident)), some (.spldW 2 4 7 (.vec 1 false .ident)), some (.vstD 6 8 4 (.lit 0x100)),
     some (.vldaW 2 4 4 (.vec 1 false .ident)), some (.acqp 9 6 4 (.reg 3)), some (.atom 4 6 4 1 0),
     some (.ared 2 5 3 3 11), some (.acas 8 6 4 1 1), some (.fence 2 4), some .fencet, some (.rsst 2 0 7 (.vec 5 false .ident))] := by
  decide +kernel

theorem test_words_matrix_and_barriers : [reads 0xB00CCE07 0, reads 0xB4A06040 0, reads 0xB44A1090 0, reads 0xB4801040 0, reads 0xBA00A000 0,
    reads 0xB89021FF 7, reads 0xE41C0203 0, reads 0xE4A40400 0, reads 0xE5240400 0, reads 0xE6000801 0, reads 0xE98001FF 2] =
    [some (.tidset 3 6 7 (.sca 0)), some (.mmaz 0 1 0 3 0 4), some (.mma 1 0 2 16 1 9), some (.mmaz 0 0 0 0 1 4), some (.accst 0 5),
     some (.accrd 4 1 (.lit 7)), some (.bari 7 1 3), some (.bara 9 2 0), some (.barw 9 2 0), some (.barj 4 1),
     some (.pqgive 0 0 (.lit 2))] := by decide +kernel

/-! ## Statements about scalar words, control transfers and modes: states that meet their hypotheses -/

theorem hyps_ScalarResults : Issues (base 0x0012 0) (.sseq 27 27 (.reg 27)) (me (base 0x0012 0)) ∧
    (me (base 0x0012 0)).squad.plainB (.reg 27) = some 0 ∧
    (Instr.sseq 27 27 (.reg 27), 1#64) ∈ (scalarWords 27 27 (.reg 27)).zip (scalarResults ((me (base 0x0012 0)).squad.sreg 27) 0) ∧
    (Instr.saddI 0 27 0x100, 0xFFFFFFFFFFFFFF00#64) ∈
      (scalarImmediates 0 27 0x100).zip (scalarResults ((me (base 0x0012 0)).squad.sreg 27) (BitVec.signExtend 64 0x100#9)) ∧
    Issues (base 0x0012 0) (.saddI 0 27 0x100) (me (base 0x0012 0)) ∧
    Issues (base 0x0012 0) (.sli 27 0x80000000) (me (base 0x0012 0)) :=
  ⟨issues_of (by decide +kernel), by decide +kernel, by decide +kernel, by decide +kernel, issues_of (by decide +kernel),
    issues_of (by decide +kernel)⟩

/-- A command whose record has been produced, or has not. -/
def command (r : Option DWord) : Command :=
  { words := [0x0000000000000201#64, 0x0000000000100001#64], dst := 0, src := 0, idx := 0, scope := 1, record := r }

theorem hyps_PortTraffic_reads : ([none, some 5#64].all fun r =>
      let s := squadIs (base 0 0) fun q => { q with commands := put q.commands 2 [command r] }
      issuesNow s (.smov 27 (.reg 30)) && decide (at' (me s).squad.commands 2 [] = [command r])) = true ∧
    issuesNow (base 0 0) (.smov 27 (.reg 30)) = true ∧ at' (me (base 0 0)).squad.commands 2 [] = [] := by decide +kernel

theorem hyps_PortTraffic_pushes :
    (let s := base 0x0A700050 0
     issuesNow s (.smov 28 (.lit 0x201)) = true ∧ (me s).squad.plainB (.lit 0x201) = some 0x201 ∧
      at' (me s).squad.assembly 0 [] = [] ∧ pushReason 0 (((s.launchOf (me s).squad).map (·.coop)).getD false) 0x201 = none ∧
      (at' (me s).squad.commands 0 []).length < 16) ∧
    (let s := squadIs (base 0x0A700050 0) fun q => { q with assembly := put q.assembly 0 [0x201] }
     issuesNow s (.smov 28 (.lit 1)) = true ∧ at' (me s).squad.assembly 0 [] = [0x201#64] ∧ bits 0x201#64 11 8 = 2 ∧
      ∀ t ∈ commandNames 0x201, (me s).squad.tensorBusy t = false) := by decide +kernel

theorem hyps_PortTraffic_full : (let s := squadIs (base 0x0A700050 0) fun q => { q with
      assembly := put q.assembly 0 [0x201], commands := put q.commands 2 [command none], popped := List.range 62 }
     issuesNow s (.smov 28 (.lit 1)) = true ∧ at' (me s).squad.assembly 0 [] = [0x201#64] ∧ 63 ≤ (me s).squad.path 4 ∧
      ∀ t ∈ commandNames 0x201, (me s).squad.tensorBusy t = false) := by decide +kernel

theorem hyps_WordsMoveOn : ∃ q p, (base 0 0).squads.get? (me (base 0 0)).key = some q ∧ q.split? (me (base 0 0)).split.id = some p :=
  ⟨_, _, (issuer_spec (issues_of (i := .yield) (by decide +kernel)).issuer).2⟩

/-- Whether an outcome is a next state. -/
def isNext (o : Host.Outcome State Fault Refusal) : Bool :=
  match o with
  | .next _ => true
  | _ => false

theorem next_of {o : Host.Outcome State Fault Refusal} (h : isNext o = true) : ∃ t, o = .next t := by
  cases o with
  | next t => exact ⟨t, rfl⟩
  | fault r => cases h
  | refused r => cases h

/-- The squad of the loaded program after a step. -/
def squadAfter (o : Host.Outcome State Fault Refusal) : Option Squad :=
  match o with
  | .next t => t.squads.get? 4
  | _ => none

theorem hyps_ScalarFrame : (Instr.sadd 5 6 (.reg 7)) ∈ scalarWords 5 6 (.reg 7) ∧
    isNext (exec (.sadd 5 6 (.reg 7)) (base 0x0014C070 0)) = true ∧
    (squadAfter (exec (.sadd 5 6 (.reg 7)) (base 0x0014C070 0))).isSome = true := by decide +kernel

theorem hyps_BranchesMove : Issues (base 0 0) (.bra 1) (me (base 0 0)) ∧ Issues (base 0 0) (.brs 27 0x20000) (me (base 0 0)) ∧
    Issues (base 0 0) (.call 27 1) (me (base 0 0)) ∧ Issues (base 0 0) (.brp 0 7 1) (me (base 0 0)) ∧
    voteHolds 0 (me (base 0 0)).lanes ((me (base 0 0)).squad.pred 7) ∧ ¬ voteHolds 0 (me (base 0 0)).lanes ((me (base 0 0)).squad.pred 0) := by
  refine ⟨issues_of (by decide +kernel), issues_of (by decide +kernel), issues_of (by decide +kernel), issues_of (by decide +kernel),
    ⟨0, by decide, by decide +kernel, by decide +kernel⟩, ?_⟩
  rintro ⟨k, hk, -, h⟩
  have hall : ∀ k, k < 32 → has ((me (base 0 0)).squad.pred 0) k = false := by decide +kernel
  rw [hall k hk] at h
  cases h

/-- The loaded program with p0 true in lane 0 alone. -/
def oneLane : State := squadIs (base 0 0) fun q => q.setPred 0 0xFFFFFFFF 1

theorem hyps_LanesBranch : issuesNow (base 0 0) (.brl 0 0 1) = true ∧
    (me (base 0 0)).lanes &&& (me (base 0 0)).squad.pred 0 = 0 ∧ (me (base 0 0)).split.mask &&& ~~~((me (base 0 0)).squad.pred 7) = 0 ∧
    issuesNow (base 0 0) (.brl 0 7 1) = true ∧
    (∀ a : Bool, let s := squadIs oneLane fun q => { q with active := a }
      issuesNow s (.brl 0 0 1) = true ∧ (me s).lanes &&& (me s).squad.pred 0 ≠ 0 ∧ (me s).split.mask &&& ~~~((me s).squad.pred 0) ≠ 0 ∧
        (me s).squad.active = a ∧ (me s).squad.splits.length < 4 ∧ (me s).squad.bench = []) ∧
    (let s := squadIs oneLane fun q => { q with splits := q.splits ++ [{ id := 1, pos := 0x20000, mask := 0 },
        { id := 2, pos := 0x20000, mask := 0 }, { id := 3, pos := 0x20000, mask := 0 }] }
     issuesNow s (.brl 0 0 1) = true ∧ (me s).squad.splits.length = 4 ∧ (me s).squad.bench.length < 8 ∧
      ∀ p' ∈ (me s).squad.splits, p'.id ≠ (me s).split.id → p'.pos ≠ branchTarget (me s).split 1 ∨ p'.begun = true) := by
  decide +kernel

theorem hyps_TransfersAndExit : ([0x20000#64, 0x20002#64, 0x1000000020000#64].all fun v =>
      let s := squadIs (base 0 0) fun q => q.setSreg 5 v
      issuesNow s (.ret 5) && issuesNow s (.jmpi 5) && (me s).squad.sreg 5 == v) = true ∧
    (let s := squadIs (base 0 0) fun q => { q.setPred 0 0xFFFFFFFF 1 with mode := 0x000800A0 }
     issuesNow s .exit = true ∧ (me s).split.mask &&& ~~~(me s).lanes ≠ 0) ∧
    (let s := squadIs (base 0 0) fun q => { q with splits := q.splits ++ [{ id := 1, pos := 0x20000, mask := 0 }] }
     issuesNow s .exit = true ∧ (me s).split.mask &&& ~~~(me s).lanes = 0 ∧ (me s).squad.bench = [] ∧
      (me s).squad.splits.any (fun p => p.id != (me s).split.id) = true) := by decide +kernel

theorem hyps_WaitsAndServiceCalls : issuesNow (base 0 0) .yield = true ∧ issuesNow (base 0 0) (.nop 0x7FFFFF) = true ∧
    issuesNow (base 0 0) (.waitf 0xFFF) = true ∧ issuesNow (base 0 0) (.waitc 4 27) = true ∧ issuesNow (base 0 0) (.svc 27 27 511) = true ∧
    (me (base 0 0)).squad.services < 4 ∧
    (let o : Op := { id := 9, instr := .svc 1 1 1, pos := 0, kind := .svc 1 0 0 none, flag := none, path := none, loadClass := false }
     let s := squadIs (base 0 0) fun q => { q with ops := [o, { o with id := 10 }, { o with id := 11 }, { o with id := 12 }] }
     issuesNow s (.svc 27 27 511) = true ∧ 4 ≤ (me s).squad.services) := by decide +kernel

theorem hyps_TrapsTaken : (let s := squadIs (base 0 0) fun q => { q with tvec := 0x30000 }
     issuesNow s (.trap 0xFFFF) = true ∧ issuesNow s (.brk 0) = true ∧ issuesNow s (.unassignedOpcode 0x80000000) = true ∧
      (me s).squad.active = false ∧ headerOf (me s).squad.tvec ≠ 0) ∧
    issuesNow (base 0 0) (.trap 0xFFFF) = true ∧ headerOf (me (base 0 0)).squad.tvec = 0 ∧
    (let s := squadIs (base 0 0) fun q => { q with tvec := 0x30000, active := true }
     issuesNow s (.brk 0) = true ∧ (me s).squad.active = true) := by decide +kernel

theorem hyps_TrapReturn : issuesNow (base 0 0) .tret = true ∧ (me (base 0 0)).squad.active = false ∧
    (let s := squadIs (base 0 0) fun q => { q with active := true, tmask := 0x0000000300000002 }
     issuesNow s .tret = true ∧ (me s).squad.active = true ∧ (me s).squad.pending = [] ∧
      (BitVec.extractLsb' 0 32 (me s).squad.tmask &&& BitVec.extractLsb' 32 32 (me s).squad.tmask &&& (me s).split.mask : Mask) ≠ 0) := by
  decide +kernel

theorem hyps_TrapsTaken_resume : (let e : Escalation := ⟨0, .brk, 0, 0x10000⟩
     let s := squadIs (base 0 0) fun q => { q with escalation := some e }
     (s.squads.get? 4).map (fun q => q.escalation) = some (some e) ∧
      ((base 0 0).squads.get? 4).map (fun q => q.escalation) = some none ∧ Tbl.sorted (base 0 0).squads = true ∧ (base 0 0).saved = [] ∧
      (match s.squads.get? 4, s.teams.get? 3 with
       | some q, some t =>
         let s := { s with squads := [], saved := [(3, { team := t, squads := [(4, q)] })] }
         (s.squads.get? 4).isNone && Tbl.sorted s.saved && (s.saved.get? 3).any fun x => (x.squads.map fun y => y.1) == [4]
       | _, _ => false) = true) := by decide +kernel

theorem hyps_ModeWords : (let s := base 0 0
     issuesNow s (.setm 0x000800A7) = true ∧ issuesNow s (.setm 0xFFFFFFFF) = true ∧ issuesNow s (.setd 6) = true ∧
      (Instr.setm 0x000800A7, 0x000800A7#32) ∈ modeWords (me s).squad.mode 0x000800A7 0 0 0 0 0 0 0 0 ∧
      (Instr.setm 0xFFFFFFFF, 0xFFFFFFFF#32) ∈ modeWords (me s).squad.mode 0xFFFFFFFF 0 0 0 0 0 0 0 0 ∧
      issuesNow s (.setx 1 (.reg 27)) = true ∧ (me s).squad.plainB (.reg 27) = some 0) := by decide +kernel

theorem hyps_SpecialRegisters : (let s := base 0 0
     issuesNow s (.srd 27 0x100) = true ∧ (0x100#12, 0x0100#64) ∈ plainSpecials s (me s).squad ∧ issuesNow s (.srd 27 0x040) = true ∧
      issuesNow s (.srd 27 0x041) = true ∧ issuesNow s (.swr 27 0x014) = true ∧
      ((writtenSpecials (me s).squad ((me s).squad.sreg 27)).map (·.1)).contains 0x014 = true ∧ issuesNow s (.swr 27 0x000) = true ∧
      (let s := squadIs s fun q => q.setSreg 27 0x000800A7
       modeLegal (BitVec.setWidth 32 ((me s).squad.sreg 27)) = true) ∧
      issuesNow s (.swr 27 0x0DC) = true ∧ s.issuer.isSome = true ∧ specialWritable 0x030 = false ∧
      issuesNow s (.bid 4 27 (.lit 5)) = true ∧ (me s).squad.plainB (.lit 5) = some 5) := by decide +kernel

/-! ## Statements about vector and predicate words: states that meet their hypotheses -/

/-- The loaded program with a signalling NaN of float32 in lane 0 of v1, and FPX as given. -/
def nanIn (fpx : Bool) : State :=
  squadIs (base 0 0) fun q => { q with
    vregs := put q.vregs 1 (some ⟨1, lanesOf fun k => if k = 0 then 0x7F800001#32 else 0⟩)
    mode := if fpx then 0x001800A7#32 else 0x000800A7#32 }

/-- v1 and v2 as slots A and B. -/
def v1 : VSrc := .vec 1 false .ident
def v2 : VSrc := .vec 2 true .ident

theorem hyps_ElementResults : ∃ e, e ∈ elementWords (me (nanIn false)).squad 5 v1 v2 ++ elementImmediates (me (nanIn false)).squad 5 v1 0 ∧
    Issues (nanIn false) e.instr (me (nanIn false)) ∧ e.legal (me (nanIn false)).squad.et = true ∧ e.a.odd = false ∧ e.b.odd = false ∧
    isWide (me (nanIn false)).squad.et = false ∧
    NamesReady (nanIn false) (me (nanIn false)).squad (e.a.names ++ e.b.names) (destNames 5 (isWide (me (nanIn false)).squad.et)) ∧
    (me (nanIn false)).squad.fpx = false := by
  refine ⟨_, List.mem_append_left _ (by unfold elementWords; exact List.mem_cons_self), issues_of ?_, ?_, ?_, ?_, ?_, names_of ?_, ?_⟩ <;>
    decide +kernel

theorem hyps_LaneTraps_fpe : ∃ e, e ∈ elementWords (me (nanIn true)).squad 5 v1 v2 ++ elementImmediates (me (nanIn true)).squad 5 v1 0 ∧
    Issues (nanIn true) e.instr (me (nanIn true)) ∧ e.legal (me (nanIn true)).squad.et = true ∧ e.a.odd = false ∧ e.b.odd = false ∧
    isWide (me (nanIn true)).squad.et = false ∧
    NamesReady (nanIn true) (me (nanIn true)).squad (e.a.names ++ e.b.names) (destNames 5 (isWide (me (nanIn true)).squad.et)) ∧
    (me (nanIn true)).squad.fpx = true ∧ has (laneFlags (me (nanIn true)).lanes (e.lane (me (nanIn true)).squad 5)) 0 = true := by
  refine ⟨_, List.mem_append_left _ (by unfold elementWords; exact List.mem_cons_self), issues_of ?_, ?_, ?_, ?_, ?_, names_of ?_, ?_, ?_⟩ <;>
    decide +kernel

theorem hyps_LaneResults : ∃ c, c ∈ laneCases (me (base 0 0)) 5 v1 v2 2 0 0 0 ∧ Issues (base 0 0) c.instr (me (base 0 0)) ∧ c.legal = true ∧
    NamesReady (base 0 0) (me (base 0 0)).squad c.names (destNames 5 c.wide) ∧ (me (base 0 0)).squad.fpx = false := by
  refine ⟨_, (by unfold laneCases; exact List.mem_cons_self), issues_of ?_, ?_, names_of ?_, ?_⟩ <;> decide +kernel

theorem hyps_LanesWritten : (5 : Nat) < 32 ∧ ((true : Bool) = true → 30 + 1 < 32) ∧ ∀ r ∈ [30, 31, 7], r < 32 := by decide

theorem hyps_ElementArithmetic : isInt 7 = true ∧ isInt 0 = true ∧ floatFmt 10 = some fmtF32 ∧ isArithFloat 10 = true ∧
    (fmtF32.read 0x7F800001).isNan = true ∧ (fmtF32.read 0x7F800001).snan = true ∧ (fmtF32.read 0x7FC00000).isNan = true ∧
    (fmtF32.read 0x7FC00000).snan = false := by decide +kernel

theorem hyps_CompareResults : (Instr.vceq 3 0 v1 v2, Rel.eq, (me (base 0 0)).squad.operand true v2) ∈
      compareWords (me (base 0 0)).squad 3 0 v1 v2 0 ∧
    Issues (base 0 0) (.vceq 3 0 v1 v2) (me (base 0 0)) ∧ legalArith (me (base 0 0)).squad.et = true ∧
    ((me (base 0 0)).squad.operand false v1).odd = false ∧ ((me (base 0 0)).squad.operand true v2).odd = false ∧
    NamesReady (base 0 0) (me (base 0 0)).squad (((me (base 0 0)).squad.operand false v1).names ++
      ((me (base 0 0)).squad.operand true v2).names) [] ∧ (me (base 0 0)).squad.fpx = false := by
  refine ⟨by unfold compareWords; exact List.mem_cons_self, issues_of ?_, ?_, ?_, ?_, names_of ?_, ?_⟩ <;> decide +kernel

theorem hyps_PredicateResults : (∃ f, (Instr.pand 0 7 7, f) ∈ predicateWords (me (base 0 0)) 0 7 7 3) ∧
    Issues (base 0 0) (.pand 0 7 7) (me (base 0 0)) ∧
    (me (base 0 0)).squad.plainB (.lit 0xFFFFFFFF) = some 0xFFFFFFFFFFFFFFFF ∧ Issues (base 0 0) (.pset 6 (.lit 0xFFFFFFFF)) (me (base 0 0)) ∧
    Issues (base 0 0) (.pmov 27 7) (me (base 0 0)) ∧ Issues (base 0 0) (.rnext 0 6 v1 v2) (me (base 0 0)) ∧
    NamesReady (base 0 0) (me (base 0 0)).squad (v1.names false ++ v2.names false) [] := by
  refine ⟨⟨_, by unfold predicateWords; exact List.mem_cons_self⟩, issues_of ?_, ?_, issues_of ?_, issues_of ?_, issues_of ?_, names_of ?_⟩ <;>
    decide +kernel

/-- The name in A, from s1 = `x`. -/
def moved (x : DWord) : State := squadIs (base 0 0) fun q => q.setSreg 1 x

theorem hyps_IndexedMoves_read : Issues (moved 26) (.vmovx 4 v1 1) (me (moved 26)) ∧
    (let x : Int := 1 + ((me (moved 26)).squad.sreg 1).toInt
     0 ≤ x ∧ x < ((moved 26).regCount (me (moved 26)).squad : Int)) ∧ isWide (me (moved 26)).squad.et = false ∧
    NamesReady (moved 26) (me (moved 26)).squad ((me (moved 26)).squad.operand false (.vec 27 false .ident)).names (destNames 4 false) := by
  refine ⟨issues_of ?_, ?_, ?_, names_of ?_⟩ <;> decide +kernel

theorem hyps_IndexedMoves_write : Issues (moved 26) (.vmovxw 4 1 v2) (me (moved 26)) ∧
    (let z : Int := 4 + ((me (moved 26)).squad.sreg 1).toInt
     0 ≤ z ∧ z < ((moved 26).regCount (me (moved 26)).squad : Int)) ∧ ((me (moved 26)).squad.operand true v2).odd = false ∧
    NamesReady (moved 26) (me (moved 26)).squad ((me (moved 26)).squad.operand true v2).names (destNames 30 false) := by
  refine ⟨issues_of ?_, ?_, ?_, names_of ?_⟩ <;> decide +kernel

theorem hyps_IndexedMoves_outside : ([31#64, 0xFFFFFFFFFFFFFFFE#64].all fun v =>
      issuesNow (moved v) (.vmovx 4 v1 1) && (decide ((1 : Int) + ((me (moved v)).squad.sreg 1).toInt < 0) ||
        decide (((moved v).regCount (me (moved v)).squad : Int) ≤ 1 + ((me (moved v)).squad.sreg 1).toInt))) = true ∧
    (4 : Nat) < (moved 31).regCount (me (moved 31)).squad := by decide +kernel

theorem hyps_IndexedMoves_free : issuesNow (base 0 0) (.vfree (.lit 0x80000002)) = true ∧
    (me (base 0 0)).squad.plainB (.lit 0x80000002) = some 0xFFFFFFFF80000002 ∧
    (∀ n, n < 32 → has 0xFFFFFFFF80000002#64 n = true → n < (base 0 0).regCount (me (base 0 0)).squad) ∧
    (me (base 0 0)).squad.awaited &&& (0xFFFFFFFF80000002#64).setWidth 32 = 0 := by decide +kernel

/-! ## Statements about memory words: states that meet their hypotheses -/

/-- The loaded program on a page that may be written, s1 at an address, with scratchpad and more than one team. -/
def memoryState (va : DWord) : State :=
  let s := squadIs (base 0 0) fun q => q.setSreg 1 va
  let s := s.setCore 0 { s.core 0 with tlb := [{ programPage with w := true, dirty := true, claimable := true }] }
  { s with launches := s.launches.set 1 { programLaunch with scratch := 0x1000, teams := 2, squads := 2, stack := 0x8000, wdist := true, tiles := 3, iters := 5 } }

/-- Whether the lanes of a word translate. -/
def placedNow (s : State) (kind : AccessKind) (lanes : List LaneAccess) : Bool :=
  match s.translateLanes (me s) kind lanes with
  | .placed _ => true
  | _ => false

theorem placed_of {s : State} {kind : AccessKind} {lanes : List LaneAccess} (h : placedNow s kind lanes = true) :
    ∃ ls, s.translateLanes (me s) kind lanes = .placed ls := by
  unfold placedNow at h
  cases hx : s.translateLanes (me s) kind lanes with
  | placed ls => exact ⟨ls, rfl⟩
  | walk a => rw [hx] at h; cases h
  | fault a b => rw [hx] at h; cases h
  | access a => rw [hx] at h; cases h

/-- Whether the path of a word has room. -/
def roomNow (q : Squad) (p : Option Nat) : Bool :=
  match p with
  | some n => decide (q.path n < 63)
  | none => true

theorem room_of {q : Squad} {p : Option Nat} (h : roomNow q p = true) : PathRoom q p := by
  intro n hn
  subst hn
  exact of_decide_eq_true h

/-- Whether an access word of a list meets every condition of R187 for its addresses. -/
def accessNow (s : State) (x : AccessWord) : Bool :=
  issuesNow s x.instr && namesNow s (me s).squad x.word.names x.word.dests && roomNow (me s).squad x.word.op.path &&
    placedNow s x.word.op.kind.access x.word.op.lanes &&
    x.word.op.lanes.all fun l => decide (l.va.toNat < 2 ^ 48) && decide (l.va.toNat % x.size = 0)

theorem hyps_GlobalAccesses : (globalWords (me (memoryState 0x10100)) 4 1 7 (.lit 0)).all (accessNow (memoryState 0x10100)) = true ∧
    ((blockWords (me (memoryState 0x1FF80)) 4 1 7 (.lit 0)).all fun x =>
      issuesNow (memoryState 0x1FF80) x.instr && namesNow (memoryState 0x1FF80) (me (memoryState 0x1FF80)).squad x.word.names x.word.dests &&
        placedNow (memoryState 0x1FF80) x.word.op.kind.access x.word.op.lanes) = true ∧
    ((me (memoryState 0x1FF80)).squad.addresses 1 (.lit 0) 0).toNat % 128 = 0 ∧
    (memoryState 0x10100).logFull (me (memoryState 0x10100)).squad.core ((me (memoryState 0x10100)).squad.scope 7) = false := by
  decide +kernel

theorem hyps_LaneTraps_addresses : (globalWords (me (memoryState 0x1000000010100)) 4 1 7 (.lit 0)).all (fun x =>
      issuesNow (memoryState 0x1000000010100) x.instr &&
        namesNow (memoryState 0x1000000010100) (me (memoryState 0x1000000010100)).squad (x.word.names ++ x.word.dests) [] &&
        (x.word.op.lanes.head?.any fun l => decide (2 ^ 48 ≤ l.va.toNat))) = true ∧
    ((globalWords (me (memoryState 0x10101)) 4 1 7 (.lit 0)).all fun x =>
      x.word.op.lanes.head?.any fun l => decide (l.va.toNat < 2 ^ 48) && (x.size == 1 || decide (l.va.toNat % x.size ≠ 0))) = true := by
  decide +kernel

/-- Whether a scratchpad word issues with its names and room. -/
def scratchNow (s : State) (x : AccessWord) : Bool :=
  issuesNow s x.instr && roomNow (me s).squad x.word.op.path && namesNow s (me s).squad x.word.names x.word.dests

theorem hyps_ScratchpadAccesses : (let s := memoryState 0xF80
     s.scratchSize (me s).squad = 0x1000 ∧
     (scratchWords (me s) 4 1 7 (.lit 0x78)).all (fun x => scratchNow s x && x.word.op.lanes.all fun l =>
        decide (l.va.toNat % x.size = 0) && decide (l.va.toNat + x.size ≤ 0x1000)) = true ∧
     (scratchBlocks s (me s) 4 1 7 (.lit 0)).all (scratchNow s) = true ∧ ((me s).squad.addresses 1 (.lit 0) 0).toNat + 128 ≤ 0x1000 ∧
     (windowWords (me s) 4 1 7 (.lit 0x10007C)).all (fun x => scratchNow s x && x.word.op.lanes.all fun l =>
        decide (bits l.va 22 20 < s.teamCount (me s).squad) && decide (bits l.va 19 0 + 4 ≤ 0x1000)) = true ∧
     (scratchWords (me s) 4 1 7 (.lit 0x7A)).all (fun x => namesNow s (me s).squad (x.word.names ++ x.word.dests) [] &&
        x.word.op.lanes.head?.any fun l => decide (x.size ≤ 2) || decide (l.va.toNat % x.size ≠ 0)) = true ∧
     (scratchWords (me s) 4 1 7 (.lit 0x80)).all (fun x => x.word.op.lanes.head?.any fun l =>
        decide (l.va.toNat % x.size = 0) && decide (0x1000 < l.va.toNat + x.size)) = true) := by decide +kernel

theorem hyps_OutstandingOperations : (let x := loadOp (.vldW 31 1 7 (.lit 0)) 4 4 0 31 (.lit 0) []
     x.op.finished = false ∧ x.pops = [] ∧ (∀ n ∈ x.dests, n < 32) ∧
      ∃ n ∈ ({ x with rels := [30] } : MemWord).rels, n < 32 ∧ n ∉ x.dests) := by decide +kernel

theorem hyps_CacheAndPageWords : (let s := memoryState 0x10000
     namesNow s (me s).squad (v2.names false) [] = true ∧ issuesNow s (.pld 1 7 v2) = true ∧ issuesNow s (.pldc 4 1 7 v2) = true ∧
      issuesNow s (.claim 4 1 7 (.lit 0x1000)) = true ∧ issuesNow s (.cwb 1 7 (.lit 0x80)) = true ∧ (me s).squad.path 1 < 63 ∧
      issuesNow s (.cinv 1 7 (.lit 0x80)) = true ∧ issuesNow s (.xq 4 1 7 (.lit 0)) = true) := by decide +kernel

/-- The same state with logical core 0 of context 0 of interface 0 in the place table. -/
def placedCore : State :=
  let s := memoryState 0x10000
  { s with regs := (s.regs.set (contextBase 0 + 8) 0x8000000000000100#64).set (contextBase 0) 0x1000000#64 }

theorem hyps_SpecialRegisters_machine : (let s := placedCore
     let q := (me s).squad
     (machineSpecials s q).all (fun e => issuesNow s (.srd 27 (BitVec.ofNat 12 e.1))) = true ∧
      issuesNow s (.srd 27 0x042) = true ∧ s.physCore? (s.contextOf q) 0 = some q.core ∧
      issuesNow s (.srd 27 0x043) = true ∧ s.physDie? (s.contextOf q) 0 = some (dieOf q.core) ∧
      issuesNow s (.srd 27 0x0E0) = true ∧ dieOf q.core ∉ s.market.late ∧ specialReadable 0x004 = false ∧
      issuesNow s (.swr 27 0x000) = true ∧
      let t := squadIs s fun q => q.setSreg 27 0x000000F0
      issuesNow t (.swr 27 0x000) = true ∧ modeLegal (BitVec.setWidth 32 ((me t).squad.sreg 27)) = false) := by decide +kernel

/-- A state whose core has a full release log, one release short or not. -/
def logOf (n : Nat) : State := (memoryState 0).setCore 0 { (memoryState 0).core 0 with log := List.replicate n ⟨1, 2, []⟩ }

theorem hyps_FencesAndPromotion : (let s := memoryState 0x10000
     issuesNow s (.fence 1 7) = true ∧ has (1#2) 1 = false ∧ issuesNow s (.fence 3 4) = true ∧ has (3#2) 1 = true ∧
      issuesNow s .fencet = true ∧ s.logFull 0 4 = false) ∧
    (logOf 64).logFull 0 2 = true ∧ issuesNow (logOf 64) (.fence 2 2) = true ∧
    ((memoryState 0x10000).performAll 4).unperformed 4 none = false ∧
    (let s := placedCore
     issuesNow s (.acqp 4 1 4 (.lit 0)) = true ∧ (me s).squad.plainB (.lit 0) = some 0 ∧ (me s).squad.scope 4 = 4 ∧
      ((me s).squad.sreg 1).toNat % 4 = 0 ∧ s.physCore? (s.contextOf (me s).squad) 0 = some 0 ∧ (me s).squad.path 0 < 63 ∧
      placedNow s .read [{ lane := 0, va := (me s).squad.sreg 1, place := untranslated }] = true) := by decide +kernel

theorem hyps_AtomicWords : (let s := memoryState 0x10000
     (∀ i ∈ [Instr.atom 4 1 7 2 0, .ared 4 1 7 2 0, .atom 4 1 0 2 0, .acas 4 1 7 2 1], issuesNow s i = true) ∧
      atomicWidth 0 0 = none ∧ roomNow (me s).squad (some 0) = true ∧ roomNow (me s).squad (some 1) = true ∧
      roomNow (me s).squad (some 3) = true ∧
      namesNow s (me s).squad (groupNames 4 1 ++ groupNames 2 1) (groupNames 4 1) = true ∧
      placedNow s .atomic (accessLanes (me s).lanes (fun k => (me s).squad.sreg 1 + (lane ((me s).squad.vreg 2) k).signExtend 64)
        (fun _ => untranslated) fun k => (me s).squad.laneBytes 4 4 k) = true) ∧
    (let s := memoryState 0x100FFC
     ((accessLanes (me s).lanes (fun k => (me s).squad.sreg 1 + (lane ((me s).squad.vreg 2) k).signExtend 64)
        (fun _ => untranslated) fun k => (me s).squad.laneBytes 4 4 k).all fun l =>
      decide (bits l.va 22 20 < s.teamCount (me s).squad) && decide (bits l.va 19 0 % 4 = 0) &&
        decide (bits l.va 19 0 + 4 ≤ s.scratchSize (me s).squad)) = true) := by decide +kernel

theorem hyps_DepositWords : (let s := memoryState 3
     issuesNow s (.rdep 31 v1 (.lit 0x101)) = true ∧ (me s).squad.plainB (.lit 0x101) = some 0x101 ∧
      0x101#64 &&& 0xFFFFFFFFFFFFE0F8#64 = 0 ∧ bits 0x101#64 2 0 < s.teamCount (me s).squad ∧
      bits 0x101#64 12 8 < ((s.launchOf (me s).squad).map (·.squads)).getD 0 ∧ 31 < s.regCount (me s).squad ∧
      namesNow s (me s).squad (v1.names false) [] = true ∧ (me s).squad.path 3 < 63 ∧
      issuesNow s (.rdep 31 v1 (.lit 0x200)) = true ∧ ¬ bits 0x200#64 12 8 < ((s.launchOf (me s).squad).map (·.squads)).getD 0 ∧
      issuesNow s (.waita 1) = true ∧ (me s).squad.arrv.toNat < ((me s).squad.sreg 1).toNat ∧
      issuesNow s (.waita 27) = true ∧ ¬ (me s).squad.arrv.toNat < ((me s).squad.sreg 27).toNat) := by decide +kernel

/-- A valid descriptor: format, space, rows, columns and stride, cursor at 0. -/
def tensorOf (space rows cols stride : Nat) (f : Nat) : Descriptor :=
  BitVec.ofNat 256 (f * 2 ^ 44 + space * 2 ^ 49 + 2 ^ 51 + stride * 2 ^ 56 + rows * 2 ^ 88 + cols * 2 ^ 108)

/-- The team of the loaded program, changed. -/
def teamIs (s : State) (f : Team → Team) : State :=
  match s.teams.get? 3 with
  | some t => s.setTeam 3 (f t)
  | none => s

/-- The memory state with tensor entries of its team. -/
def tensorState (va : DWord) (l : List (Nat × Descriptor)) : State :=
  teamIs (memoryState va) fun t => { t with tensors := l.foldl (fun (a : Vector Descriptor 32) e => put a e.1 e.2) t.tensors }

theorem hyps_TensorEntries : (let s := tensorState 0x10020 [(31, tensorOf 0 64 64 256 0)]
     (me s).squad.tensorBusy 31 = false ∧ ((me s).squad.addresses 1 (.lit 0) 0).toNat % 32 = 0 ∧ issuesNow s (.tidset 31 1 7 (.lit 0)) = true ∧
      issuesNow s (.tidget 31 1 7 (.lit 0)) = true ∧ (me s).squad.path 0 < 63 ∧ (me s).squad.path 1 < 63 ∧
      placedNow s .write [{ lane := 0, va := 0x10020, place := untranslated, data := [] }] = true ∧
      issuesNow s (.tidcur 31 27 (.lit 0xFFFFF)) = true ∧ (me s).squad.plainB (.lit 0xFFFFF) = some 0xFFFFF ∧
      (s.tensor (me s).squad 31).valid = true ∧ (s.teamOf (me s).squad).isSome = true ∧ issuesNow s (.tidinv 31) = true ∧
      (me s).squad.plainB (.lit 0x100000) = some 0x100000 ∧ issuesNow s (.tidcur 31 27 (.lit 0x100000)) = true ∧
      (s.tensor (me s).squad 0).valid = false ∧ issuesNow s (.tidcur 0 27 (.lit 0)) = true) := by decide +kernel

theorem hyps_WorkDistribution : (let s := memoryState 0
     ((s.launchOf (me s).squad).map fun l => (l.wdist, l.tiles, l.iters, l.gangCount, l.teams)) = some (true, 3, 5, 1, 2) ∧
      (s.gangOf (me s).squad).isSome = true ∧ ((s.teamOf (me s).squad).map (·.work)) = some none ∧ issuesNow s (.wget 27) = true ∧
      (let s' := teamIs s fun t => { t with work := some 7 }
       issuesNow s' (.wget 27) = true ∧ ((s'.teamOf (me s').squad).map (·.work)) = some (some 7)) ∧
      issuesNow (base 0 0) (.wget 27) = true ∧ (((base 0 0).launchOf (me (base 0 0)).squad).map (·.wdist)) = some false) := by decide +kernel

/-! ## Statements about matrix, pass-queue and barrier words: states that meet their hypotheses -/

/-- Two tensors for a product, BF16: entry 1 in the scratchpad, entry 2 in the operand stack; `n` tokens captured. -/
def product (n : Nat) : State :=
  (tensorState 0 [(1, tensorOf 1 64 64 256 2), (2, tensorOf 2 64 64 4 2)]).onSplit 4 0 fun p => { p with tokens := [(0, n)] }

/-- The team and the fresh tiles of a product. -/
def productTeam (s : State) : Team := (s.teamOf (me s).squad).getD { gang := 2, index := 0, core := 0, squads := [] }

theorem hyps_MatrixWords : (Instr.mmaz 0 1 0 1 0 2, true, false) ∈ matrixWords 0 1 0 0 1 2 ∧
    Issues (product 1024) (.mmaz 0 1 0 1 0 2) (me (product 1024)) ∧ (me (product 1024)).squad.ops = [] ∧
    ∃ t slots, MatrixReady (product 1024) (me (product 1024)) true false false 0 1 2 t slots := by
  refine ⟨by unfold matrixWords; exact List.mem_cons_of_mem _ List.mem_cons_self, issues_of (by decide +kernel), by decide +kernel,
    productTeam (product 1024), [0], ⟨?_, ?_, ?_, ?_, ?_, ?_, ?_, ?_, ?_, ?_, ?_, ?_, ?_, ?_, ?_⟩⟩
  · decide +kernel
  · decide +kernel
  · intro h; cases h
  · decide +kernel
  · rfl
  · decide +kernel
  · decide +kernel
  · decide +kernel
  · decide +kernel
  · decide +kernel
  · intro h; cases h
  · decide +kernel
  · decide +kernel
  · unfold State.canPerform; decide +kernel
  · rfl

theorem hyps_MatrixWords_wide : Issues (product 2048) (.mmaw 1 0 0 0 1 2) (me (product 2048)) ∧
    ∃ t slots, MatrixReady (product 2048) (me (product 2048)) false true true 0 0 2 t slots := by
  refine ⟨issues_of (by decide +kernel), productTeam (product 2048), [0, 4, 1, 5], ⟨?_, ?_, ?_, ?_, ?_, ?_, ?_, ?_, ?_, ?_, ?_, ?_, ?_, ?_, ?_⟩⟩
  · decide +kernel
  · decide +kernel
  · intro _; decide +kernel
  · decide +kernel
  · rfl
  · intro h; cases h
  · decide +kernel
  · decide +kernel
  · intro h; cases h
  · decide +kernel
  · intro _ p hp x hx
    have h : ∀ p ∈ matrixParts true 0, at' (me (product 2048)).squad.accs p.1 none = none := by decide +kernel
    rw [h p hp] at hx; cases hx
  · decide +kernel
  · decide +kernel
  · unfold State.canPerform; decide +kernel
  · rfl

/-- A state with accumulator name 1 bound to a tile, and a tensor of float32 in the scratchpad. -/
def tileState : State :=
  let s := tensorState 0 [(1, tensorOf 1 32 32 128 0)]
  let s := s.setCore 0 { s.core 0 with tiles := [(0, { squad := 4, context := logContext 0, words := [] })] }
  squadIs s fun q => { q with accs := put q.accs 1 (some 0) }

theorem hyps_AccumulatorWords : (let s := tileState
     let q := (me s).squad
     s.ownerGate q = none ∧ 7 < s.accCount q ∧ q.plainB (.lit 15) = some 15 ∧ issuesNow s (.accz 7 (.lit 15)) = true ∧
      (s.freshSlots (me s).key q [15]).toOption = some [60] ∧ issuesNow s (.accrd 31 1 (.lit 15)) = true ∧ namesNow s q [] [31] = true ∧
      at' q.accs 1 none = some 0 ∧ issuesNow s (.accwr 1 27 v2) = true ∧ namesNow s q (v2.names false) [] = true ∧
      issuesNow s (.accld 7 1 (.lit 15)) = true ∧ q.tensorBusy 1 = false ∧ (s.tensor q 1).valid = true ∧ (s.tensor q 1).space = 1 ∧
      (s.tensor q 1).rows = 32 ∧ (s.tensor q 1).cols = 32 ∧ (s.tensor q 1).stride % 4 = 0 ∧ (s.tensor q 1).fmt = .f32 ∧ q.path 2 < 63 ∧
      issuesNow s (.accst 1 1) = true ∧
      ((at' q.accs 1 none).bind fun x => (s.tile q.core x).map fun (z : Tile) => z.isInt) = some false ∧
      issuesNow s (.accfree (.lit 0xFF)) = true ∧ q.ops = [] ∧ issuesNow s (.accstat 27 1) = true) := by decide +kernel

/-- The memory state with pass queue 7 of its team, and s1 as given. -/
def queueState (va : DWord) (x : PassQueue) : State := teamIs (memoryState va) fun t => { t with queues := put t.queues 7 x }

theorem hyps_PassQueueWords : (let s := queueState 1 { head := 63, tail := 0, count := 1, allow := [(0, 1)] }
     let q := (me s).squad
     ((s.teamOf q).map fun t => (at' t.queues 7 {}).count) = some 1 ∧ q.plainB (.lit 62) = some 62 ∧ 2048 ≤ s.scratchSize q ∧
      issuesNow s (.pqpush 7 1) = true ∧ ((s.teamOf q).map fun t => decide (0 < (at' t.queues 7 {}).allowance q.sq)) = some true ∧
      s.logFull q.core 1 = false ∧ issuesNow s (.pqpop 27 7) = true ∧ issuesNow s (.pqtry 27 7) = true ∧
      issuesNow s (.pqgive 7 1 (.lit 62)) = true ∧ (q.sreg 1).toNat < ((s.launchOf q).map (·.squads)).getD 1 ∧
      62 + 1 + ([(0, 1)].map (·.2)).sum ≤ 64 ∧ ¬ 63 + 1 + ([(0, 1)].map (·.2)).sum ≤ 64 ∧
      (∀ i ∈ [Instr.pqpush 7 1, .pqpop 27 7, .pqtry 27 7, .pqgive 7 1 (.lit 62)], issuesNow (base 0 0) i = true) ∧
      ¬ 2048 ≤ (base 0 0).scratchSize (me (base 0 0)).squad ∧ ((base 0 0).teamOf (me (base 0 0)).squad).isSome = true) := by decide +kernel

/-- The memory state with team barrier 15, and s1 as given. -/
def barrierState (va : DWord) (x : Barrier) : State := teamIs (memoryState va) fun t => { t with barriers := put t.barriers 15 x }

theorem hyps_Barriers : (let s := barrierState 1 { roster := [0, 1] }
     let q := (me s).squad
     (s.nameRouter q 1 15).toOption = some s ∧ s.memberOf q = 0 ∧ 0 ∈ (s.barrier q 1 15).roster ∧ 0 ∉ (s.barrier q 1 15).arrived ∧
      s.logFull q.core 1 = false ∧ issuesNow s (.bara 27 1 15) = true ∧ issuesNow s (.barx 27 1 15) = true ∧ (me s).split.arrived = none ∧
      issuesNow s (.barw 27 1 15) = true ∧ issuesNow s (.barj 1 15) = true ∧ issuesNow s (.barl 1 15) = true ∧
      issuesNow s (.bari 1 1 15) = true ∧ (s.barrier q 1 15).arrived = [] ∧ s.awaitedBarrier q 1 15 = false ∧
      (q.sreg 1).toNat < 2 ^ (((s.launchOf q).map (·.squads)).getD 1)) := by decide +kernel

theorem hyps_Barriers_waits : (let s := (barrierState 1 { roster := [0, 1], arrived := [0] }).onSplit 4 0 fun p => { p with arrived := some false }
     issuesNow s (.barx 27 1 15) = true ∧ (me s).split.arrived = some false ∧ issuesNow s (.bara 27 1 15) = true ∧
      s.memberOf (me s).squad ∈ (s.barrier (me s).squad 1 15).roster ∧ s.memberOf (me s).squad ∈ (s.barrier (me s).squad 1 15).arrived ∧
      s.memberOf (me s).squad ∉ (s.barrier (me s).squad 1 14).roster ∧ issuesNow s (.bara 27 1 14) = true) := by decide +kernel

theorem hyps_Barriers_turn : (∀ k, k ∈ [0, 1] ↔ k ∈ [1] ∨ k = 0) ∧ (∃ k ∈ [0, 1], k ∉ ([] : List Nat) ∧ k ≠ 0) ∧
    ((barrierState 1 { roster := [0, 1], arrived := [1] }).teamOf (me (barrierState 1 { roster := [0, 1], arrived := [1] })).squad).isSome = true :=
  ⟨fun k => by simp [or_comm], by decide, by decide +kernel⟩

/-! ## Statements about outstanding operations: states that meet their hypotheses -/

/-- An operation of the loaded program's squad. -/
def opOf (kind : OpKind) (lanes : List LaneAccess) (scope : Nat := 4) (size : Nat := 4) : Op :=
  { id := 9, instr := .yield, pos := 0, kind, flag := none, path := some 0, loadClass := true, scope, size, lanes }

/-- The memory state with one outstanding operation. -/
def withOp (o : Op) : State := squadIs (memoryState 0x1000) fun q => { q with ops := [o] }

/-- Whether the operation of `withOp` is ready, as a check. -/
def readyNow (s : State) (k id : Nat) : Bool :=
  match s.op? k id with
  | none => false
  | some (q, o) => decide (q.ops.map fun x => x.id).Nodup &&
      ((q.ops.takeWhile fun x => x.id != id).all fun x => x.finished || !x.kind.forced) &&
      (q.earlierOnTiles id o.kind.tiles).isEmpty && s.sweeps.isEmpty && !s.heldOp o && o.lanes.all fun l => !l.finished

theorem ready_of {s : State} {k id : Nat} (h : readyNow s k id = true) : ∃ q o, s.op? k id = some (q, o) ∧ OpReady s k id q o := by
  unfold readyNow at h
  cases hx : s.op? k id with
  | none => rw [hx] at h; cases h
  | some e =>
    rw [hx] at h
    simp only [Bool.and_eq_true, decide_eq_true_eq, List.all_eq_true, Bool.or_eq_true, Bool.not_eq_true', List.isEmpty_iff] at h
    obtain ⟨⟨⟨⟨⟨h1, h2⟩, h3⟩, h4⟩, h6⟩, h5⟩ := h
    exact ⟨e.1, e.2, rfl, hx, h1, h2, h3, h4, h5, h6⟩

/-- A translated place in the page of the loaded program. -/
def placeAt (pa : Nat) (nc : Bool) : Place := .memory { pa, key := 0, nc, leaf := 0x40000, size := 0x10000 }

/-- One lane at a place. -/
def laneAt (i : Nat) (p : Place) (data : List Byte) : LaneAccess := { lane := i, va := 0x10000, place := p, data }

/-- The operation of a state and its squad, as they stand. -/
def seen (s : State) : Option (Squad × Op) := s.op? 4 9

theorem hyps_FencesAndPromotion_held : (let s := withOp (opOf .store [laneAt 0 (placeAt 0x10100 false) [1, 2, 3, 4]])
     let s := (List.range 16).foldl (fun s d => s.setReg (hbmCtl d) 0x10#64) s
     (s.performAll 4).unperformed 4 none = true ∧ issuesNow s (.fence 1 7) = true ∧ issuesNow s .fencet = true) := by decide +kernel

theorem hyps_LoadsReturn : ([opOf (.vload 31) [laneAt 0 (placeAt 0x10100 false) [], laneAt 31 (.scratch 4092) []],
      opOf (.sload 27) [laneAt 0 (placeAt 0x10100 true) []], opOf (.sload 27) [laneAt 0 (.pod 0xF00000000000) []],
      opOf (.query 27 5) [], opOf (.tidset 31) [laneAt 0 (placeAt 0x10120 false) []] 4 32,
      opOf (.accRead 31 none 31 0xFFFFFFFF) [], opOf (.accLoad 0 7 false) [laneAt 0 (.scratch 0) []]].all fun o =>
      readyNow (withOp o) 4 9 && (seen (withOp o)).any fun x => x.2.lanes.all fun l =>
        ((withOp o).sees x.1 o.scope o.size l).isSome || l.place == .pod 0xF00000000000) = true ∧
    (let s := (withOp (opOf (.accLoad 0 7 false) [laneAt 0 (.scratch 0) []])).setCore 0 { tiles := [(0, { squad := 4, context := 0, words := [] })] }
     readyNow s 4 9 = true ∧ (s.tile 0 0).map (·.retired) = some false) ∧
    ((withOp (opOf (.tidset 31) [])).teamOf (me (withOp (opOf (.tidset 31) []))).squad).isSome = true := by decide +kernel

theorem dirty_of {s : State} (h : (s.cores.all fun (c : Nat × Core) => c.2.dirty.isEmpty) = true) (c : Nat) : (s.core c).dirty = [] := by
  unfold State.core Tbl.getD
  cases hx : s.cores.get? c with
  | none => rfl
  | some x => exact List.isEmpty_iff.mp (List.all_eq_true.mp h _ (Tbl.mem_of_get? hx))

/-- A state whose core 0 holds the line of 0x10100 valid in its L1, or only another of its set. -/
def lined (s : State) (held : Bool) : State :=
  s.setCore 0 { s.core 0 with lines := [(if held then 0x10100 / 128 else 0x10100 / 128 + 512, { way := 0, context := some 0 })] }

theorem hyps_LoadsReturn_lines : ([true, false].all fun held =>
      let s := lined (withOp (opOf (.sload 27) [laneAt 0 (placeAt 0x10100 false) []] 1)) held
      readyNow s 4 9 && s.l1Core 0 0x10100 == 0 &&
        ((s.sees (me s).squad 1 4 (laneAt 0 (placeAt 0x10100 false) [])).isSome == held) &&
        (((s.core 0).lines.get? (0x10100 / 128)).isNone == !held) && (held || (s.core 0).freeWay (0x10100 / 128) == some 1) &&
        s.zpSet { pa := 0x10100, key := 0, nc := false, leaf := 0x40000, size := 0x10000 } == false &&
        (s.pinOf { pa := 0x10100, key := 0, nc := false, leaf := 0x40000, size := 0x10000 }).isNone) = true := by decide +kernel

theorem apart_of {lanes : List LaneAccess} {n : Nat} (h : ∀ l ∈ lanes, l.pa + n ≤ 0x40000)
    (h2 : ∀ l ∈ lanes, ∀ x, l.place = .memory x → x.leaf = 0x40000) : ApartFromLeaves lanes n := by
  intro l hl l' hl' x hx a b ha hb
  have h1 := h l hl
  have h3 := h2 l' hl' x hx
  simp only [inRange, Bool.and_eq_true, decide_eq_true_eq] at ha hb
  omega

theorem l1_of {s : State} {x : Xlate} {n slot : Nat} (l : LaneAccess) (hp : l.place = .memory x) (hk : x.key = slot) (ho : x.context = none)
    (h : (!x.nc && !s.zpSet x && (s.pinOf x).isNone && x.pa / 128 == (x.pa + n - 1) / 128 &&
      ((s.core (s.l1Core 0 x.pa)).lines.get? (x.pa / 128)).isSome && s.cores.all fun (c : Nat × Core) => c.2.dirty.isEmpty) = true) :
    InL1 s 0 n slot l x := by
  simp only [Bool.and_eq_true, Bool.not_eq_true', beq_iff_eq, Option.isNone_iff_eq_none] at h
  obtain ⟨⟨⟨⟨⟨h1, h2⟩, h3⟩, h4⟩, h5⟩, h6⟩ := h
  exact ⟨hp, hk, .inl ho, h1, h2, h3, h4, h5, fun c _ e he => by rw [dirty_of h6 c] at he; cases he⟩

/-- Two stores of one word, overlapping. -/
def twoLanes : List LaneAccess := [laneAt 0 (placeAt 0x10100 false) [1, 2, 3, 4], laneAt 1 (placeAt 0x10102 false) [5, 6, 7, 8]]

theorem hyps_StoresPerformed_home : readyNow (withOp (opOf .store twoLanes)) 4 9 = true ∧ OpKind.storesLanes .store ∧
    Memory.wf (withOp (opOf .store twoLanes)).mem = true ∧
    (∀ l ∈ twoLanes, ∃ x, AtHome (withOp (opOf .store twoLanes)) 4 4 0 l x) ∧ (∀ l ∈ twoLanes, l.data.length = 4) ∧
    ApartFromLeaves twoLanes 4 := by
  refine ⟨by decide +kernel, .inl rfl, by decide +kernel, ?_, by decide, apart_of (by decide) ?_⟩
  · have hd := dirty_of (s := withOp (opOf .store twoLanes)) (by decide +kernel)
    intro l hl
    simp only [twoLanes, List.mem_cons, List.not_mem_nil, or_false] at hl
    rcases hl with rfl | rfl
    · exact ⟨_, rfl, rfl, .inl rfl, .inl (by decide), by decide +kernel, by decide +kernel, fun c e he => by rw [hd c] at he; cases he⟩
    · exact ⟨_, rfl, rfl, .inl rfl, .inl (by decide), by decide +kernel, by decide +kernel, fun c e he => by rw [hd c] at he; cases he⟩
  · intro l hl x hx
    simp only [twoLanes, List.mem_cons, List.not_mem_nil, or_false] at hl
    rcases hl with rfl | rfl <;> (cases hx; rfl)

theorem hyps_StoresPerformed_others : ([opOf .store [laneAt 0 (placeAt 0x10104 false) [1, 2, 3, 4]] 1,
      opOf .store [laneAt 0 (.scratch 4092) [1, 2, 3, 4]] 1, opOf .store [laneAt 0 (.window 1 0) [1, 2, 3, 4]] 2,
      opOf (.accWrite 0 31 1 (lanesOf fun _ => 7)) [], opOf (.cache false 0x10000 0x10080) [] 3].all fun o => readyNow (withOp o) 4 9) = true ∧
    (let s := withOp (opOf .store [laneAt 0 (.window 1 0) [1, 2, 3, 4]] 2)
     (seen s).any (fun x => (s.windowTeam x.1 1).isNone && (s.windowTeam x.1 0).isSome) = true) ∧
    (withOp (opOf .store [])).l1Core 0 0x10104 = 0 ∧ ((withOp (opOf .store [])).teams.get? 3).map (fun t => Memory.wf t.scratch) = some true := by
  decide +kernel

/-- A store of one word at an address whose line is valid in the L1. -/
def linedStore : State := lined (withOp (opOf .store [laneAt 0 (placeAt 0x10104 false) [1, 2, 3, 4]] 1)) true

theorem hyps_StoresPerformed_line : readyNow linedStore 4 9 = true ∧
    ∃ x, InL1 linedStore 0 4 0 (laneAt 0 (placeAt 0x10104 false) [1, 2, 3, 4]) x :=
  ⟨by decide +kernel, { pa := 0x10104, key := 0, nc := false, leaf := 0x40000, size := 0x10000 }, l1_of _ rfl rfl rfl (by decide +kernel)⟩

theorem hyps_AtomicsExecute : ([opOf (.atomic 0 4 true 31) [laneAt 31 (placeAt 0x10100 false) [1, 0, 0, 0]],
      opOf (.atomic 0 4 false 31) [laneAt 0 (.window 0 0) [1, 0, 0, 0]] 2,
      opOf (.compareSwap 30) [laneAt 0 (placeAt 0x10100 false) [0, 0, 0, 0, 1, 0, 0, 0]] 1,
      opOf (.atomic 0 4 true 31) [laneAt 31 (placeAt (portMemory 0) true) [1, 0, 0, 0]]].all fun o =>
      readyNow (withOp o) 4 9 && o.kind.isAtomic && Memory.wf (withOp o).mem && decide (o.lanes.map fun l => l.lane).Nodup) = true ∧
    isHost (portMemory 0) = true ∧ isHost 0x10100 = false ∧
    ((seen (withOp (opOf (.atomic 0 4 false 31) [laneAt 0 (.window 0 0) [1, 0, 0, 0]] 2))).bind fun x =>
      (withOp x.2).laneTeam x.1 (laneAt 0 (.window 0 0) [])) = some (3, 0) := by decide +kernel

/-- The part of a matrix operation on tile 0, not yet computed. -/
def onePart : MmaPart := { sub := 0, tile := 0, rowBase := 0, colBase := 0, fresh := true }

/-- An addition to one word of host memory behind port 0, with the port's AtomicOp requests enabled or not. -/
def hostAtomic (on : Bool) : State :=
  let s := withOp (opOf (.atomic 0 4 true 31) [laneAt 31 (placeAt (portMemory 0) true) [1, 0, 0, 0]])
  if on then { s with regs := s.regs.set (deviceControl2 0) 0x40#64 } else s

theorem hyps_AtomicsExecute_places : (∀ on : Bool, readyNow (hostAtomic on) 4 9 = true ∧ (hostAtomic on).atomicsOn (portMemory 0) = on ∧
      (hostAtomic on).zpSet { pa := portMemory 0, key := 0, nc := true, leaf := 0x40000, size := 0x10000 } = false) ∧
    (∀ l ∈ [laneAt 31 (placeAt (portMemory 0) true) [1, 0, 0, 0]], ∃ x, AtHome (hostAtomic true) 5 4 0 l x) ∧
    (let s := lined (withOp (opOf (.atomic 0 4 true 31) [laneAt 31 (placeAt 0x10100 false) [1, 0, 0, 0]] 1)) true
     readyNow s 4 9 = true ∧ ∃ x, InL1 s 0 4 0 (laneAt 31 (placeAt 0x10100 false) [1, 0, 0, 0]) x) := by
  refine ⟨by decide +kernel, ?_, by decide +kernel, { pa := 0x10100, key := 0, nc := false, leaf := 0x40000, size := 0x10000 },
    l1_of _ rfl rfl rfl (by decide +kernel)⟩
  have hd := dirty_of (s := hostAtomic true) (by decide +kernel)
  intro l hl
  simp only [List.mem_cons, List.not_mem_nil, or_false] at hl
  subst hl
  exact ⟨_, rfl, rfl, .inl rfl, .inl (by decide), by decide +kernel, by decide +kernel, fun c e he => by rw [hd c] at he; cases he⟩

theorem hyps_RepliesAndDeposits : ([opOf .store [laneAt 0 (.pod 0xF00000000000) [1]], opOf (.vload 1) [laneAt 31 (.pod 0xFFFFFFFFFFFF) []],
      opOf (.deposit 31 0 0 0xFFFFFFFF (lanesOf fun _ => 7)) [], opOf (.acqp 27 0 4) [laneAt 0 (placeAt 0x10100 false) []],
      opOf (.mma { fmtA := .bf16, fmtB := .bf16, a := [], b := [] } false false [onePart]) []].all fun o =>
      readyNow (withOp o) 4 9) = true ∧
    (let s := withOp (opOf (.deposit 31 0 0 0xFFFFFFFF (lanesOf fun _ => 7)) [])
     s.depositTarget (me s).squad 0 0 = some (3, some 4) ∧ has (me s).squad.awaited 31 = false ∧
      (s.depositLeaves 4 9).canTake (me s).squad 1 = true) ∧
    (let s := withOp (opOf (.acqp 27 0 4) [laneAt 0 (placeAt 0x10100 false) []])
     (((s.promote 0 0).1.sees (me s).squad (promotionScope 4 0 0) 4 (laneAt 0 (placeAt 0x10100 false) [])).map List.length) = some 4) ∧
    (let s := { withOp (opOf (.svc 27 3 5 none) []) with services := [(0, 3, 4, 9)] }
     (me s).squad.halted = false ∧ (∃ y ∈ s.services, y.2.2.1 = 4 ∧ y.2.2.2 = 9 ∧ s.callSent y = true) ∧
      (s.services.find? fun y => y.1 == 0 * 64 + 0 && y.2.1 == 3) = some (0, 3, 4, 9)) := by decide +kernel

theorem hyps_RepliesAndDeposits_discarded : (let s := withOp (opOf (.deposit 31 0 31 0xFFFFFFFF (lanesOf fun _ => 7)) [])
     readyNow s 4 9 = true ∧ (s.depositTarget (me s).squad 0 31) = some (3, none) ∧
      (((s.teams.get? 3).bind fun x => (s.gangs.get? x.gang).map fun g => g.ticket) == (s.gangOf (me s).squad).map (·.ticket)) = true) ∧
    (let s := withOp (opOf (.svc 27 3 5 none) [])
     (me s).squad.ops.map (fun o => (o.id, o.finished)) = [(9, false)] ∧ (me s).squad.halted = false) := by decide +kernel

/-- The state with a matrix operation running on its sub-array and the tile of its part. -/
def multiplying : State :=
  (withOp (opOf (.mma { fmtA := .bf16, fmtB := .bf16, a := [], b := [] } false false [onePart]) [])).setCore 0
    { subs := [(0, [(4, 9, 0)])], tiles := [(0, { squad := 4, context := 0, words := [] })] }

theorem hyps_RepliesAndDeposits_product : readyNow multiplying 4 9 = true ∧ ((multiplying.core 0).subs.getD 0 []).head? = some (4, 9, 0) ∧
    (multiplying.tile 0 0).map (·.retired) = some false := by decide +kernel

/-- R257, R269: a resumed matrix record of a BF16 pair asks for 24 tokens at its core's stop, waits, and goes on once they pass. -/
theorem test_record_captures_again :
    (let s := multiplying.reissueSquad 4
     (at' (s.cluster 0).queues 0 []).map (·.price) = [24] ∧ (s.op? 4 9).isNone = true ∧
      (let t := s.setCluster 0 { s.cluster 0 with free := put (s.cluster 0).free 9 24 }
       ((t.ringStep 0).op? 4 9).isSome = true)) := by decide +kernel

/-! ## Statements about lines, pages, translation and the accesses of others: states that meet their hypotheses -/

/-- The memory state with dirty bytes in one line, a full release log, ways that drain and a tile of another context. -/
def dirtyCore : State := (memoryState 0x1000).setCore 0
  { dirty := [(0x10180, (7, 0)), (0x101FF, (8, 0))], log := List.replicate 64 ⟨1, 2, []⟩, draining := 2, sectors := 13
    tiles := [(3, { squad := 77, context := 5, words := [], deferred := some 1 })] }

theorem hyps_LinesPagesAndLogs : Memory.wf dirtyCore.mem = true ∧ Tbl.sorted (dirtyCore.core 0).dirty = true ∧
    (∀ e ∈ (dirtyCore.core 0).dirty, dirtyCore.slotKey (dirtyCore.leafSlot e.2.2) = dirtyCore.slotKey 0) ∧ 64 ≤ (dirtyCore.core 0).log.length ∧
    (dirtyCore.core 1).log.length < 64 ∧ dirtyCore.residentOn 0 0 = true ∧ dirtyCore.residentOn 0 5 = false ∧ 0 < (dirtyCore.core 0).draining ∧
    (let s := dirtyCore.onSplit 4 0 fun p => { p with wait := some .firstUse }
     ((s.squadsOn 0).find? fun e => e.2.splits.any fun p => p.wait == some .firstUse).map (·.1) = some 4) ∧
    (let s := (dirtyCore.gangs.get? 2).map fun g => dirtyCore.setGang 2 { g with phase := .halted }
     s.isSome = true ∧ (s.bind fun s => s.gangs.get? 2).map (·.phase) = some .halted ∧ (dirtyCore.teams.get? 3).map (·.gang) = some 2) := by
  decide +kernel

/-- A store to a page with ZP set, and a sweep of it. -/
def zeroing : State :=
  let s := withOp (opOf .store [laneAt 0 (placeAt 0x10100 false) [1, 2, 3, 4]])
  s.homePuts 0 0x40000 (leBytes 0x1030F 8)

theorem hyps_LinesPagesAndLogs_zero : readyNow zeroing 4 9 = true ∧ zeroing.zpSet { pa := 0x10100, key := 0, nc := false, leaf := 0x40000, size := 0x10000 } = true ∧
    Memory.wf zeroing.mem = true ∧
    (let s := { zeroing with sweeps := [⟨0x40000, 0x10000, 0x10000, 0, 0, [(4, 9)]⟩] }
     (s.sweeps.find? fun w => w.base == 0x10000).isSome = true) := by decide +kernel

/-- The memory state with identity tables of one page of 1 GiB at both stages: stage 2 at 0x20000, stage 1 at 0x22000. -/
def mapped : State :=
  let s := memoryState 0x1000
  let s := s.homePuts 0 0x20000 (leBytes 0x21001 8)
  let s := s.homePuts 0 0x21000 (leBytes 0x18F 8)
  let s := s.homePuts 0 0x22000 (leBytes 0x23001 8)
  let s := s.homePuts 0 0x23000 (leBytes 0x18F 8)
  { s with regs := (s.regs.set (partBase 0 + 0x508) 0x20001#64).set (ifaceBase 0 0) 0x22001#64 }

/-- CWB or CINV of the line of 0x10180 at a scope, with dirty bytes there. -/
def caching (invalidate : Bool) (scope : Nat) : State :=
  let o := opOf (.cache invalidate 0x10180 0x10190) [] scope
  let s := squadIs mapped fun q => { q with ops := [o] }
  s.setCore 0 { s.core 0 with dirty := [(0x10180, (7, 0)), (0x101FF, (8, 0))], lines := [(0x10180 / 128, { way := 3, context := some 0 })] }

theorem hyps_OtherWritesPerformed_cache : ([false, true].all fun v => readyNow (caching v 2) 4 9 && readyNow (caching v 5) 4 9) = true ∧
    (let s := caching false 5
     ((s.pages 0 (0x10180 / 128 * 128) ((0x10190 + 127) / 128 * 128)).map fun p => (p.1, p.2.1, p.2.2.pa)) = [(0x10180, 128, 0)] ∧
      s.l1s 0 = [0] ∧ Tbl.sorted (s.core 0).dirty = true ∧ (∀ e ∈ (s.core 0).dirty, s.slotKey (s.leafSlot e.2.2) = s.slotKey 0) ∧
      ((s.core 0).dirty.all fun e => (s.core 0).dirty.all fun e' =>
        decide (e.1 / 64 ≠ e'.2.2 / 64) && decide (e.1 / 64 ≠ (e'.2.2 + 7) / 64)) = true ∧ Memory.wf s.mem = true) := by decide +kernel

theorem hyps_OtherWritesPerformed_foreign : (let x : Xlate := { pa := 0x10100, key := 0, nc := false, leaf := 0x40000, size := 0x10000, context := some (contextKey 1 0 0) }
     let s := withOp { opOf .store [laneAt 0 (.memory x) [1, 2, 3, 4]] with instr := .vstW 1 1 7 (.lit 0) }
     let s := s.homePuts 0 0x20000 (leBytes 0x21001 8)
     let s := s.homePuts 0 0x21000 (leBytes 0x18F 8)
     let s := { s with regs := s.regs.set (partBase 0 + 0x508) 0x20001#64 }
     readyNow s 4 9 = true ∧ s.foreign x = true ∧ s.zpSet x = false) := by decide +kernel

/-- A walk asked for, of an address that the tables map or not. -/
def walking (va : Nat) : State := mapped.setDie 0 { mapped.die 0 with walks := [⟨4, 0, va, .read⟩] }

theorem hyps_WalksAndAnswers_walk : ((walking 0x3FFFFFFF).die 0).walks = [⟨4, 0, 0x3FFFFFFF, .read⟩] ∧
    (match ((walking 0x3FFFFFFF).setDie 0 { (walking 0x3FFFFFFF).die 0 with walks := [] }).walk 0 0 0x3FFFFFFF .read false with
     | (_, .ok x) => x.serves 0 0 0x3FFFFFFF .read
     | (_, .error _) => false) = true ∧
    (match ((walking 0x40000000).setDie 0 { (walking 0x40000000).die 0 with walks := [] }).walk 0 0 0x40000000 .read false with
     | (_, .ok _) => false
     | (_, .error _) => true) = true ∧ ((me mapped).squad.split? 0).isSome = true ∧
    contextVf (mapped.contextOf (me mapped).squad) = 0 ∧ contextIface (mapped.contextOf (me mapped).squad) = 0 := by decide +kernel

theorem hyps_CacheAndPageWords_prefetch : (match (mapped.walkBoth 0 0 0x10100 .read true).2 with
      | .ok e =>
        let x := e.xlateFor 0 (0x10100 / 128 * 128)
        !mapped.held x && (mapped.pinOf x).isNone && !mapped.zpSet x && !x.nc && zeroing.zpSet { x with leaf := 0x40000, size := 0x10000 }
      | .error _ => false) = true ∧ inPodWindow 0x10100 = false ∧
    (match (mapped.walkBoth 0 0 0x40000000 .read true).2 with
     | .ok _ => false
     | .error _ => true) = true := by decide +kernel

/-- The squad parked on entry 5 of its core's fault buffer, for a load or for a fetch. -/
def parkedOn (o : Option Op) : State :=
  let s := squadIs mapped fun q => { q with parked := some 5, tvec := 0x30000, splits := q.splits.map fun p => { p with wait := some .parked } }
  s.setCore 0 { s.core 0 with faults := [(5, { squad := 4, split := 0, owner := .level2 0 0, lane := 0, va := 0x1100, gen := 7, op := o, bytes := []
                                               kind := if o.isNone then .fetch else .read })] }

theorem hyps_WalksAndAnswers_answers : ([some (opOf (.vload 31) [laneAt 0 (placeAt 0 false) []]), none].all fun o =>
      let s := parkedOn o
      (s.faultNamed (.level2 0 0) ((7#16).toNat * 64 + 5)).isSome && !(me s).squad.active && decide (headerOf (me s).squad.tvec ≠ 0) &&
        Tbl.sorted (s.core 0).faults && ((s.core 0).faults.get? 5).isSome) = true ∧
    (match (parkedOn none).retryLanes (me (parkedOn none)).squad 0 .fetch [{ lane := 0, va := 0x1100, place := .pod 0 }] with
     | (_, .ok _) => true
     | (_, .error _) => false) = true ∧
    (let s := parkedOn (some (opOf (.vload 31) [laneAt 0 (placeAt 0 false) []]))
     match s.retryLanes (me s).squad 0 .read [laneAt 0 (placeAt 0 false) []] with
     | (s1, .ok _) => ((s1.dropFault 0 5).unpark 4).canTake { (me s).squad with parked := none } 1
     | (_, .error _) => false) = true := by decide +kernel

theorem hyps_WalksAndAnswers_rights : State.reset.mayAnswer (.level2 31 63) = false ∧ State.reset.mayAnswer .pf1 = false ∧
    (parkedOn none).mayAnswer .level0 = true ∧
    (parkedOn none).faultNamed .level0 ((7#16).toNat * 64 + 5) = none ∧
    (let s := { parkedOn none with regs := (parkedOn none).regs.set (partBase 0 + 0x200) 0x1#64 |>.set (partBase 0) 1#64 }
     s.mayAnswer (.level2 0 0) = true ∧ (s.faultNamed (.level2 0 0) ((7#16).toNat * 64 + 5)).isSome = true) := by decide +kernel

theorem hyps_WalksAndAnswers_unsent : (let s := parkedOn none
     ((s.core 0).faults.get? 5).any (fun x => !s.unsent x) = true ∧
     ((s.core 0).faults.get? 5).any (fun x => { s with waiting := [{ queue := (s.faultRing x.owner).off, bytes := x.bytes }] }.unsent x) = true) := by
  decide +kernel

/-- The mapped state with export entry 3 of partition 0 for peer 9: 4 KiB at 0, readable and writable. -/
def exporting : State :=
  let a := partBase 0 + 0x8000 + 16 * 3
  { mapped with
    peers := [(0, (9, 0))]
    regs := ((mapped.regs.set a 0x5007#64).set (a + 8) (BitVec.ofNat 64 (9 * 2 ^ 48 + 2 ^ 23))).set (packageBase + 0x18) 0x100000000#64 }

theorem hyps_ClaimsPeersAndHost : (∀ x ∈ [(0x2000, 0x1000), (0x10000, 0x11000)], readyNow (withOp (opOf (.claim 27 x.1 x.2 0 0 0) [])) 4 9 = true) ∧
    (let e := exporting.exportEntry 0 3
     e.valid = true ∧ e.peer = 9 ∧ e.len = 4096 ∧ e.writable = true ∧ e.readable = true ∧
      (exporting.devWrite (contextKey 0 e.iface 0) (e.va + 0xFFC) [1, 2, 3, 4]).2 = true ∧
      ((exporting.devRead (contextKey 0 e.iface 0) (e.va + 0xFFC) 4).2.map List.length) = some 4 ∧
      ¬ 0xFFD + 4 ≤ e.len) ∧ Memory.wf exporting.mem = true := by decide +kernel

theorem hyps_ClaimsPeersAndHost_atomic : (let e := exporting.exportEntry 0 3
     let k := peerAtomic 0 4 [1, 0, 0, 0]
     match (exporting.devRecall (contextKey 0 e.iface 0) (e.va + 0xFFC) k.2).devRead (contextKey 0 e.iface 0) (e.va + 0xFFC) k.2 with
     | (t, some old) => (t.devWrite (contextKey 0 e.iface 0) (e.va + 0xFFC) ((atomicBytes k.1 k.2 old [1, 0, 0, 0]).getD old)).2
     | (_, none) => false) = true ∧
    (∀ e ∈ exporting.cores, ∀ x ∈ e.2.tiles, x.2.deferred = none) ∧
    (∀ e ∈ exporting.cores, ∀ x ∈ e.2.dirty, inRange 0x10000 4 x.1 = false) := by decide +kernel

/-- The mapped state with a page of 4 KiB at 0x2000 that CLAIM may move, the loaded squad on a die, and a frame of die 1 in the reserve. -/
def claiming (core : Nat) : State :=
  let s := withOp (opOf (.claim 27 0x2000 0x3000 0 0 0) [])
  let s := { s with mem := mapped.mem, regs := mapped.regs, parts := [(0, { reserve := [(2, [0x1800000000])] })] }
  let s := (s.homePuts 0 0x23000 (leBytes 0x24001 8)).homePuts 0 0x24000 (leBytes 0x25001 8)
  let s := (s.homePuts 0 0x25010 (leBytes 0x238F 8)).homePuts 0 0x21300 (leBytes 0x180000018F 8)
  squadIs s fun q => { q with core }

/-- The same state with the page locked by the CLAIM, or by another. -/
def claimed (entry id : Nat) : State :=
  let s := claiming 160
  let l : Lock := { vf := 0, iface := 0, base := 0x2000, size := 4096, frame := 0x1900000000, die := 1, entry, leaf := 0x25010, slot := 0 }
  { s with fabric := { s.fabric with locks := [(id, l)] } }

theorem hyps_ClaimsPeersAndHost_pages : ([(claiming 0, Claimed.home), (claiming 160, .locked), (claimed 0x238F 8, .waits),
      ({ claiming 160 with parts := [] }, .skipped), (withOp (opOf (.claim 27 0x2000 0x3000 0 0 0) []), .skipped)].all fun e =>
      readyNow e.1 4 9 && (e.1.fabric.locks.get? 9).isNone &&
        match e.1.claimLock (e.1.contextOf (me e.1).squad) (dieOf (me e.1).squad.core) 0x2000 9, e.2 with
        | (_, _, .home), .home => true
        | (_, _, .locked), .locked => true
        | (_, _, .waits), .waits => true
        | (_, _, .skipped), .skipped => true
        | _, _ => false) = true := by decide +kernel

theorem hyps_ClaimsPeersAndHost_swap : ([(0x238F, true), (0x138F, false)].all fun e =>
      let s := claimed e.1 9
      let r := s.claimSwap (s.contextOf (me s).squad) 9
      readyNow s 4 9 && (s.fabric.locks.get? 9).isSome && r.2 == e.2 &&
        (r.1.op? 4 9).any fun x => x.2.kind == .claim 27 0x2000 0x3000 0 0 0) = true := by decide +kernel

theorem hyps_ClaimsPeersAndHost_reached : exporting.reachesPeer 9 = true ∧ exporting.reachesPeer 8 = false ∧
    has (exporting.reg (packageBase + 0x1000)) 0 = false ∧
    (let s := exporting.setReg (packageBase + 0x1000) 1
     ((s.leafOver 0x10000).map fun l => keySlot (s.homeWord 0 l)) = some 0 ∧ has (s.reg (packageBase + 0x1000)) 0 = true) := by decide +kernel

/-! ## Statements about engines, rings and quarters: states that meet their hypotheses -/

/-- A command of two rows of four elements between two float32 tensors of the given spaces, or with a form of its own. -/
def work (code : Nat) (dst src idx : Descriptor) (shape : Nat := 0x400002) : Command :=
  { words := [BitVec.ofNat 64 code, BitVec.ofNat 64 shape], dst, src, idx, scope := 4 }

/-- The mapped state with a command at the head of a port, and the tokens of its engine's block. -/
def engineState (port : Nat) (c : Command) : State :=
  let s := squadIs mapped fun q => { q with commands := put q.commands port [c] }
  s.setCluster 0 { s.cluster 0 with holds := [(1, { stop := 8 + port, tokens := 4, squad := 4, op := none })] }

/-- Whether a port's oldest command is ready, as a check. -/
def commandNow (s : State) (port code : Nat) : Bool :=
  (s.squads.get? 4).any fun q => (q.nextCommand port).any fun e => e.1 == 0 && e.2.code == code && e.2.fault.isNone &&
    s.blockHeld q 4 port && (q.ops.all fun o => o.finished || !o.kind.forced) && s.sweeps.isEmpty

/-- A float32 or I32 tensor in the scratchpad, at a base. -/
def small (base f : Nat) : Descriptor :=
  BitVec.ofNat 256 (base / 16 + f * 2 ^ 44 + 2 ^ 49 + 2 ^ 51 + 64 * 2 ^ 56 + 4 * 2 ^ 88 + 16 * 2 ^ 108)

/-- A float32 tensor of two rows of 1,500 elements, in the scratchpad, or in a pod window. -/
def wide (space base : Nat) : Descriptor :=
  BitVec.ofNat 256 (base / 16 + space * 2 ^ 49 + 2 ^ 51 + 6016 * 2 ^ 56 + 2 * 2 ^ 88 + 1500 * 2 ^ 108)

/-- A copy of two rows of 1,500 elements, of which each takes two blocks. -/
def wideCopy (dst : Descriptor) : Command := work 0x01 dst (wide 1 0) 0 0x5DC00002

/-- The same state with 64 KiB of scratchpad for each team. -/
def roomy (s : State) : State := { s with launches := s.launches.set 1 { programLaunch with scratch := 0x10000, teams := 2, squads := 2 } }

theorem hyps_EngineCommands : commandNow (engineState 0 (work 0x01 (small 0 0) (small 0x400 0) 0)) 0 0x01 = true ∧
    (work 0x01 (small 0 0) (small 0x400 0) 0).copyStatus 0x1000 = 0 ∧ (work 0x01 0 (small 0x400 0) 0).copyStatus 0x1000 = 3 ∧
    commandNow (engineState 0 (work 0x01 0 (small 0x400 0) 0)) 0 0x01 = true ∧
    (let c := work 0x01 (small 0 0) (small 0x400 0) 0
     let s := engineState 0 c
     c.blockEnd = 2 ∧ c.rowPart 0 = ⟨0, 4, 0, 0, true⟩ ∧ { c with rows := 1, upto := 1 }.blockEnd = 2 ∧
      (rowsFrom (fun s r => s.copyRow (me s).squad c r (c.rowPart r)) s 0 2).any (fun t => t.squads == s.squads) = true) ∧
    commandNow (engineState 0 { work 0x01 (small 0 0) (small 0x400 0) 0 with rows := 2 }) 0 0x01 = true ∧
    (let c := work 0x10 (small 0 0) (small 0x400 0) (small 0x800 12)
     let s := engineState 1 c
     commandNow s 1 0x10 = true ∧ c.gatherStatus = 0 ∧
      (match s.indices (me s).squad c with
       | (s1, .ok ix) => ix == [0, 0] && ix.all (fun r => decide (r < c.src.rows)) && ix.any (fun r => decide ((0 : Int) ≤ r)) &&
           s1.squads == s.squads
       | (_, .error _) => false) = true ∧
      (rowsFrom (fun s r => s.gatherRow (me s).squad c [0, 0] r (c.rowPart r)) s 0 2).isSome = true) ∧
    (let c := work 0x10 (small 0 0) (small 0x400 0) (small 0x800 12)
     let s := engineState 1 c
     let s := teamIs s fun t => { t with scratch := writeBytes t.scratch 0x800 [4] }
     (match s.indices (me s).squad c with
      | (_, .ok ix) => ix.any (fun r => decide (((c.src.rows : Nat) : Int) ≤ r))
      | (_, .error _) => false) = true) := by decide +kernel

/-- The same state with the first region of the pod window of interface 0 mapped, for reading and writing, on peer 0. -/
def podded (s : State) : State :=
  { s with regs := (s.regs.set (ifaceBase 0 0 + 0x1000) 7#64).set (ifaceBase 0 0 + 0x1008) 0x100000#64 }

/-- R404: with no link to the peer the first row of a copy to it, or the first block of a wide row, meets ACCESS. -/
theorem hyps_EngineCommands_access :
    ([work 0x01 (BitVec.ofNat 256 (0xF0000000000 + 2 ^ 51 + 64 * 2 ^ 56 + 4 * 2 ^ 88 + 16 * 2 ^ 108)) (small 0x400 0) 0,
      wideCopy (wide 0 0xF00000000000)].all fun c =>
      let s := podded (roomy (engineState 0 c))
      commandNow s 0 0x01 && c.copyStatus 0x10000 == 0 && (c.rowPart 0).last == (c.ncols == 4) &&
        match s.copyRow (me s).squad c 0 (c.rowPart 0) with
        | (t, .error .access) => t.squads == s.squads
        | _ => false) = true := by decide +kernel

/-- A row wider than a block: its first part does not complete it, its second does. -/
theorem hyps_EngineCommands_parts : (let c := wideCopy (wide 1 0x4000)
     let s := roomy (engineState 0 c)
     commandNow s 0 0x01 = true ∧ c.copyStatus 0x10000 = 0 ∧ c.rowPart 0 = ⟨0, 1024, 0, 0, false⟩ ∧
      { c with blocks := 1 }.rowPart 0 = ⟨1024, 476, 0, 0, true⟩ ∧ { c with blocks := 1 }.blockEnd = 1 ∧
      (match s.copyRow (me s).squad c 0 (c.rowPart 0) with
       | (t, .ok _) => t.squads == s.squads
       | (_, .error _) => false) = true) := by decide +kernel

/-- A global float32 tensor: four rows of sixteen at a base that the tables map. -/
def global (base : Nat) : Descriptor :=
  BitVec.ofNat 256 (base / 16 + 2 ^ 51 + 64 * 2 ^ 56 + 4 * 2 ^ 88 + 16 * 2 ^ 108)

theorem hyps_CollectivesMeet : (let c := work 0x20 (global 0x50000) (global 0x51000) 0
     let s := engineState 2 c
     Tbl.sorted s.squads = true ∧ s.sweeps = [] ∧ c.collective = none ∧ s.members (me s).squad c.rendezvous.1 = some [3] ∧
      (s.memberCommand 3 c.rendezvous).map (fun m => (m.1, m.2.1)) = some (4, 0) ∧ c.collectiveStatus (s.packagesOf (me s).squad c.rendezvous.1 * 1) = 0 ∧ (me s).squad.ops = [] ∧
      { c with dst := 0 }.collectiveStatus 1 ≠ 0 ∧ { c with scope := 3 }.agreement = c.agreement ∧
      { c with src := small 0 12 }.agreement ≠ c.agreement) ∧
    (let c := work 0x20 (global 0x50000) (global 0x51000) 0
     let s := engineState 2 c
     let s := (s.gangs.get? 2).elim s fun g => s.setGang 2 { g with teams := [3, 9] }
     (s.members (me s).squad c.rendezvous.1).any (fun ts => ts.any fun t => (s.memberCommand t c.rendezvous).isNone) = true) := by
  decide +kernel

theorem hyps_CollectivesMeet_pod : (let c := work (0x20 + 3 * 2 ^ 48) (global 0x50000) (global 0x51000) 0
     let s := engineState 2 c
     let s := { s with launches := s.launches.set 1 { programLaunch with podCount := 2 } }
     ¬ s.packagesOf (me s).squad c.rendezvous.1 ≤ 1 ∧ s.members (me s).squad c.rendezvous.1 = some [3] ∧
      (s.memberCommand 3 c.rendezvous).map (fun m => (m.1, m.2.1)) = some (4, 0) ∧
      c.collectiveStatus (s.packagesOf (me s).squad c.rendezvous.1 * 1) = 0) := by decide +kernel

theorem hyps_CollectivesRun : ([(0x20, Instr.reduce 7), (0x21, .allgather 7)].all fun e =>
      let c := { work e.1 (global 0x50000) (global 0x51000) 0 with collective := some 7 }
      let s := engineState 2 c
      let s := s.setDie 0 { s.die 0 with collectives := [(7, { code := c.first, members := [4] })] }
      (s.collectiveDie 7).isSome && bits c.first 7 0 == e.1 && bits c.first 49 48 != 3 && Tbl.sorted (s.die 0).collectives &&
        match s.collectiveOf 7 4 with
        | none => false
        | some m => m.2.2.2.fault.isNone && m.2.2.2.rows == 0 && match s.gatherRegions 0 [m] with
          | (_, .error _) => false
          | (s1, .ok regs) => !s.collectiveAhead 0 7 &&
            let rows := if e.1 = 0x20 then (List.range c.nrows).map fun r => (List.range c.ncols).map fun n =>
              combineElem c.src.fmt (bits c.first 51 50) (regs.map fun g => (g.getD r []).getD n 0) else regs.flatten
            let die := s1.die 0
            ((s1.setDie 0 { die with collectives := die.collectives.set 7 { code := c.first, members := [4], result := some rows } }).putResult
              0 rows [m]).2.isNone) = true := by decide +kernel

/-- A cluster whose stop 3 has a request of the loaded program's split for 12 tokens, 5 captured. -/
def ringState (free held waited : Nat) : State :=
  let s := memoryState 0
  s.setCluster 0 { s.cluster 0 with
    free := put (put (Vector.replicate 10 0) 2 free) 9 4000
    queues := put (Vector.replicate 10 []) 3 [{ split := some (4, 0), prices := [(0, 12)], captured := 5, waited, held }] }

theorem hyps_RingSteps : (∀ p, p < 10 → at' ((memoryState 0).cluster 0).queues p [] = []) ∧ ((memoryState 0).cluster 0).withdraw = 0 ∧
    (let s := ringState 7 0 39
     (∀ j, j < 10 → j ≠ 3 → at' (s.cluster 0).queues j [] = []) ∧ (s.cluster 0).serving = none ∧
      s.heldAt 0 3 + 12 ≤ s.cap 0 ∧ (5 : Nat) < 12 ∧ 12 ≤ 5 + at' (s.cluster 0).free ((3 + 9) % 10) 0 ∧ ((me s).squad.split? 0).isSome = true) ∧
    (at' ((ringState 0 11 0).cluster 0).queues 3 []).map (·.held) = [11] ∧ ((ringState 0 11 0).cluster 0).serving ≠ some 3 ∧
    (let s := (memoryState 0).setCluster 0 { (memoryState 0).cluster 0 with holds := [(6, { stop := 3, tokens := 4, squad := 88, op := some 1 })] }
     (s.cluster 0).holds.get? 6 = some { stop := 3, tokens := 4, squad := 88, op := some 1 } ∧
      s.holdFree { stop := 3, tokens := 4, squad := 88, op := some 1 } = true ∧ Tbl.sorted (s.cluster 0).holds = true) ∧
    (let s := (memoryState 0).onSplit 4 0 fun p => { p with tokens := [(0, 3)], begun := false }
     (me s).split.captured = true ∧ (me s).split.begun = false ∧ clusterOf (me s).squad.core = 0 ∧ (me s).squad.core % 8 = 0 ∧
      (me s).split.lapse ≤ 10 ∧ ((s.cluster 0).withdraw = 0)) ∧
    (let s := (product 3).onSplit 4 0 fun p => { p with lapse := 11, begun := false, clause := some (programClause (encodeWord (.mmaz 0 1 0 1 0 2)) 0) }
     let p := (me s).split
     10 < p.lapse ∧ p.clause.isSome = true ∧ (p.wait.isNone && !p.held) = true ∧
      (let back : Split := { p with tokens := [], captured := false }
       let r := (s.giveTokens 0 p.tokenSum).onSplit 4 0 fun p => { p with tokens := [], captured := false }
       back.id = 0 ∧ (match p.clause with
        | some c =>
          let n := ((r.clausePrices (me r).squad c (indexOf p.pos)).map (fun x => x.2)).sum
          (me r).squad.clear back && decide (0 < n) && decide (n ≤ r.cap 0) && !r.waits 4 (me r).squad 0 .topUp
        | none => false) = true)) := by
  decide +kernel

/-- The loaded program before its quarter chooses. -/
def unchosen : State := (memoryState 0).onQuarter 0 0 fun x => { x with chosen := none }

theorem hyps_ChoicesAndStarvation_choice : (at' (unchosen.core 0).quarters 0 {}).chosen = none ∧
    (let s1 := ((unchosen.quarterSquads 0 0).map fun e => e.1).foldl State.prepareSquad unchosen
     let ready := (s1.quarterSquads 0 0).filter fun e => (s1.nextSplit e.2).isSome && !s1.paused 0
     let x := at' (s1.core 0).quarters 0 {}
     let classes := ready.map fun e => s1.classOf e.2
     let dc := refilled x.dc classes fun c => at' (s1.context (s1.contextOf (me s1).squad)).weights c 1
     ready.map (fun e => e.1) = [4] ∧ x.ptr % 4 ∈ classes ∧ 0 < at' dc (x.ptr % 4) 0) := by decide +kernel

/-- Two gangs on core 0, the second admitted later and its squad charged every other register; the loaded program's split waits for
registers it cannot have. -/
def starving : State :=
  let s := (memoryState 0).onSplit 4 0 fun p => { p with wait := some (.pool (List.range 32)) }
  { s with
    launches := (s.launches.set 1 { programLaunch with floor := 1 }).set 70 { programLaunch with floor := 2047 }
    gangs := s.gangs.set 50 { launch := 70, index := 1, ticket := 2, age := 9, cluster := 0, teams := [51] }
    teams := s.teams.set 51 { gang := 50, index := 0, core := 0, squads := [52] }
    squads := s.squads.set 52 { (me s).squad with team := 51, splits := [] } }

theorem hyps_ChoicesAndStarvation_starved : (let on := starving.squadsOn 0
     (∃ e ∈ on, starving.lacks e.1 e.2 = true) ∧ (∀ e ∈ on, starving.nextSplit e.2 = none) ∧
      ((starving.teams.filter fun t => t.2.core == 0).map fun t => t.2.gang) = [2, 50] ∧
      (starving.gangs.get? 2).map (·.phase) = some .running ∧ (starving.gangs.get? 50).map (·.phase) = some .running) := by decide +kernel

/-! ## Statements about launches, gangs, the market, the rails and sessions: states that meet their hypotheses -/

/-- The mapped state with a save area of 1,024 pages, a launch block of three gangs at 0x60000, and launch 60, one gang of
which die 0 has claimed. -/
def launching (coop : Bool) : State :=
  let s := { mapped with
    regs := (((mapped.regs.set (ifaceBase 0 0 + 8) 0x100000#64).set (ifaceBase 0 0 + 0x10) 0x400#64).set (contextBase 0)
      0x1000000#64).set (contextBase 0 + 8) 0x800000FAC688FF00#64
    launches := (mapped.launches.set 1 programLaunch).set 60 { programLaunch with
      id := 5, block := 0x60000, gangCount := if coop then 1 else 3, coop, started := false, accums := 0
      claimed := if coop then [] else [(0, 2)] } }
  let s := (s.homePuts 0 0x60000 (leBytes 0x0100 4)).homePuts 0 0x60008 (leBytes 0x10000 8 ++ leBytes 0 8 ++ leBytes 3 4 ++ leBytes 0x3FF00 4)
  s.homePuts 0 0x6004C [1]

/-- Whether the block of a launch entry is readable and its launch may run, is out of range, has no readable tensor table, or
never fits. -/
def blockNow (s : State) (blk : DWord) : Option (Bool × Bool × Bool) :=
  let s0 := (s.createContext 0).publishAll
  let x := s0.context 0
  let s1 := { s0.setContext 0 { x with launches := x.launches + 1 } with nextId := s0.nextId + 1 }
  match s1.devRead 0 blk.toNat 256 with
  | (_, none) => none
  | (s2, some b) =>
    let new := parseBlock 0 x.launches blk b
    match (s2.setLaunch s0.nextId new).devRead 0 new.tidTab.toNat 1024 with
    | (s3, r) => some (blockOk blk b new, r.isSome, s3.neverFits new)

theorem hyps_LaunchesStart : (let s := launching false
     let empty := { s with gangs := [] }
     blockNow s 0x60000 = some (true, true, false) ∧ blockNow s 0x40000000 = none ∧
     (blockNow empty 0x60004).map (·.1) = some false ∧
     (blockNow (empty.homePuts 0 0x60040 (leBytes 0x40000000 8)) 0x60000).map (fun x => x.2.1) = some false ∧
     blockNow { empty with regs := empty.regs.set (ifaceBase 0 0 + 0x10) 1#64 } 0x60000 = some (true, true, true) ∧
     ((s.launches.get? 60).map fun l => (l.coop, l.dep, l.closed, s.takesGangs l, l.claimed.get? 1)) = some (false, false, [], true, none) ∧
     ((s.launches.get? 60).any fun l => (s.findSeats l (s.clustersOn l.context 0)).isSome &&
       ([(3, 0, false), (0, 0, false), (0, 1, true)].all fun g =>
         let l := { l with dep := g.2.2 }
         match (s.homePuts 0 0x600F0 (leBytes g.1 8)).devAdd l.context (l.block.toNat + 240) 1 with
         | (_, none) => false
         | (s2, some n) => (decide (l.gangCount ≤ n) == decide (g.1 = 3)) &&
             !((s2.setLaunch 60 { l with claimed := l.claimed.set 0 n }).producerFailed l).2)) = true ∧
     Tbl.sorted ([(7, 2)] : Tbl Nat) = true ∧ (s.accept 0).isSome = true ∧ (s.context 0).isProtected = false ∧
     (let p := s.setContext 0 { s.context 0 with isProtected := true, expect := none }
      (p.context 0).isProtected = true ∧ p.accept 0 = none)) := by decide +kernel

theorem hyps_GangsAdmitted : (let s := launching false
     (s.launches.get? 60).any (fun l => l.claimed.get? 0 == some 2 && s.takesGangs l && s.freshRoom l 1 && !l.dep &&
        (s.findSeats l (s.clustersOn l.context 0)).any (fun x => x.2.all fun y => y.2.2.grow == 0) &&
        (s.placeImage l.context l.gangPages [] []).isSome) = true ∧ (∀ e ∈ s.gangs, e.2.ticket ≠ BitVec.ofNat 32 s.tickets)) ∧
    (let s := launching true
     (s.launches.get? 60).any (fun l => l.coop && !l.started && !l.dep && s.takesGangs l && s.freshRoom l l.gangCount &&
        (let clusters := (s.clustersOf l.context).filter fun cl => s.clusterOpen l.context cl l.fused
         let seats := seatGangs l.need l.teams (l.gangCount + clusters.length) l.gangCount
           (clusters.map fun cl => (cl, s.roomsFor l cl))
         decide (l.gangCount ≤ 512 * clusters.length) && seats.length == l.gangCount &&
           (s.placeRun l.context 1 []).any (fun page => (s.placeImages l l.gangCount [(page, 1)] []).isSome) &&
           (seats.all fun x => x.2.all fun y => y.2.2.grow == 0) && (s.devAdd l.context (l.block.toNat + 240) l.gangCount).2.isSome)) = true) := by
  decide +kernel

theorem hyps_GangsAdmitted_drains : (let s := launching false
     (s.launches.get? 60).any (fun l => !s.drainsOn l (s.clustersOn l.context 0)) = true ∧
      (s.heldTickets.all fun x => x != BitVec.ofNat 32 s.tickets) = true) ∧
    (let s := launching true
     (s.launches.get? 60).any (fun l => !s.drainsOn l (s.clustersOf l.context)) = true) := by decide +kernel

/-- The gang of the loaded program in a phase, its image pages reserved. -/
def gangState (phase : Phase) : State :=
  let s := launching false
  match s.gangs.get? 2 with
  | some g => s.setGang 2 { g with phase, page := 1, pages := 64 }
  | none => s

theorem hyps_GangsHalt : (let s := gangState .running
     (s.launches.get? 1).any (fun l => !l.coop) = true ∧ (s.gangs.get? 2).map (·.phase) = some .running ∧
      ((s.gangs.get? 2).any fun g => (List.range 4).all fun n => !(at' g.routers n {}).full) = true ∧
      ((s.gangSquads 2).all fun e => e.2.ops.isEmpty && e.2.commands == Vector.replicate 3 [] &&
        e.2.splits.all fun p => p.wait != some .firstUse) = true ∧
      (s.gangSquads 2).map (fun e => e.1) = [4] ∧ Tbl.sorted s.squads = true ∧ Tbl.sorted s.gangs = true) ∧
    [Phase.halted, .saved, .ended].map (fun p => ((gangState p).gangs.get? 2).map (·.phase)) = [some .halted, some .saved, some .ended] ∧
    ((gangState .saved).gangs.get? 2).map (·.cause) = some 0 ∧
    (let s := gangState .saved
     ((s.gangs.get? 2).map fun g => ((s.setGang 2 { g with cause := 7 }).gangs.get? 2).map (·.cause)) = some (some 7)) ∧
    ((launching true).launches.get? 60).map (·.coop) = some true := by decide +kernel

/-- A load left outstanding by the loaded squad's memory word, and a copy of which only a block is done. -/
theorem hyps_GangsHalt_outstanding : (let o := opOf (.vload 31) [laneAt 0 (placeAt 0x10100 false) []]
     let s := squadIs (gangState .running) fun q => { q with
       ops := [o], commands := put q.commands 0 [{ work 0x01 (small 0 0) (small 0x400 0) 0 with blocks := 1 }] }
     o.plainAccess ∧ ((s.gangSquads 2).all fun e => (e.2.ops.all fun y => (s.fabric.locks.get? y.id).isNone) &&
       ((List.range 3).all fun p => (at' e.2.commands p []).all fun c => c.collective.isNone) &&
       e.2.splits.all fun p => p.wait != some .firstUse) = true) := ⟨⟨by decide, by decide, .inl ⟨_, rfl⟩⟩, by decide +kernel⟩

theorem hyps_GangsHalt_still (x : Xlate) : (gangState .saved).retraining x.pa = false ∧ (gangState .saved).passing x = false := by
  have hp : (gangState .saved).fabric.pins = [] := by decide +kernel
  have h : ∀ k, k < 16 → has ((gangState .saved).reg (hbmCtl k)) 4 = false := by decide +kernel
  refine ⟨?_, by simp [State.passing, hp]⟩
  cases hx : isHbm x.pa with
  | false => simp [State.retraining, hx]
  | true =>
    have hs : stackOfPa x.pa < 16 := by
      simp only [isHbm, decide_eq_true_eq] at hx
      unfold stackOfPa
      omega
    simp [State.retraining, hx, h _ hs]

theorem hyps_GangsHalt_image : (let s := gangState .saved
     (s.context 0).isProtected = false ∧
     (match s.gangs.get? 2, s.launches.get? 1 with
      | some g, some l =>
        let p := s.setContext l.context { s.context l.context with isProtected := true }
        let p := (p.setLaunch 1 { l with routers := l.routers }).setGang 2 { g with cause := 6 }
        let a := p.saveBase l.context + 4096
        (p.context l.context).isProtected && p.imagePlaces g l == [(1, 2, 0)] &&
          match p.devRead l.context a 64 with
          | (s2, some h) => match s2.devRead l.context (a + 64) (4096 * field h 4 4 - 64) with
            | (s3, some _) => s3.freshness.getD (freshKeyOf l.context 1) 0 == field h 8 8
            | _ => false
          | _ => false
      | _, _ => false) = true) := by decide +kernel

theorem hyps_GangsHalt_late : (let s := withOp (opOf .store [laneAt 0 (placeAt 0x10100 false) [1, 2, 3, 4]])
     (((squadIs s fun q => { q with halted := true }).squads.get? 4).any fun q => q.halted) = true ∧
     (((squadIs s fun q => { q with gen := q.gen + 1 }).squads.get? 4).any fun q => q.ops.all fun o => o.id != 9 || o.gen != q.gen) = true) := by
  decide +kernel

/-- The same gang halted, with the save area in a pod window that a peer takes. -/
def committing : State :=
  let s := gangState .halted
  podded { s with
    peers := [(0, (0, 0))]
    regs := (s.regs.set (ifaceBase 0 0 + 8) 0xF00000000000#64).set (packageBase + 0x18) 0x100000000#64 }

/-- A tile of another context deferred on core 0, its squad saved, where a running squad waits for its first use. -/
def deferring : State :=
  let s := { committing with squads := (memoryState 0).squads }
  let s := s.onSplit 4 0 fun p => { p with wait := some .firstUse }
  let t : Team := { gang := 91, index := 0, core := 0, squads := [77] }
  { s.setCore 0 { s.core 0 with tiles := [(3, { squad := 77, context := 5, words := [], deferred := some 1 })] } with
    gangs := s.gangs.set 91 { launch := 1, index := 1, ticket := 3, age := 2, cluster := 0, teams := [90], phase := .saved, page := 2 }
    saved := [(90, { team := t, squads := [(77, { (me (memoryState 0)).squad with team := 90, halted := true })] })] }

theorem hyps_LinesPagesAndLogs_spill : (let s := deferring
     ((s.squadsOn 0).find? fun e => e.2.splits.any fun p => p.wait == some .firstUse).map (·.1) = some 4 ∧
      ((s.core 0).tiles.filter fun e => e.2.context != logContext 0).map (·.1) = [3] ∧ Tbl.sorted (s.core 0).tiles = true ∧
      (s.saved.find? fun e => e.2.squads.any fun p => p.1 == 77).map (·.1) = some 90 ∧ s.writeWaits 0 9 [77] = false ∧
      (match s.saved.get? 90, s.gangs.get? 91, s.launches.get? 1 with
       | some x, some g, some l =>
         let y : Tile := { squad := 77, context := 5, words := [] }
         let place := (s.savedTiles x).findIdx fun z => z.2.2.1 == 3 && z.2.1 == 1
         let sq := ((x.squads.find? fun e => e.1 == 77).map fun e => e.2.sq).getD 0
         let va := s.saveBase l.context + 4096 * g.teamPage l x.team.index + (imageFront g l x).length + 4112 * place
         (match s.spansWrite l.context deviceCore 4 (pageSpans va 4112) (tileRecord 1 sq 3 false y) with
          | (_, .ok _) => true
          | (_, .error _) => false)
       | _, _, _ => false) = true) ∧
    (let s := (memoryState 0).onSplit 4 0 fun p => { p with wait := some .firstUse }
     ((s.squadsOn 0).find? fun e => e.2.splits.any fun p => p.wait == some .firstUse).map (·.1) = some 4 ∧
      ∀ x ∈ (s.core 0).tiles, x.2.context = logContext 0) := by decide +kernel

theorem hyps_LinesPagesAndLogs_joins : (let s := dirtyCore.setCore 0 { dirtyCore.core 0 with draining := 1, drainFor := some 1 }
     let s := { s with leases := [(unitKey 0 0, s.contextOf (me s).squad)] }
     (s.core 0).draining = 1 ∧ s.drainAwaited 0 = true ∧ Tbl.sorted (s.core 0).lines = true) := by decide +kernel

theorem hyps_GangsSavedAndRestored_commit : (let s := committing
     s.gangCores 2 = [0] ∧ (∀ c ∈ s.gangCores 2, (s.core c).log = []) ∧ (∀ c ∈ s.gangCores 2, s.writeWaits c 7 ((s.gangSquads 2).map fun e => e.1) = false) ∧
      (∀ e ∈ s.gangSquads 2, s.combining e.1 = false) ∧ Tbl.sorted s.teams = true ∧
      (match s.gangs.get? 2, s.launches.get? 1 with
       | some g, some l =>
         let s1 := (s.gangCores 2).foldl (fun s c => s.flushL1 c) s
         let teams := (s.teams.filter fun t => t.2.gang == 2).map fun (t : Nat × Team) => (t.1, s1.savedTeam t.2 (s.context l.context).isProtected)
         (match s1.commitImages l.context (s1.gangImages g l (teams.map fun x => x.2)) with
          | (_, .ok _) => true
          | (_, .error _) => false)
       | _, _ => false) = true) ∧
    (let s := (gangState .halted).setCore 0 { (gangState .halted).core 0 with log := [⟨logContext 0, 2, []⟩] }
     (∃ c ∈ s.gangCores 2, ∃ e ∈ (s.core c).log, e.context = logContext 0)) := by decide +kernel

/-- The gang of the loaded program, saved: its team and squad in the image. -/
def savedState : State :=
  let s := gangState .saved
  match s.teams.get? 3, s.squads.get? 4 with
  | some t, some q => { s with
      teams := [], squads := []
      saved := [(3, { team := t, squads := [(4, { q with halted := true, escalation := some ⟨0, .brk, 0, 0x10000⟩ })] })] }
  | _, _ => s

/-- The seats found for the saved gang, and whether its team can be restored on them. -/
def restoring (s : State) : Option (Nat × Nat × Bool × Bool) :=
  match s.gangs.get? 2, s.launches.get? 1, s.saved.get? 3 with
  | some g, some l, some x =>
    let (s1, teams) := s.readTeams g l [(3, x)]
    let (s2, g') := s1.readGang g l
    match s2.restoreSeats l g' (teams.map fun x => x.2) with
    | some (cl, seats) =>
      let r := (s2.takeCluster l.context cl l.fused).restoreTeams l (teams.zip seats)
      some (teams.length, seats.length, seats.all fun x => x.2.2.grow == 0,
        r.2 && ((r.1.launches.get? 1).bind fun l => l.ended).isNone)
    | none => none
  | _, _, _ => none

theorem hyps_GangsSavedAndRestored_restore : (let s := savedState
     (s.gangs.get? 2).any (fun g => s.waitsForAdmission g && !s.laterThanOther 2 g && g.teams == [3] &&
        (s.launches.get? 1).any fun l => s.sessionOpen l.context && !(s.context l.context).isProtected && !l.coop && l.ended.isNone) = true ∧
      restoring s = some (1, 1, true, true) ∧ Tbl.sorted s.saved = true ∧
      (s.saved.get? 3).any (fun x => (x.squads.map fun e => e.1) == [4] && x.kept.isEmpty && x.squads.all fun e =>
        e.2.captured.isNone && e.2.accs == Vector.replicate 8 none && e.2.ops.isEmpty) = true) ∧
    (let s := savedState
     let s := s.setLaunch 1 { programLaunch with suspended := true }
     (s.gangs.get? 2).any (fun g => !s.waitsForAdmission g) = true) := by decide +kernel

theorem hyps_GangsSavedAndRestored_drains : savedState.drainsOn programLaunch (savedState.clustersOf programLaunch.context) = false ∧
    savedState.sessionOpen programLaunch.context = true ∧
    (let s := savedState.setContext 0 { savedState.context 0 with isProtected := true, expect := none }
     s.sessionOpen 0 = (s.sessionOpen 0)) := by decide +kernel

/-- The launch of the loaded program with a router barrier of launch scope. -/
def routed (roster : List Nat) : State :=
  let s := launching false
  let x : RouterBarrier := { scope := some 4, instances := [(8, { roster, arrived := [] })] }
  let s := { s with launches := s.launches.set 1 { programLaunch with routers := put programLaunch.routers 3 x } }
  (s.gangs.get? 2).elim s fun g => s.setGang 2 { g with routers := put g.routers 3 { roster := [0], arrived := [0] } }

/-- The launch register of interface 0 as a window. -/
def window0 : Nat := ifaceWindow (contextVf 0) (contextIface 0)

theorem hyps_LaunchesDirected : ([[2], [2, 5]].all fun r =>
      let s := routed r
      (s.gangs.get? 2).any fun g => g.launch == 1 && (at' g.routers 3 {}).full && (s.launches.get? 1).any fun l =>
        let b := ((at' l.routers 3 {}).instances.getD (instanceOf 4 g) {})
        (at' l.routers 3 {}).scope == some 4 && b.roster == r && b.arrived.isEmpty) = true ∧
    (∀ m, m ∈ [2] ↔ m ∈ ([] : List Nat) ∨ m = 2) ∧ (∃ m ∈ [2, 5], m ∉ ([] : List Nat) ∧ m ≠ 2) ∧
    (let s := savedState
     s.writeMask .level0 window0 ≠ 0 ∧ s.writeMask .level0 (ifaceWindow 5 7) ≠ 0 ∧
      (s.launches.get? 1).map (fun l => (windowNames window0 l, windowNames (ifaceWindow 5 7) l, l.ended)) = some (true, false, none) ∧
      (s.gangs.get? 2).map (fun g => (g.phase, g.launch)) = some (.saved, 1) ∧ (s.gangsOf 1).map (fun x => x.1) = [2] ∧
      Tbl.sorted s.gangs = true ∧ (s.context 0).isProtected = false ∧
      (let p := s.setContext 0 { s.context 0 with isProtected := true }
       (p.context 0).isProtected = true ∧ p.session 0 0 = 0 ∧ (p.accept 0).isSome = true ∧
        (p.setContext 0 { p.context 0 with expect := none }).accept 0 = none) ∧
      s.writeMask .level0 window0 ≠ 0 ∧ (let p := { s with regs := s.regs.set (packageBase + 0x10) 4#64 }
        p.writeMask .pf1 packageWindow ≠ 0)) ∧
    (∀ e ∈ ({ launching true with gangs := [] } : State).gangs, e.2.launch ≠ 1) := by
  refine ⟨by decide +kernel, fun m => by simp, by decide, by decide +kernel, by decide +kernel⟩

theorem hyps_LaunchesDirected_busy : (let s := savedState.setReg (window0 + 0x20) 0x8000000000000000#64
     s.writeMask .level0 window0 ≠ 0 ∧ has (s.reg (window0 + 0x20)) 63 = true) ∧
    has (savedState.reg (window0 + 0x20)) 63 = false ∧
    (let s := savedState.setContext 0 { savedState.context 0 with isProtected := true }
     (savedState.launches.get? 1).any (fun l => (s.context l.context).isProtected) = true ∧ s.writeMask (.level2 0 0) window0 ≠ 0 ∧
       has (s.reg (window0 + 0x20)) 63 = false) := by decide +kernel

/-- The market, running, at a point of its interval. -/
def marketState (closed cleared noticed : Bool) : State :=
  { memoryState 0 with market := { running := true, closed, cleared, noticed } }

/-- The reset state with pins of bank 70, one of them on its way out or home, or neither. -/
def pinState (leaving home : Bool) : State :=
  let p : Pin := { context := 5, entry := 3, region := 9, bank := 70 }
  { State.reset with fabric := { State.reset.fabric with
      pins := { p with home } :: if leaving then [{ p with context := 6, entry := 1, leaving := true }] else [] } }

theorem hyps_MarketSteps : (marketState false false false).market.running = true ∧ (marketState false false false).market.closed = false ∧
    (marketState true false false).market.closed = true ∧ (marketState true false false).market.cleared = false ∧
    (marketState true true false).market.cleared = true ∧
    (let s := { marketState true true true with market := { (marketState true true true).market with next := [(unitKey 0 0, contextKey 0 0 0)] } }
     s.market.noticed = true ∧ s.market.leaving = [] ∧
      (s.gangs.all fun (g : Nat × Gang) => s.market.next.get? (unitKey 0 g.2.cluster) == some (s.gangContext g.2)) = true ∧
      (let s := { s with market := { s.market with leaving := [unitKey 0 5] } }
       ∀ g ∈ s.gangs, unitKey 0 g.2.cluster ∉ s.market.leaving)) ∧
    (State.reset.regs.any fun e => e.1 == packageBase + 0x4000 + 168 * 5) = false ∧
    (let s := State.reset.setReg (packageBase + 0x4000 + 168 * 5) 69
     (s.regs.any fun e => e.1 == packageBase + 0x4000 + 168 * 5) = true ∧ bits (s.reg (packageBase + 0x4000 + 168 * 5)) 15 0 ≠ 5) ∧
    State.reset.writeMask .level0 packageWindow ≠ 0 ∧ State.reset.writeMask .level0 (partWindow 5) ≠ 0 ∧ partWindow 5 ≠ packageWindow ∧
    7 < 8 * unitsPerDie 0 ∧ unitKey 0 7 ∉ State.reset.retired ∧ unitKey 0 7 ∉ State.reset.retiring ∧
    unitKey 0 7 ∈ ({ State.reset with retiring := [unitKey 0 7] } : State).retiring ∧
    (let waits := fun (p : Pin) => p.context == 5 && p.bank / 64 == 1 && p.entry == 3 && !p.leaving && !p.home
     [(pinState false false).fabric.pins.map waits, (pinState true false).fabric.pins.map waits, (pinState true true).fabric.pins.map waits] =
        [[true], [true, false], [false, false]] ∧
      (pinState true false).fabric.pins.any (fun p => p.leaving && p.bank == 70) = true) := by decide +kernel

/-- The market past its notices with a die late, or past its boundary with that die's own notice. -/
def lateState (noticed : Bool) : State :=
  { State.reset with
    gangs := [(2, { launch := 1, index := 0, ticket := 1, age := 0, cluster := 0, teams := [] })]
    leases := [(unitKey 0 0, 4)]
    market := { running := true, cleared := true, noticed, lateNoticed := !noticed, late := [7], next := [(unitKey 0 0, contextKey 0 0 0)] } }

theorem hyps_MarketSteps_late : (marketState false false false).market.late = [] ∧ (marketState true true false).market.noticed = false ∧
    (lateState true).market.late ≠ [] ∧ (lateState true).market.noticed = true ∧ (lateState false).market.noticed = false ∧
    (lateState false).market.lateNoticed = true ∧ (lateState false).market.leaving = [] ∧ Tbl.sorted (lateState false).market.next = true ∧
    Tbl.sorted (lateState false).leases = true ∧
    ((lateState false).gangs.all fun (g : Nat × Gang) => !(lateState false).market.late.contains (g.2.cluster / 20)) = true ∧
    ((lateState true).gangs.all fun (g : Nat × Gang) => !(lateState true).market.leaving.contains (unitKey 0 g.2.cluster) &&
      (lateState true).market.next.get? (unitKey 0 g.2.cluster) == some ((lateState true).gangContext g.2)) = true ∧
    (marketState true true true).market.late = [] ∧ Tbl.sorted (marketState true true true).market.spotNext = true ∧
    Tbl.sorted (marketState true true true).market.pricesNext = true := by decide +kernel

theorem hyps_MarketSteps_answers : exporting.reachesPeer 9 = true ∧ State.reset.reachesPeer 9 = false ∧
    (exporting.regs.any fun e => e.1 == packageBase + 0x4000 + 168 * 9) = false ∧
    (let s := exporting.setReg (packageBase + 0x4000 + 168 * 9) 69
     (s.regs.any fun e => e.1 == packageBase + 0x4000 + 168 * 9) = true ∧ bits (s.reg (packageBase + 0x4000 + 168 * 9)) 15 0 ≠ 9 ∧
      s.reachesPeer 9 = true) ∧
    has (State.reset.reg (packageWindow + 0x20)) 63 = false ∧
    (let s := State.reset.setReg (packageWindow + 0x20) 0x8000000000000000#64
     s.writeMask .level0 packageWindow ≠ 0 ∧ has (s.reg (packageWindow + 0x20)) 63 = true) := by decide +kernel

/-- A page of 4 KiB at 0x50000 with ZP set, whose leaf lies at 0x40000. -/
def scrubbing : State :=
  { State.reset.homePuts 0 0x40000 (leBytes 0x5030F 8) with scrubs := [{ job := 0, vf := 0, leaf := 0x40000, size := 4096, ppa := 0 }] }

theorem hyps_RailsLinksAndFailures : (let s := scrubbing
     let e := s.homeWord 0 0x40000
     frameOf e = 0x50000 ∧ e.testBit 9 = true ∧ keySlot e = 0 ∧ spanGroup 0x40000 e = [0x40000] ∧ isHbm (frameOf e + 4096) = true ∧ isHbm 0x40000 = true ∧ dieOfPa (frameOf e) = 0) ∧
    (let s := State.reset.setRail 7 3 { state := 1, change := 2 }
     (s.rail 7 3).state = 1 ∧ (s.railClusters 7 3).all (fun c => (s.cluster c).withdraw == 0) = true) ∧
    State.reset.scrubs = [] ∧ ((State.reset.setRail 7 3 { state := 2, change := 2 }).rail 7 3).state = 2 ∧ ((State.reset.setRail 7 3 { state := 3 }).rail 7 3).state = 3 ∧
    (let s := { State.reset with launches := [(1, { programLaunch with podCount := 2, routers := put programLaunch.routers 0 { scope := some 6 } })] }
     (s.launches.filter fun l => l.2.ended.isNone && s.needsPod l.1 l.2).map (fun l => l.1) = [1] ∧ Tbl.sorted s.launches = true) := by
  decide +kernel

theorem hyps_RailsLinksAndFailures_places : isHbm 0xBFFFFFFFFF = true ∧ isHbm 0xC000000000 = false ∧
    (let s := { exporting with peers := [(0, (9, 0)), (1, (9, 0))] }
     let s := s.setReg podCfg (s.reg podCfg ||| 0x200000000#64)
     let down := fun (s : State) => { s.setReg podCfg (s.reg podCfg &&& ~~~0x100000000#64) with peers := s.peers.erase 0 }
     s.peers.get? 0 = some (9, 0) ∧ bits (s.reg podCfg) 31 16 = 0 ∧ (down s).reachesPeer 9 = true ∧
      exporting.peers.get? 0 = some (9, 0) ∧ bits (exporting.reg podCfg) 31 16 = 0 ∧ (down exporting).reachesPeer 9 = false) := by
  decide +kernel

/-- A session of interface 63 of partition 31, in key slot 63, at a point of its queue. -/
def sessionState (expect : Option Nat) (state : Nat) : State :=
  let c := contextKey 31 63 0
  { State.reset with
    contexts := [(c, { isProtected := true, keySlot := 63, expect })]
    keys := [(63, 8)]
    gangs := [(2, { launch := 1, index := 0, ticket := 1, age := 0, cluster := 0, teams := [] })]
    launches := [(1, { programLaunch with context := c })]
    regs := State.reset.regs.set (ifaceBase 31 63 + 0x030) (BitVec.ofNat 64 (state * 2 ^ 62)) }

theorem hyps_SessionsAndQueue : has (State.reset.reg (keySlotReg 63)) 57 = false ∧ State.reset.contextsIn 31 63 = [] ∧
    (let s := sessionState (some 5) 0
     (s.context (contextKey 31 63 0)).isProtected = true ∧ s.session 31 63 = 0 ∧ (s.context (contextKey 31 63 0)).expect = some 5 ∧
      (s.gangs.any fun g => s.gangContext g.2 == contextKey 31 63 0) = true ∧ Tbl.sorted s.contexts = true ∧ Tbl.sorted s.keys = true) ∧
    (sessionState none 1).session 31 63 = 1 ∧ (sessionState none 2).session 31 63 = 2 ∧
    ((sessionState none 2).context (contextKey 31 63 0)).keySlot < 64 ∧
    ((sessionState none 2).context (contextKey 31 63 0)).isProtected = true ∧ ((sessionState none 2).context (contextKey 31 63 0)).expect = none ∧
    (State.reset.context (contextKey 31 63 0)).isProtected = false := by decide +kernel

theorem hyps_SessionsAndQueue_states : (sessionState (some 5) 0).session 31 63 ≠ 2 ∧ (sessionState none 2).session 31 63 = 2 ∧
    (sessionState (some 5) 0).session 31 63 ≠ 3 ∧ (4#64).toNat < 5 ∧ 5 < (6#64).toNat ∧ (5#64).toNat = 5 ∧ (0x1000000#64).toNat % 64 = 0 ∧
    (0x1000000#64).toNat ≤ 2 ^ 24 ∧ (0x1000001#64).toNat % 64 ≠ 0 ∧ 2 ^ 24 < (0x1000040#64).toNat := by decide +kernel

/-! ## Statements about commands, the start, registers and steps: states that meet their hypotheses -/

theorem hyps_ClearingAwards : (0 : Nat) < 32 := by decide

/-- The reset state with RIGHTS1 of partition 31. -/
def rights (v : DWord) : State := State.reset.setReg (partBase 31) v

theorem hyps_WindowCommands : State.reset.writeMask (.level2 31 63) (partWindow 31) = 0 ∧
    State.reset.writeMask .level0 (ifaceWindow 31 63) ≠ 0 ∧ State.reset.writeMask (.level2 31 63) (ifaceWindow 31 63) ≠ 0 ∧
    State.reset.holds .level0 31 63 0 = true ∧ State.reset.holds (.level2 31 63) 31 63 0 = false ∧ (rights 1).holds .level0 31 63 0 = false ∧
    (rights 1).holds (.level1 31) 31 63 0 = true ∧ State.reset.writeMask (.level1 31) (partWindow 31) ≠ 0 ∧
    State.reset.ownsStage2 .level0 31 = true ∧ State.reset.ownsStage2 (.level1 31) 31 = false ∧
    State.reset.mayCheckpoint .level0 31 = true ∧ State.reset.mayCheckpoint (.level1 31) 31 = false ∧
    (rights 0x40).mayCheckpoint (.level1 31) 31 = true ∧ State.reset.ownsKey .level0 63 = true ∧
    (let s := State.reset.setReg (packageBase + 0x10) 4
     s.writeMask .pf1 packageWindow ≠ 0 ∧ s.ownsKey .pf1 63 = false) ∧ State.reset.partGangs 31 = [] ∧
    (State.reset.checkpointHeader 31 1 0 true).length = 64 ∧ Tbl.sorted State.reset.contexts = true ∧ has (State.reset.reg (keySlotReg 63)) 57 = false ∧
    has ((State.reset.setReg (keySlotReg 63) 0x0200000000000000#64).reg (keySlotReg 63)) 57 = true ∧ Tbl.sorted State.reset.keys = true ∧
    (0#64).toNat + (0x1000000000000#64).toNat ≤ 2 ^ 48 ∧ 2 ^ 48 < (1#64).toNat + (0x1000000000000#64).toNat := by decide +kernel

/-- A partition of one page of 1 GiB, with a list of one checkpoint at 0x80000. -/
def checkpointed : State :=
  { State.reset with
    regs := [(partBase 0 + 0x508, 0x20001#64)]
    mem := [(0x20000, 0x01), (0x20001, 0x10), (0x20002, 0x02), (0x21000, 0x8F), (0x21001, 0x01), (0x80002, 0x09), (0x90000, 0x07),
      (0x90008, 0x01), (0x90018, 0x18), (0x90038, 0x09)] }

theorem shape_checkpointed : checkpointed.shape 0 = leBytes 0 16 ++ leBytes 9 8 := by decide +kernel

theorem hyps_WindowCommands_restore : checkpointed.partWord 0 0x80000 = 0x90000 ∧ (checkpointed.readCheckpoint 0 0x90000).sameShape = true ∧
    (checkpointed.readCheckpoint 0 0x90000).full = true ∧ chainOk [checkpointed.readCheckpoint 0 0x90000] = true ∧
    (checkpointed.readCheckpoint 0 0x90000).granules = 0 ∧ (checkpointed.readCheckpoint 0 0x98000).sameShape = false ∧ chainOk [] = false ∧
    checkpointed.partGangs 0 = [] ∧ Tbl.sorted checkpointed.contexts = true ∧ (checkpointed.parts.getD 0 {}).snapshots = [] := by
  refine ⟨by decide +kernel, ?_, by decide +kernel, ?_, by decide +kernel, ?_, rfl, rfl, rfl, rfl⟩
  · simp only [State.readCheckpoint, shape_checkpointed]; decide +kernel
  · simp only [chainOk, List.all_nil, Bool.and_true, List.zip_nil_right]; decide +kernel
  · simp only [State.readCheckpoint, shape_checkpointed]; decide +kernel

theorem hyps_WindowCommands_busy : (let s := State.reset.setReg (partWindow 31 + 0x20) 0x8000000000000000#64
     s.writeMask .level0 (partWindow 31) ≠ 0 ∧ has (s.reg (partWindow 31 + 0x20)) 63 = true) ∧
    has (State.reset.reg (partWindow 31 + 0x20)) 63 = false ∧ (State.reset.quiesce 31).partGangs 31 = [] ∧
    State.reset.recovering = false ∧ isWindow packageWindow = true ∧ isWindow (partWindow 31) = true ∧ isWindow (ifaceWindow 31 63) = true ∧
    isWindow (packageWindow + 8) = false ∧ (0#64).toNat ∉ commandCodes ∧ (0x32#64).toNat ∈ commandCodes ∧
    (State.reset.setReg bootStat (bootWord 2 0 3 0 0)).recovering = true ∧ Tbl.sorted State.reset.launches = true := by decide +kernel

theorem hyps_PackageStarts : State.reset.fails < 3 ∧ 3 ≤ ({ State.reset with fails := 3 } : State).fails ∧
    (let good := fun (n : Nat) => Config.imageReason (State.reset.flashCopy (2 * n)) = 0 ∨ Config.imageReason (State.reset.flashCopy (2 * n + 1)) = 0
     (∀ n, n < 3 → good n) ∨ ∃ n, n < 3 ∧ (∀ j, j < n → good j) ∧ ¬ good n) ∧
    bits (State.reset.reg bootStat) 15 14 = 0 ∧ bits ((State.reset.setReg bootStat 0x8000).reg bootStat) 15 14 ≠ 0 ∧
    field (State.reset.setReg (packageBase + 0x300) 0x501).mailIn 1 1 < 6 ∧
    6 ≤ field (State.reset.setReg (packageBase + 0x300) 0x601).mailIn 1 1 := by
  refine ⟨by decide, by decide, ?_, by decide +kernel, by decide +kernel, by decide +kernel, by decide +kernel⟩
  intro good
  by_cases h0 : good 0
  · by_cases h1 : good 1
    · by_cases h2 : good 2
      · exact .inl fun n hn => by
          rcases Nat.lt_or_ge n 1 with h | h
          · rw [show n = 0 by omega]; exact h0
          · rcases Nat.lt_or_ge n 2 with h | h
            · rw [show n = 1 by omega]; exact h1
            · rw [show n = 2 by omega]; exact h2
      · exact .inr ⟨2, by decide, fun j hj => by
          rcases Nat.lt_or_ge j 1 with h | h
          · rw [show j = 0 by omega]; exact h0
          · rw [show j = 1 by omega]; exact h1, h2⟩
    · exact .inr ⟨1, by decide, fun j hj => by rw [show j = 0 by omega]; exact h0, h1⟩
  · exact .inr ⟨0, by decide, fun j hj => by omega, h0⟩

theorem hyps_PackageStarts_restart : ({ State.reset with fails := 3, restarting := true } : State).restarting = true ∧
    ¬ (({ State.reset with fails := 3 } : State).fails < 3 ∨ ({ State.reset with fails := 3 } : State).restarting = true) ∧
    bits (State.reset.reg bootStat) 7 0 = 0 ∧ bits ((State.reset.setReg bootStat (bootWord 0 3 1 0 4)).reg bootStat) 7 0 ≠ 0 := by
  decide +kernel

theorem hyps_RegisterWrites : ignoredValue (packageBase + 0x8) 250 = false ∧ ignoredValue (packageBase + 0x8) 249 = true ∧
    ignoredValue (packageBase + 0x10) 15 = false ∧ isIface (ifaceBase 31 63) = true ∧ ifaceOf (ifaceBase 31 63) = (31, 63) ∧
    (State.reset.ringAt (packageBase + 0x200)).off = packageBase + 0x200 ∧
    State.reset.writeMask .level0 (packageBase + 0x208) &&& 0xFFFF#64 = 0xFFFF#64 ∧
    State.reset.recovering = false ∧ (State.reset.setReg bootStat (bootWord 2 0 3 0 0)).recovering = true ∧
    inRecovery .level0 (packageBase + 0x8) = false ∧
    State.reset.writeMask .pf1 (packageBase + 0x208) &&& 0xFFFF#64 ≠ 0xFFFF#64 ∧ (∀ w ∈ State.reset.waiting, w.queue ≠ packageBase + 0x200) := by
  decide +kernel

theorem hyps_RegisterWrites_posts : isWindow packageWindow = true ∧ isWindow (partWindow 31) = true ∧ isWindow (ifaceWindow 31 63) = true ∧
    ([packageWindow, partWindow 31, ifaceWindow 31 63].all fun win =>
      State.reset.writeMask .level0 (win + 0x18) != 0 && [1, 2, 3, 4, 0x20, 0x21, 0x30, 0x31, 0x32, 0x10, 0x11, 0x12, 0, 0x33].all fun c =>
        ((State.reset.writeBits (win + 0x18) (State.reset.writeMask .level0 (win + 0x18)) (BitVec.ofNat 64 c)).reg (win + 0x18)).toNat == c) = true ∧
    (let s := memoryState 0
     let s := s.setReg window0 1
     let s1 := s.writeBits (window0 + 0x18) (s.writeMask .level0 (window0 + 0x18)) 0x10
     (s1.launchNamed (contextKey 0 0 (bits (s1.reg (window0 + 8)) 17 16)) (s1.reg window0).toNat).isSome = true) ∧
    has (State.reset.reg (packageWindow + 0x20)) 63 = false ∧
    has ((State.reset.setReg (packageWindow + 0x20) 0x8000000000000000#64).reg (packageWindow + 0x20)) 63 = true ∧
    isWindow (packageBase + 0x8 - 0x18) = false ∧ State.reset.writeMask (.level1 3) (packageWindow + 0x18) = 0 ∧
    ([0, 1, 2, 3, 4, 5].all fun c => field (State.reset.setReg (packageBase + 0x300) (BitVec.ofNat 64 c)).mailIn 0 1 == c) = true := by
  decide +kernel

theorem hyps_RuledRegisters : State.reset.recovering = false ∧ (State.reset.setReg bootStat (bootWord 2 0 3 0 0)).recovering = true ∧
    (memoryState 0).recovering = false ∧ (rights 6).recovering = false ∧ isIface (contextBase 0) = true ∧ 0x4000 ≤ inIface (contextBase 0) ∧ inIface (contextBase 0) < 0x10000 ∧
    contextBase 0 % 8 = 0 ∧ (∀ x ∈ State.reset.teams, x.2.core ≠ 0) ∧
    (let s := memoryState 0
     let s := { s with regs := s.regs.set (contextBase 0) 0x1000000#64 }
     (∃ x ∈ s.teams, dieOf x.2.core = 0 ∧ ((s.gangs.get? x.2.gang).map s.gangContext) = some 0) ∧ has (s.reg (contextBase 0)) 24 = true) ∧
    (∀ d, d < 8 → ((List.range 32).map fun x =>
        bits (if x = 31 then 0x1400000000000014#64 else State.reset.reg (partBase x + 0x400)) (8 * d + 7) (8 * d)).sum ≤ State.reset.inService 0 d) ∧
    (¬ ∀ d, d < 8 → ((List.range 32).map fun x =>
        bits (if x = 31 then 0x1500000000000000#64 else State.reset.reg (partBase x + 0x400)) (8 * d + 7) (8 * d)).sum ≤ State.reset.inService 0 d) ∧
    bits (64#64) 6 0 ≤ 64 ∧ ¬ (1 ≤ bits (0#64) 6 0) ∧ ¬ bits (65#64) 6 0 ≤ 64 ∧
    (let s := { State.reset with leases := [(unitKey 4 0, contextKey 1 0 0), (unitKey 4 128, contextKey 1 0 0)] }
     (∀ l ∈ circuitLanes 0x8000000080004000#64, ∃ c, s.leaseOf 4 l = some c ∧ contextVf c = bits 0x8000000080004000#64 35 31 ∧
        contextIface c = bits 0x8000000080004000#64 55 36) ∧ (circuitLanes 0x8000000080004000#64).Nodup) ∧
    State.reset.handed .level0 31 1 = true ∧ State.reset.handed .level0 31 2 = true ∧ (rights 6).handed .level0 31 1 = false ∧
    (rights 6).handed .level0 31 2 = false ∧ (rights 6).handed (.level1 31) 31 1 = true ∧
    State.reset.pf1Has .pf1 31 3 = false ∧ has ((rights 0x40).reg (partBase 31)) 6 = true ∧
    ((State.reset.parts.getD 31 {}).reserve.getD 0 []).length < 4096 ∧ ((State.reset.parts.getD 31 {}).returned.getD 7 []) = [] := by
  decide +kernel

theorem hyps_RuledRegisters_banks : (let s := memoryState 0
     let s := { s with regs := (s.regs.set (contextBase 0) 0x1000000#64).set (contextBase 0 + 8) 0x8000000000000100#64 }
     (s.reg (contextBase 0 + 0x508) ≠ 0 ∨ (1#64) ≠ 0) ∧
     (s.teams.any fun x => s.physDie? 0 0 == some (dieOf x.2.core) && ((s.gangs.get? x.2.gang).map s.gangContext) == some 0) = true ∧
     (s.teams.all fun x => s.physDie? 0 7 != some (dieOf x.2.core)) = true) := by decide +kernel

theorem hyps_StepRunsTheWord : (let s := State.reset.load 0x0014C070 0
     s.agenda = [] ∧ s.powered = true ∧ (at' (s.core (s.turn / 4)).quarters (s.turn % 4) {}).chosen = some (4, 0) ∧
      (s.squads.get? 4).any (fun q => q.mayIssue 0 && !s.paused q.core && (q.split? 0).any fun p =>
        p.wait.isNone && !p.held && p.clause.any fun c => (c.words.drop (indexOf p.pos)) == [0x0014C070#32] &&
          (c.items (indexOf p.pos)).any fun x => x.1 == indexOf p.pos) = true) := by decide +kernel

theorem hyps_StepRunsTheWord_fetch : (let s := base 0x0014C070 0
     let a := headerOf (me s).split.pos
     (∀ j, j ≤ 1 → inPodWindow (a + 4 * j) = false ∧ s.tlbHit 0 0 0 0 (a + 4 * j) .fetch = some programPage) ∧
      BitVec.ofNat 32 (leNat (s.homeLoad (programPage.xlateFor 0 a) 4)) = 0xF8000FF0#32 ∧ fld 0xF8000FF0#32 27 5 = 0x1F#5) := by decide +kernel

theorem hyps_EncodedWordsDecode : isWord (.acas 28 27 7 30 1) = true ∧ (Instr.acas 28 27 7 30 1).wf = true ∧ isWord (.setm 0xFFFFFFFF) = true ∧
    (Instr.setm 0xFFFFFFFF).wf = true := by decide +kernel

theorem hyps_StepKeepsMemoryCanonical : Memory.wf (State.reset.load 0x0014C070 0).mem = true ∧
    isNext (step (State.reset.load 0x0014C070 0)) = true := by decide +kernel

/-! ## One step -/

/-- A scalar register of the loaded program's squad after one step. -/
def sregAfter (s : State) (r : Nat) : Option DWord := (squadAfter (step s)).map fun q => q.sreg r

-- R77: s5 := s6 + s7 wraps. The sum is worked out by hand.
theorem test_sadd_wraps : sregAfter (squadIs (State.reset.load 0x0014C070 0) fun q =>
    (q.setSreg 6 0xFFFFFFFFFFFFFFFF).setSreg 7 3) 5 = some 2 := by decide +kernel

-- R78: division by zero gives all ones and goes on.
theorem test_sdiv_zero : (squadAfter (exec (.sdiv 5 6 (.reg 7)) (squadIs (base 0 0) fun q => q.setSreg 6 9))).map
    (fun q => (q.sreg 5, q.active)) = some (0xFFFFFFFFFFFFFFFF, false) := by decide +kernel

-- R82: a branch by two words from a header at 0x10000 goes to 0x10008.
theorem test_bra : ((squadAfter (exec (.bra 2) (base 0 0))).bind fun q => (q.split? 0).map (·.pos)) = some 0x10008 := by decide +kernel

-- R95: a trap of a squad with a handler saves the position after it, the next clause, and its value.
theorem test_trap : (squadAfter (exec (.trap 0x2A) (squadIs (base 0 0) fun q => { q with tvec := 0x30000 }))).map
    (fun q => (q.active, q.tval, q.tpc)) = some (true, 0x2A, 0x10008) := by decide +kernel

-- R125: float32 1.0 + 1.0 is 2.0 in lane 31.
theorem test_vadd : (squadAfter (exec (.vadd 5 v1 v1) (squadIs (base 0 0) fun q => { q with
    vregs := put q.vregs 1 (some ⟨1, lanesOf fun _ => 0x3F800000#32⟩) }))).map (fun q => lane (q.vreg 5) 31) = some 0x40000000 := by
  decide +kernel

-- R103: a signalling NaN gives the canonical NaN and sets FSTAT bit 0, invalid.
theorem test_vadd_nan : (squadAfter (exec (.vadd 5 v1 v1) (nanIn false))).map (fun q => (lane (q.vreg 5) 0, q.fstat)) = some (0x7FC00000, 1) := by
  decide +kernel

end Sys2Proof.Tests
end

section
/-! SUPPORT, and the proof of O54. Register words by their bits, writes of registers, rings and fault records, and the registers of the
command windows. -/

namespace Sys2Proof.Machine

/-! ## Bits of a register word -/

theorem dword_ext {v w : DWord} (h : ∀ k, has v k = has w k) : v = w := BitVec.eq_of_getLsbD_eq fun k _ => h k

theorem has_eq_false {v : DWord} {k : Nat} (h : 64 ≤ k) : has v k = false := BitVec.getLsbD_of_ge v k h

theorem has_eq_testBit (v : DWord) (k : Nat) : has v k = v.toNat.testBit k := rfl

theorem has_field64 {hi : Nat} (h : hi < 64) (lo k : Nat) : has (field64 hi lo) k = decide (lo ≤ k ∧ k ≤ hi) := by
  rw [Bool.eq_iff_iff]
  simp [field64, has, BitVec.getLsbD_ofNat, Nat.testBit_mul_two_pow]
  omega

theorem testBit_bits (v : DWord) (hi lo k : Nat) : (bits v hi lo).testBit k = (decide (k < hi + 1 - lo) && has v (lo + k)) := by
  rw [bits, Nat.testBit_mod_two_pow, Nat.testBit_div_two_pow, has_eq_testBit, Nat.add_comm k lo]

/-- Two words agree in a range of bits just when each bit of the range agrees. -/
theorem bits_eq_iff (v w : DWord) (hi lo : Nat) :
    bits v hi lo = bits w hi lo ↔ ∀ k, lo ≤ k → k ≤ hi → has v k = has w k := by
  constructor
  · intro h k hlo hhi
    have hk := congrArg (fun n => n.testBit (k - lo)) h
    simp only [testBit_bits, Nat.add_sub_of_le hlo] at hk
    simpa [show k - lo < hi + 1 - lo by omega] using hk
  · intro h
    refine Nat.eq_of_testBit_eq fun k => ?_
    rw [testBit_bits, testBit_bits]
    by_cases hk : k < hi + 1 - lo
    · rw [h (lo + k) (by omega) (by omega)]
    · simp [hk]

theorem has_withBits (v : DWord) {hi : Nat} (h : hi < 64) (lo x k : Nat) :
    has (withBits v hi lo x) k = if lo ≤ k ∧ k ≤ hi then x.testBit (k - lo) else has v k := by
  have hm := has_field64 h lo k
  simp only [field64, has] at hm ⊢
  simp only [withBits, BitVec.getLsbD_or, BitVec.getLsbD_and, BitVec.getLsbD_not, hm, BitVec.getLsbD_ofNat, Nat.testBit_mul_two_pow]
  by_cases hk : lo ≤ k ∧ k ≤ hi
  · simp [hk, show k < 64 by omega]
  · by_cases h64 : k < 64
    · simp [hk, h64]
    · simp [hk, BitVec.getLsbD_of_ge v k (by omega)]

theorem bits_withBits_self (v : DWord) {hi lo x : Nat} (h : hi < 64) (hx : x < 2 ^ (hi + 1 - lo)) :
    bits (withBits v hi lo x) hi lo = x := by
  refine Nat.eq_of_testBit_eq fun k => ?_
  rw [testBit_bits, has_withBits v h]
  by_cases hk : k < hi + 1 - lo
  · simp [hk, show lo + k ≤ hi by omega]
  · have : x < 2 ^ k := Nat.lt_of_lt_of_le hx (Nat.pow_le_pow_right (by omega) (by omega))
    simp [hk, Nat.testBit_lt_two_pow this]

/-- Bits outside the range that is replaced keep their value. -/
theorem bits_withBits_disjoint (v : DWord) {hi lo hi' lo' : Nat} (x : Nat) (h : hi < 64) (hd : hi' < lo ∨ hi < lo') :
    bits (withBits v hi lo x) hi' lo' = bits v hi' lo' := by
  refine (bits_eq_iff _ _ _ _).mpr fun k hlo hhi => ?_
  rw [has_withBits v h, if_neg (by omega)]

theorem bits_ofNat {x : Nat} (h : x < 2 ^ 64) (hi lo : Nat) : bits (BitVec.ofNat 64 x) hi lo = x / 2 ^ lo % 2 ^ (hi + 1 - lo) := by
  rw [bits, BitVec.toNat_ofNat, Nat.mod_eq_of_lt h]

/-- The bits of a mask from one word, the others from another. -/
theorem has_merge (old m v : DWord) (k : Nat) : has ((old &&& ~~~m) ||| (v &&& m)) k = if has m k then has v k else has old k := by
  by_cases hk : k < 64
  · simp only [has, BitVec.getLsbD_or, BitVec.getLsbD_and, BitVec.getLsbD_not, hk, decide_true, Bool.true_and]
    by_cases hm : m.getLsbD k = true <;> simp [hm]
  · simp [has_eq_false (Nat.le_of_not_lt hk)]

/-! ## Writes of software -/

@[simp] theorem reg_writeBits_self (s : State) (off : Nat) (m v : DWord) :
    (s.writeBits off m v).reg off = (s.reg off &&& ~~~m) ||| (v &&& m) := by
  unfold State.writeBits
  dsimp only
  split
  next h => exact h.symm
  next => rw [State.reg_setReg, if_pos rfl]

theorem reg_writeBits_ne (s : State) {off a : Nat} (m v : DWord) (h : a ≠ off) : (s.writeBits off m v).reg a = s.reg a := by
  unfold State.writeBits
  dsimp only
  split
  next => rfl
  next => rw [State.reg_setReg, if_neg h]

theorem has_reg_writeBits (s : State) (off : Nat) (m v : DWord) (k : Nat) :
    has ((s.writeBits off m v).reg off) k = if has m k then has v k else has (s.reg off) k := by
  rw [reg_writeBits_self, has_merge]

/-- A write touches the registers alone. -/
theorem writeBits_rest (s : State) (off : Nat) (m v : DWord) : ∃ r, s.writeBits off m v = { s with regs := r } := by
  unfold State.writeBits
  dsimp only
  split
  · exact ⟨s.regs, rfl⟩
  · exact ⟨_, rfl⟩

@[simp] theorem writeBits_mem (s : State) (off : Nat) (m v : DWord) : (s.writeBits off m v).mem = s.mem := by
  obtain ⟨r, h⟩ := writeBits_rest s off m v
  rw [h]

@[simp] theorem writeBits_squads (s : State) (off : Nat) (m v : DWord) : (s.writeBits off m v).squads = s.squads := by
  obtain ⟨r, h⟩ := writeBits_rest s off m v
  rw [h]

/-- An agent that may write no bit writes nothing. -/
theorem writeBits_zero (s : State) (off : Nat) (v : DWord) : s.writeBits off 0 v = s := by
  have same : (s.reg off &&& ~~~(0 : DWord)) ||| (v &&& 0) = s.reg off := dword_ext fun k => by
    rw [has_merge, if_neg (by simp [has])]
  exact if_pos same

/-- A write that changes no bit of the field leaves the state as it is. -/
theorem writeBits_field64 (s : State) (off : Nat) {hi : Nat} (lo : Nat) (h : hi < 64) (v : DWord) :
    s.writeBits off (field64 hi lo) v = if bits (s.reg off) hi lo = bits v hi lo then s
      else s.setReg off ((s.reg off &&& ~~~field64 hi lo) ||| (v &&& field64 hi lo)) := by
  have same : (s.reg off &&& ~~~field64 hi lo) ||| (v &&& field64 hi lo) = s.reg off ↔ bits (s.reg off) hi lo = bits v hi lo := by
    rw [bits_eq_iff]
    constructor
    · intro e k hlo hhi
      have hk := has_merge (s.reg off) (field64 hi lo) v k
      rwa [e, has_field64 h, if_pos (by simp [hlo, hhi])] at hk
    · intro e
      refine dword_ext fun k => ?_
      rw [has_merge, has_field64 h]
      split
      next hk => exact (e k (of_decide_eq_true hk).1 (of_decide_eq_true hk).2).symm
      next => rfl
  simp only [State.writeBits, same]

/-- One write for each register of a list changes those registers alone. -/
theorem reg_foldl_writeBits_of_notMem (l : List Nat) (at_ : Nat → Nat) (m v : DWord) (s : State) {a : Nat} (h : ∀ i ∈ l, a ≠ at_ i) :
    (l.foldl (fun s i => s.writeBits (at_ i) m v) s).reg a = s.reg a := by
  refine List.foldlRecOn l _ (motive := fun (t : State) => t.reg a = s.reg a) rfl fun t ht i hi => ?_
  rw [reg_writeBits_ne t m v (h i hi), ht]

theorem reg_foldl_writeBits (l : List Nat) {at_ : Nat → Nat} (hat : Function.Injective at_) (hl : l.Nodup) (m v : DWord) (s : State)
    {i : Nat} (h : i ∈ l) :
    (l.foldl (fun s i => s.writeBits (at_ i) m v) s).reg (at_ i) = (s.reg (at_ i) &&& ~~~m) ||| (v &&& m) := by
  induction l generalizing s with
  | nil => cases h
  | cons j l ih =>
    obtain ⟨hj, hl⟩ := List.nodup_cons.mp hl
    rw [List.foldl_cons]
    rcases List.mem_cons.mp h with rfl | h
    · rw [reg_foldl_writeBits_of_notMem l at_ m v _ fun k hk e => hj (by rw [hat e]; exact hk), reg_writeBits_self]
    · have hne : at_ i ≠ at_ j := fun e => hj (hat e ▸ h)
      rw [ih hl _ h, reg_writeBits_ne s m v hne]

/-! ## Rings and fault records -/

theorem reg_ringPut (s : State) (r : Ring) (bytes : List Byte) (o : Nat) :
    (s.ringPut r bytes).reg o = if o = r.off + 8
      then withBits (s.reg (r.off + 8)) 31 16 ((bits (s.reg (r.off + 8)) 31 16 + 1) % 65536) else s.reg o := by
  unfold State.ringPut
  have hw := fun pa => (homeWrite_memoryOnly s 0 pa bytes).regs
  exact (State.reg_setReg _ _ o _).trans (by simp only [State.reg, hw])

theorem reg_postRecord_ne (s : State) {r : Ring} (bytes : List Byte) {o : Nat} (h : o ≠ r.off + 8) :
    (s.postRecord r bytes).reg o = s.reg o := by
  unfold State.postRecord
  split
  next => rw [reg_ringPut, if_neg h]
  next => rfl

/-- Where an owner's fault ring lies does not depend on the state. -/
theorem faultRing_off (s : State) (own : Agent) : (s.faultRing own).off = faultQueueOf own := by
  cases own <;> rfl

/-- The agents that may come to own the faults of an interface (R376). -/
def faultOwners (vf iface : Nat) : List Agent := [.level0, .pf1, .level1 vf, .level2 vf iface]

theorem faultOwner_mem (s : State) (vf iface : Nat) (f : WalkFault) : s.faultOwner vf iface f ∈ faultOwners vf iface := by
  generalize hb : (if f.stage = 0 then 2 else 0) = bit
  simp only [State.faultOwner, State.stage2Owner, hb, faultOwners, List.mem_cons, List.not_mem_nil, or_false]
  split
  next => split <;> simp
  next => split
          · simp
          · split <;> simp

theorem newOwner_mem (s : State) (x : Fault2) : s.newOwner x ∈ faultOwners (faultVf x.bytes) (faultIface x.bytes) :=
  faultOwner_mem s _ _ _

/-- Sending fault records again changes the fault rings of those who may own them, and no other register. -/
theorem reg_resendFaults (s : State) {p : Nat → Nat → Nat → Bool} {o : Nat}
    (h : ∀ vf iface stage, p vf iface stage = true → ∀ own ∈ faultOwners vf iface, o ≠ faultQueueOf own + 8) :
    (s.resendFaults p).reg o = s.reg o := by
  unfold State.resendFaults
  refine List.foldlRecOn _ _ (motive := fun (t : State) => t.reg o = s.reg o) rfl fun t ht c _ => ?_
  refine List.foldlRecOn _ _ (motive := fun (t : State) => t.reg o = s.reg o) ht fun t ht f _ => ?_
  dsimp only
  split
  next => exact ht
  next hp =>
    have hp := (not_or.mp hp).2
    rw [reg_postRecord_ne _ _ (by
      rw [faultRing_off]
      exact h _ _ _ (Bool.not_eq_false _ ▸ hp) _ (newOwner_mem t f.2))]
    exact ht

/-- Records that leave the device for a ring move its producer's index, and change no other bit of its consumer's index. -/
theorem bits_reg_drainWaiting (s : State) (r : Ring) (ws : List Waiting) (hr : isPart r.off = false → packageBase ≤ r.off) :
    bits ((s.drainWaiting r ws).reg (r.off + 8)) 15 0 = bits (s.reg (r.off + 8)) 15 0 := by
  induction ws generalizing s with
  | nil => rfl
  | cons w ws ih =>
    rw [State.drainWaiting]
    split
    next =>
      have hoff : (if isPart r.off then r else ring0 w.pf (r.off - packageBase)).off = r.off := by
        split
        next => rfl
        next hp => exact Nat.add_sub_of_le (hr (eq_false_of_ne_true hp))
      have put := reg_ringPut s (if isPart r.off then r else ring0 w.pf (r.off - packageBase)) w.bytes (r.off + 8)
      rw [hoff, if_pos rfl] at put
      refine (ih _).trans ?_
      exact (congrArg (bits · 15 0) put).trans (bits_withBits_disjoint _ _ (by decide) (by decide))
    next => exact ih s

/-- With no record waiting for the ring, nothing is appended. -/
theorem drainWaiting_of_none (s : State) (r : Ring) {ws : List Waiting} (h : ∀ w ∈ ws, w.queue ≠ r.off) : s.drainWaiting r ws = s := by
  induction ws with
  | nil => rfl
  | cons w ws ih =>
    rw [State.drainWaiting, if_neg fun hw => h w (by simp) hw.1]
    exact ih fun x hx => h x (by simp [hx])

/-! ## Offsets in the blocks of partitions and interfaces (R399, R400) -/

section Offsets
variable {vf i o : Nat}

theorem isPart_iff {off : Nat} : isPart off = true ↔ 0x10000000 ≤ off ∧ off < 0x20000000 := by
  simp [isPart]

theorem isIface_iff {off : Nat} : isIface off = true ↔ isPart off = true ∧ 0x100000 ≤ inPart off ∧ inPart off < 0x500000 := by
  simp [isIface, and_assoc]

theorem isPart_partBase (hv : vf < 32) (ho : o < 0x800000) : isPart (partBase vf + o) = true := by
  rw [isPart_iff, partBase]; omega

theorem inPart_partBase (ho : o < 0x800000) : inPart (partBase vf + o) = o := by
  simp only [inPart, partBase]; omega

theorem partOf_partBase (ho : o < 0x800000) : (partBase vf + o - 0x10000000) / 0x800000 = vf := by
  simp only [partBase]; omega

theorem isIface_partBase (hv : o < 0x100000) : isIface (partBase vf + o) = false := by
  rw [← Bool.not_eq_true, isIface_iff, inPart_partBase (by omega)]
  exact fun h => absurd h.2.1 (by omega)

theorem ifaceBase_add (vf i o : Nat) : ifaceBase vf i + o = partBase vf + (0x100000 + i * 0x10000 + o) := by
  simp only [ifaceBase]; omega

theorem isIface_ifaceBase (hv : vf < 32) (hi : i < 64) (ho : o < 0x10000) : isIface (ifaceBase vf i + o) = true := by
  have hp : 0x100000 + i * 0x10000 + o < 0x800000 := by omega
  rw [ifaceBase_add, isIface_iff, inPart_partBase hp]
  exact ⟨isPart_partBase hv hp, by omega⟩

theorem isPart_of_isIface {off : Nat} (h : isIface off = true) : isPart off = true :=
  (isIface_iff.mp h).1

theorem inIface_ifaceBase (hi : i < 64) (ho : o < 0x10000) : inIface (ifaceBase vf i + o) = o := by
  rw [ifaceBase_add, inIface, inPart_partBase (by omega)]; omega

theorem ifaceOf_ifaceBase (hi : i < 64) (ho : o < 0x10000) : ifaceOf (ifaceBase vf i + o) = (vf, i) := by
  rw [ifaceBase_add, ifaceOf, partOf_partBase (by omega), inPart_partBase (by omega)]
  exact Prod.ext rfl (by dsimp only; omega)

/-- The windows are the package's, one of each partition and one of each interface (R399). -/
theorem isWindow_iff {win : Nat} : isWindow win = true ↔
    win = packageWindow ∨ (∃ vf < 32, ∃ i < 64, win = ifaceWindow vf i) ∨ ∃ vf < 32, win = partWindow vf := by
  constructor
  · intro h
    simp only [isWindow, Bool.or_eq_true, Bool.and_eq_true, beq_iff_eq, isIface_iff, isPart_iff, inIface, inPart] at h
    rcases h with (h | ⟨⟨hp, hi⟩, ho⟩) | ⟨⟨hp, _⟩, ho⟩
    · exact .inl h
    · refine .inr (.inl ⟨(win - 0x10000000) / 0x800000, by omega,
        ((win - 0x10000000) % 0x800000 - 0x100000) / 0x10000, by omega, ?_⟩)
      simp only [ifaceWindow, ifaceBase, partBase]; omega
    · refine .inr (.inr ⟨(win - 0x10000000) / 0x800000, by omega, ?_⟩)
      simp only [partWindow, partBase]; omega
  · rintro (rfl | ⟨vf, hv, i, hi, rfl⟩ | ⟨vf, hv, rfl⟩)
    · rfl
    · simp [isWindow, ifaceWindow, isIface_ifaceBase hv hi, inIface_ifaceBase hi]
    · simp [isWindow, partWindow, isPart_partBase hv, isIface_partBase, inPart_partBase]

end Offsets

/-! ## Who writes the arguments and the code of a command window (R399, R403) -/

theorem inRecovery_iff {who : Agent} {off : Nat} : inRecovery who off = true ↔
    who = .level0 ∧ (off < packageBase ∨ packageBase + 0x300 ≤ off ∧ off < packageBase + 0x508) := by
  simp [inRecovery]

theorem inRecovery_false {who : Agent} {off : Nat} (h : packageBase + 0x508 ≤ off) : inRecovery who off = false := by
  rw [← Bool.not_eq_true, inRecovery_iff]
  omega

/-- The package's window lies below the blocks of the partitions, and every other within them. -/
theorem isWindow_place {win : Nat} (h : isWindow win = true) : win = packageBase + 0x100 ∨ 0x10000000 ≤ win := by
  rcases isWindow_iff.mp h with h | ⟨vf, _, i, _, rfl⟩ | ⟨vf, _, rfl⟩
  · exact .inl h
  · right; unfold ifaceWindow ifaceBase partBase; omega
  · right; unfold partWindow partBase; omega

theorem writeMask_ifaceWindow (s : State) (who : Agent) {vf i o : Nat} (hv : vf < 32) (hi : i < 64) (ho : o < 0x20) (h8 : o % 8 = 0) :
    s.writeMask who (ifaceWindow vf i + o) = if s.recovering then 0 else if owns who vf i then field64 63 0 else 0 := by
  have hoff : ifaceWindow vf i + o = ifaceBase vf i + (0x100 + o) := by simp only [ifaceWindow]; omega
  have h8' : (ifaceBase vf i + (0x100 + o)) % 8 = 0 := by simp only [ifaceBase, partBase]; omega
  have hrec : inRecovery who (ifaceBase vf i + (0x100 + o)) = false :=
    inRecovery_false (by simp only [ifaceBase, partBase, packageBase]; omega)
  have hmask : s.ifaceMask who (ifaceBase vf i + (0x100 + o)) = if owns who vf i then field64 63 0 else 0 := by
    simp only [State.ifaceMask, inIface_ifaceBase (vf := vf) hi (show 0x100 + o < 0x10000 by omega),
      ifaceOf_ifaceBase (vf := vf) hi (show 0x100 + o < 0x10000 by omega)]
    rw [if_neg (by omega), if_neg (by omega), if_neg (by omega), if_neg (by omega), if_neg (by omega), if_neg (by omega),
      if_pos (by omega)]
  rw [hoff, State.writeMask, isIface_ifaceBase hv hi (by omega), hrec, hmask]
  cases s.recovering <;> simp [h8']

theorem writeMask_partWindow (s : State) (who : Agent) {vf o : Nat} (hv : vf < 32) (ho : o < 0x20) (h8 : o % 8 = 0) :
    s.writeMask who (partWindow vf + o) = if s.recovering then 0
      else if who == .level0 || who == .level1 vf || s.pf1Has who vf 0 then field64 63 0 else 0 := by
  have hoff : partWindow vf + o = partBase vf + (0x600 + o) := by simp only [partWindow]; omega
  have h8' : (partBase vf + (0x600 + o)) % 8 = 0 := by simp only [partBase]; omega
  have hrec : inRecovery who (partBase vf + (0x600 + o)) = false :=
    inRecovery_false (by simp only [partBase, packageBase]; omega)
  have hmask : s.partMask who (partBase vf + (0x600 + o)) =
      if who == .level0 || who == .level1 vf || s.pf1Has who vf 0 then field64 63 0 else 0 := by
    simp only [State.partMask, inPart_partBase (vf := vf) (show 0x600 + o < 0x800000 by omega),
      partOf_partBase (vf := vf) (show 0x600 + o < 0x800000 by omega)]
    rw [if_neg (by omega), if_neg (by omega), if_neg (by omega), if_neg (by omega), if_neg (by omega), if_pos (by omega)]
  rw [hoff, State.writeMask, isIface_partBase (by omega), isPart_partBase hv (by omega), hrec, hmask]
  cases s.recovering <;> simp [h8']

theorem writeMask_packageWindow (s : State) (who : Agent) {o : Nat} (ho : o < 0x20) (h8 : o % 8 = 0) :
    s.writeMask who (packageWindow + o) = if s.recovering then 0
      else if who == .level0 || (who == .pf1 && has (s.reg (packageBase + 0x10)) 2) then field64 63 0 else 0 := by
  have hoff : packageWindow + o = packageBase + (0x100 + o) := Nat.add_assoc ..
  have h8' : (packageBase + (0x100 + o)) % 8 = 0 := by unfold packageBase; omega
  have hrec : inRecovery who (packageBase + (0x100 + o)) = false := by
    rw [← Bool.not_eq_true, inRecovery_iff]
    omega
  have hpart : isPart (packageBase + (0x100 + o)) = false := by
    rw [← Bool.not_eq_true, isPart_iff]
    unfold packageBase
    omega
  have hmask : s.packageMask who (packageBase + (0x100 + o)) =
      if who == .level0 || (who == .pf1 && has (s.reg (packageBase + 0x10)) 2) then field64 63 0 else 0 := by
    simp only [State.packageMask, Nat.add_sub_cancel_left]
    rw [if_neg (by omega), if_neg (by omega), if_neg (by omega), if_pos (by omega)]
  rw [hoff, State.writeMask, isIface, hpart, hrec, hmask, if_neg (c := 0x100000 ≤ _ ∧ _) (by unfold packageBase; omega),
    if_pos (c := packageBase ≤ _ ∧ _) (by omega)]
  cases s.recovering <;> simp [h8']

/-- Who writes a window's CMDCODE writes its arguments, also after that write. -/
theorem writeMask_after_code (s : State) (who : Agent) {win : Nat} (h : isWindow win = true) (m v : DWord) :
    (s.writeBits (win + 0x18) m v).writeMask who win = s.writeMask who (win + 0x18) := by
  have keeps : ∀ a, a < packageBase + 0x100 → (s.writeBits (win + 0x18) m v).reg a = s.reg a := fun a ha => by
    refine reg_writeBits_ne s m v ?_
    have hwin := isWindow_place h
    unfold packageBase at ha hwin
    omega
  have hrec : (s.writeBits (win + 0x18) m v).recovering = s.recovering := by
    rw [State.recovering, State.recovering, keeps _ (by omega)]
  rcases isWindow_iff.mp h with rfl | ⟨vf, hv, i, hi, rfl⟩ | ⟨vf, hv, rfl⟩
  · exact (writeMask_packageWindow _ who (o := 0) (by omega) rfl).trans
      (by rw [hrec, keeps _ (by omega), writeMask_packageWindow s who (by omega) rfl])
  · exact (writeMask_ifaceWindow _ who (o := 0) hv hi (by omega) rfl).trans
      (by rw [hrec, writeMask_ifaceWindow s who hv hi (by omega) rfl])
  · have hpf1 : (s.writeBits (partWindow vf + 0x18) m v).pf1Has who vf 0 = s.pf1Has who vf 0 := by
      rw [State.pf1Has, State.pf1Has, keeps _ (by omega), keeps _ (by omega)]
    exact (writeMask_partWindow _ who (o := 0) hv (by omega) rfl).trans
      (by rw [hrec, hpf1, writeMask_partWindow s who hv (by omega) rfl])

/-! ## Register writes (R8) -/

theorem ignoredValue_doorbell (v : DWord) : ignoredValue (packageBase + 0x500) v = false := by
  simp [ignoredValue, isIface, isPart, packageBase]

theorem ignoredValue_delegation (v : DWord) : ignoredValue (packageBase + 0x10) v = false := by
  simp [ignoredValue, isIface, isPart, packageBase]

/-- No value of a window's CMDCODE is out of range. -/
theorem ignoredValue_code {win : Nat} (h : isWindow win = true) (v : DWord) : ignoredValue (win + 0x18) v = false := by
  have hne : win + 0x18 ≠ packageBase + 0x8 ∧ win + 0x18 ≠ packageBase + 0x210 := by
    have hplace := isWindow_place h
    unfold packageBase at hplace ⊢
    omega
  simp only [ignoredValue, decide_eq_false hne.1, decide_eq_false hne.2]
  rcases isWindow_iff.mp h with h | ⟨vf, hv, i, hi, rfl⟩ | ⟨vf, hv, rfl⟩
  · have hpart : isPart (win + 0x18) = false := by
      rw [← Bool.not_eq_true, isPart_iff, h]
      unfold packageWindow packageBase
      omega
    simp [isIface, hpart]
  · simp [ifaceWindow, Nat.add_assoc, isIface_ifaceBase hv hi, inIface_ifaceBase hi]
  · simp [partWindow, Nat.add_assoc, isIface_partBase, inPart_partBase]

theorem writeMask_delegation (s : State) (who : Agent) : s.writeMask who (packageBase + 0x10) =
    if s.recovering then 0 else if who == .level0 then field64 3 0 else 0 := by
  have hrec : inRecovery who (packageBase + 0x10) = false := by simp [inRecovery, packageBase]
  rw [State.writeMask, hrec]
  cases s.recovering <;> simp [isIface, isPart, packageBase, State.packageMask]

theorem writeMask_interval (s : State) : s.writeMask .level0 (packageBase + 0x8) = if s.recovering then 0 else field64 14 0 := by
  have hrec : inRecovery .level0 (packageBase + 0x8) = false := by simp [inRecovery, packageBase]
  rw [State.writeMask, hrec]
  cases s.recovering <;> simp [isIface, isPart, packageBase, State.packageMask]

theorem writeMask_recovering {s : State} {who : Agent} {off : Nat} (h : s.recovering = true) (hin : inRecovery who off = false) :
    s.writeMask who off = 0 := by
  simp [State.writeMask, h, hin]

/-- The owner of one interface holds nothing in the block of another (R373). -/
theorem writeMask_other_iface (s : State) {vf iface off : Nat} (h : isIface off = true) (hne : (vf, iface) ≠ ifaceOf off) :
    s.writeMask (.level2 vf iface) off = 0 := by
  have hpair : (vf == (ifaceOf off).1 && iface == (ifaceOf off).2) = false := by
    rw [Bool.eq_false_iff]
    intro e
    simp only [Bool.and_eq_true, beq_iff_eq] at e
    exact hne (Prod.ext e.1 e.2)
  have howns : owns (.level2 vf iface) (ifaceOf off).1 (ifaceOf off).2 = false := hpair
  have hholds : ∀ bit, s.holds (.level2 vf iface) (ifaceOf off).1 (ifaceOf off).2 bit = false := fun bit => by
    simp [State.holds, hpair]
  have hzero : (Agent.level2 vf iface == .level0) = false := by simp
  have hone : ∀ bit, s.level1Has (.level2 vf iface) (ifaceOf off).1 bit = false := fun _ => rfl
  rw [State.writeMask, h]
  simp [State.ifaceMask, howns, hholds, hzero, hone]

theorem exec_registerWrite (who : Agent) (off : Nat) (v : DWord) (s : State) : exec (.registerWrite who off v) s =
    .next (if off = packageBase + 0x500 ∧ who = .level0 then s.ringDoorbell else s.writeRegister who off v) := rfl

theorem exec_registerWrite_of_not_doorbell {who : Agent} {off : Nat} (h : off = packageBase + 0x500 → who ≠ .level0) (v : DWord)
    (s : State) : exec (.registerWrite who off v) s = .next (s.writeRegister who off v) := by
  rw [exec_registerWrite, if_neg fun hd => h hd.1 hd.2]

theorem writeRegister_ignored {off : Nat} {v : DWord} (h : ignoredValue off v = true) (s : State) (who : Agent) :
    s.writeRegister who off v = s := by
  simp [State.writeRegister, h]

/-- A write that is neither PF1DELEG's nor a command's writes the agent's bits. -/
theorem writeRegister_plain {s : State} {who : Agent} {off : Nat} {v : DWord} (hv : ignoredValue off v = false)
    (hd : off ≠ packageBase + 0x10) (hw : isWindow (off - 0x18) = true → s.writeMask who off = 0) :
    s.writeRegister who off v = s.writeBits off (s.writeMask who off) v := by
  have hpost : ¬ ((s.writeMask who off != 0) && isWindow (off - 0x18)) = true := fun h => by
    obtain ⟨hm, hwin⟩ := (Bool.and_eq_true _ _).mp h
    exact bne_iff_ne.mp hm (hw hwin)
  simp only [State.writeRegister, hv, if_neg hd, if_neg hpost, Bool.false_eq_true, if_false]

/-- An agent that may write no bit of a register changes nothing by a write of it. -/
theorem writeRegister_closed {s : State} {who : Agent} {off : Nat} (hm : s.writeMask who off = 0) (hd : off ≠ packageBase + 0x10)
    (v : DWord) : s.writeRegister who off v = s := by
  cases hv : ignoredValue off v
  case true => exact writeRegister_ignored hv s who
  case false => rw [writeRegister_plain hv hd fun _ => hm, hm, writeBits_zero]

/-- A write of CMDCODE by an agent that may write it posts the command (R403). -/
theorem writeRegister_code {s : State} {who : Agent} {win : Nat} (hwin : isWindow win = true) (hm : s.writeMask who (win + 0x18) ≠ 0)
    (v : DWord) : s.writeRegister who (win + 0x18) v =
      (s.writeBits (win + 0x18) (s.writeMask who (win + 0x18)) v).postCommand ⟨who, win⟩ := by
  have hd : win + 0x18 ≠ packageBase + 0x10 := by
    have hplace := isWindow_place hwin
    unfold packageBase at hplace ⊢
    omega
  have hpost : ((s.writeMask who (win + 0x18) != 0) && isWindow (win + 0x18 - 0x18)) = true := by
    rw [Nat.add_sub_cancel, hwin, Bool.and_true]
    exact bne_iff_ne.mpr hm
  simp only [State.writeRegister, ignoredValue_code hwin, if_neg hd, if_pos hpost, Bool.false_eq_true, if_false]
  rw [Nat.add_sub_cancel]

theorem exec_registerWrite_code {s : State} {who : Agent} {win : Nat} (hwin : isWindow win = true)
    (hm : s.writeMask who (win + 0x18) ≠ 0) (v : DWord) : exec (.registerWrite who (win + 0x18) v) s =
      .next ((s.writeBits (win + 0x18) (s.writeMask who (win + 0x18)) v).postCommand ⟨who, win⟩) := by
  have hbell : win + 0x18 ≠ packageBase + 0x500 := by
    have hplace := isWindow_place hwin
    unfold packageBase at hplace ⊢
    omega
  rw [exec_registerWrite_of_not_doorbell (absurd · hbell), writeRegister_code hwin hm]

/-! ## Commands by CMDCODE (R403) -/

/-- A code that names a command which names no launch performs it with the window's arguments. -/
theorem postCommand_performs (s : State) (p : Post) {code : Nat} (h : (s.reg (p.off + 0x18)).toNat = code) :
    let a := s.reg p.off
    let b := s.reg (p.off + 8)
    let vf := if isPart p.off then (p.off - 0x10000000) / 0x800000 else bits b 4 0
    let iface := if isIface p.off then (ifaceOf p.off).2 else bits b 13 8
    ∀ c ∈ [(1, .invs1 p vf iface a b), (2, .invs1all p vf iface), (3, .invs2 p vf a b), (4, .invs2all p vf), (0x20, .ckpt p vf a b),
        (0x21, .restore p vf a b), (0x30, .keyload p a.toNat b), (0x31, .keydestroy p a.toNat),
        (0x32, Instr.retire p (bits a 2 0) (bits a 31 16))],
      code = c.1 → .next (s.postCommand p) = exec c.2 s := by
  intro a b vf iface c hc hcode
  rw [hcode] at h
  simp only [List.mem_cons, List.not_mem_nil, or_false] at hc
  rcases hc with rfl | rfl | rfl | rfl | rfl | rfl | rfl | rfl | rfl <;> simp only [State.postCommand, h] <;> rfl

theorem exec_suspend_window (s : State) (p : Post) (lk : Nat) :
    exec (.suspend p lk false) s = .next (s.launchCommand p lk fun s l => s.suspendLaunch lk l) := by
  change execSuspend p lk false s = _
  unfold execSuspend
  cases s.launches.get? lk <;> rfl

theorem exec_resume_window (s : State) (p : Post) (lk : Nat) :
    exec (.resume p lk false) s = .next (s.launchCommand p lk fun s l => s.resumeLaunch lk l false) := by
  change execResume p lk false s = _
  unfold execResume
  cases s.launches.get? lk <;> rfl

/-- A code that names a command on a launch performs it on the launch that the arguments name. -/
theorem postCommand_launch (s : State) (p : Post) {code : Nat} (h : (s.reg (p.off + 0x18)).toNat = code) :
    let b := s.reg (p.off + 8)
    let vf := if isPart p.off then (p.off - 0x10000000) / 0x800000 else bits b 4 0
    let iface := if isIface p.off then (ifaceOf p.off).2 else bits b 13 8
    ∀ lk l, s.launchNamed (contextKey vf iface (bits b 17 16)) (s.reg p.off).toNat = some (lk, l) →
      ∀ c ∈ [(0x10, .suspend p lk false), (0x11, .resume p lk false), (0x12, Instr.endCmd p lk)],
        code = c.1 → .next (s.postCommand p) = exec c.2 s := by
  intro b vf iface lk l hl c hc hcode
  rw [hcode] at h
  simp only [List.mem_cons, List.not_mem_nil, or_false] at hc
  rcases hc with rfl | rfl | rfl <;> simp only [State.postCommand, h] <;> rw [hl]
  · exact (exec_suspend_window s p lk).symm
  · exact (exec_resume_window s p lk).symm
  · rfl

/-- A code that names no command is refused. -/
theorem postCommand_unknown (s : State) (p : Post) (h : (s.reg (p.off + 0x18)).toNat ∉ commandCodes) :
    s.postCommand p = s.command p false id := by
  simp only [State.postCommand]
  split
  case h_13 => rfl
  all_goals
    rename_i hcode
    exact absurd (by rw [hcode]; decide) h

theorem command_refused {s : State} {p : Post} (h : s.writeMask p.who p.off ≠ 0) (f : State → State) :
    s.command p false f = s.setReg (p.off + 0x20)
      (if has (s.reg (p.off + 0x20)) 63 then withBits (s.reg (p.off + 0x20)) 7 0 2 else 1) := by
  simp only [State.command, State.posted, if_neg h, Bool.false_eq_true, if_false]
  split <;> rfl

/-! ## The mailbox's doorbell (R409) -/

theorem exec_doorbell (v : DWord) (s : State) : exec (.registerWrite .level0 (packageBase + 0x500) v) s = .next s.ringDoorbell := by
  rw [exec_registerWrite, if_pos ⟨rfl, rfl⟩]

theorem field_one_lt (b : List Byte) (at_ : Nat) : field b at_ 1 < 256 := by
  rw [field]
  rcases b.drop at_ with _ | ⟨x, xs⟩
  · decide
  · simpa [leNat] using x.isLt

/-- The OUT buffer's first word after an answer. -/
theorem reg_mailOut_status (s : State) (code status : Nat) (data : DWord) :
    (s.mailOut code status data).reg (packageBase + 0x400) = BitVec.ofNat 64 (code + status * 2 ^ 8) := by
  rw [State.mailOut, State.reg_setReg, if_neg (by unfold packageBase; omega), State.reg_setReg, if_pos rfl]

theorem doorbell_performs (s : State) : ∀ c ∈ [(1, .flashwrite), (2, .flashcommit), (3, .status), (4, Instr.restart)],
    field s.mailIn 0 1 = c.1 → .next s.ringDoorbell = exec c.2 s := by
  intro c hc hcode
  simp only [List.mem_cons, List.not_mem_nil, or_false] at hc
  rcases hc with rfl | rfl | rfl | rfl <;> simp only [State.ringDoorbell, hcode] <;> rfl

theorem ringDoorbell_unknown {s : State} (h : field s.mailIn 0 1 = 0 ∨ 4 < field s.mailIn 0 1) :
    s.ringDoorbell = s.mailOut (field s.mailIn 0 1) 1 0 := by
  simp only [State.ringDoorbell]
  rw [if_neg (by omega), if_neg (by omega), if_neg (by omega), if_neg (by omega)]

/-! ## Rights (R374, R375) -/

theorem exec_rightsWrite (who : Agent) (off : Nat) (v : DWord) (s : State) :
    exec (.rightsWrite who off v) s = .next (if s.recovering then s else s.writeRights who off v) := rfl

theorem le_faultQueueOf (own : Agent) : packageBase + 0x200 ≤ faultQueueOf own := by
  cases own with
  | level0 | pf1 => exact Nat.le_refl _
  | level1 v => simp only [faultQueueOf]; unfold partBase packageBase; omega
  | level2 v i => simp only [faultQueueOf]; unfold ifaceBase partBase packageBase; omega

/-- No fault ring's index is a register of the rights of its partition. -/
theorem rights_ne_faultQueue {vf iface o : Nat} (ho : o < 0x400) {own : Agent} (h : own ∈ faultOwners vf iface) :
    partBase vf + o ≠ faultQueueOf own + 8 := by
  simp only [faultOwners, List.mem_cons, List.not_mem_nil, or_false] at h
  rcases h with rfl | rfl | rfl | rfl <;> simp only [faultQueueOf]
  · unfold faultQueue0 partBase packageBase; omega
  · unfold faultQueue0 partBase packageBase; omega
  · omega
  · unfold ifaceBase; omega

/-- Fault records of one partition that are sent again leave its rights as they are. -/
theorem reg_rights_resendFaults (s : State) (vf : Nat) {o : Nat} (ho : o < 0x400) (q : Nat → Nat → Bool) :
    (s.resendFaults fun w iface stage => w == vf && q iface stage).reg (partBase vf + o) = s.reg (partBase vf + o) := by
  refine reg_resendFaults s fun w iface stage hp own hown => ?_
  obtain rfl : w = vf := beq_iff_eq.mp ((Bool.and_eq_true _ _).mp hp).1
  exact rights_ne_faultQueue ho hown

theorem reg_rights1_resendFaults (s : State) (vf : Nat) (q : Nat → Nat → Bool) :
    (s.resendFaults fun w iface stage => w == vf && q iface stage).reg (partBase vf) = s.reg (partBase vf) := by
  have h := reg_rights_resendFaults s vf (o := 0) (by decide) q
  rwa [Nat.add_zero] at h

theorem reg_rights2_resendFaults (s : State) (vf : Nat) {i : Nat} (hi : i < 64) (q : Nat → Nat → Bool) :
    (s.resendFaults fun w iface stage => w == vf && q iface stage).reg (partBase vf + 0x200 + 8 * i) =
      s.reg (partBase vf + 0x200 + 8 * i) := by
  rw [Nat.add_assoc]
  exact reg_rights_resendFaults s vf (by omega) q

theorem injective_rights2 (vf : Nat) : Function.Injective fun i => partBase vf + 0x200 + 8 * i := fun i j h => by
  dsimp only at h
  omega

theorem writeRights_level0 (s : State) {vf : Nat} (hv : vf < 32) (v : DWord) : s.writeRights .level0 (partBase vf) v =
    ((List.range 64).foldl (fun s i => s.writeBits (partBase vf + 0x200 + 8 * i) (~~~v) 0)
      (s.writeBits (partBase vf) (field64 7 0) v)).resendFaults
        fun w _ stage => w == vf && clearedFor (s.reg (partBase vf)) v stage := by
  have hpart : isPart (partBase vf) = true := Nat.add_zero (partBase vf) ▸ isPart_partBase hv (by decide)
  have hiface : isIface (partBase vf) = false := Nat.add_zero (partBase vf) ▸ isIface_partBase (by decide)
  have hin : inPart (partBase vf) = 0 := (congrArg inPart (Nat.add_zero _)).symm.trans (inPart_partBase (by decide))
  have hof : (partBase vf - 0x10000000) / 0x800000 = vf :=
    (congrArg (fun off => (off - 0x10000000) / 0x800000) (Nat.add_zero _)).symm.trans (partOf_partBase (by decide))
  simp only [State.writeRights, hpart, hiface, hin, hof, Bool.true_eq_false, Bool.false_eq_true, or_self, if_false, and_self, if_true]

theorem writeRights_level1 (s : State) {vf i : Nat} (hv : vf < 32) (hi : i < 64) (v : DWord) :
    s.writeRights (.level1 vf) (partBase vf + 0x200 + 8 * i) v =
      (s.writeBits (partBase vf + 0x200 + 8 * i) 0x85#64 v).resendFaults fun w j stage => w == vf &&
        (j == i && clearedFor (s.reg (partBase vf + 0x200 + 8 * i)) v stage) := by
  have ho : 0x200 + 8 * i < 0x100000 := by omega
  have hin : inPart (partBase vf + (0x200 + 8 * i)) = 0x200 + 8 * i := inPart_partBase (by omega)
  have hof : (partBase vf + (0x200 + 8 * i) - 0x10000000) / 0x800000 = vf := partOf_partBase (by omega)
  have hrange : 0x200 ≤ 0x200 + 8 * i ∧ 0x200 + 8 * i < 0x400 ∧ (0x200 + 8 * i) % 8 = 0 := by omega
  have hidx : (0x200 + 8 * i - 0x200) / 8 = i := by rw [Nat.add_sub_cancel_left, Nat.mul_div_cancel_left i (by decide)]
  rw [Nat.add_assoc]
  simp only [State.writeRights, isPart_partBase hv (show 0x200 + 8 * i < 0x800000 by omega), isIface_partBase ho, hin, hof, hidx]
  rw [if_neg (by simp), if_neg (by simp), if_pos ⟨hrange.1, hrange.2.1, hrange.2.2, trivial⟩]
  simp only [Bool.and_assoc]

/-- A right that level 0 takes from level 1 is taken from every interface (R375). -/
theorem writeRights_level0_spec (s : State) {vf : Nat} (hv : vf < 32) (v : DWord) :
    (s.writeRights .level0 (partBase vf) v).reg (partBase vf) = (s.reg (partBase vf) &&& ~~~field64 7 0) ||| (v &&& field64 7 0) ∧
    ∀ i, i < 64 → (s.writeRights .level0 (partBase vf) v).reg (partBase vf + 0x200 + 8 * i) = s.reg (partBase vf + 0x200 + 8 * i) &&& v := by
  rw [writeRights_level0 s hv]
  constructor
  · rw [reg_rights1_resendFaults,
      reg_foldl_writeBits_of_notMem _ (fun i => partBase vf + 0x200 + 8 * i) _ _ _ fun i _ => by omega, reg_writeBits_self]
  · intro i hi
    rw [reg_rights2_resendFaults _ vf hi, reg_foldl_writeBits _ (injective_rights2 vf) List.nodup_range _ _ _ (List.mem_range.mpr hi),
      reg_writeBits_ne s _ v (by omega)]
    simp

/-- Level 1 hands on the rights that can be delegated, and keeps its own (R374). -/
theorem writeRights_level1_spec (s : State) {vf i : Nat} (hv : vf < 32) (hi : i < 64) (v : DWord) :
    let t := s.writeRights (.level1 vf) (partBase vf + 0x200 + 8 * i) v
    t.reg (partBase vf + 0x200 + 8 * i) = (s.reg (partBase vf + 0x200 + 8 * i) &&& ~~~0x85#64) ||| (v &&& 0x85#64) ∧
    t.reg (partBase vf) = s.reg (partBase vf) := by
  intro t
  have ht : t = _ := writeRights_level1 s hv hi v
  rw [ht]
  constructor
  · rw [reg_rights2_resendFaults _ vf hi fun j stage => j == i && clearedFor _ v stage, reg_writeBits_self]
  · rw [reg_rights1_resendFaults _ vf fun j stage => j == i && clearedFor _ v stage, reg_writeBits_ne s _ v (by omega)]

theorem writeRights_level2 (s : State) (vf i off : Nat) (v : DWord) : s.writeRights (.level2 vf i) off v = s := by
  simp [State.writeRights]

/-! ## The consumer's index of a queue (R401) -/

theorem exec_queueConsume (p : Post) (cons : BitVec 16) (s : State) : exec (.queueConsume p cons) s = .next (s.consume p.who p.off cons) := rfl

/-- The ring at an offset lies where it lies in any state. -/
theorem ringAt_off_congr (s t : State) (off : Nat) : (s.ringAt off).off = (t.ringAt off).off := by
  unfold State.ringAt
  dsimp only
  split
  · split <;> rfl
  · rfl

/-- The registers of a ring outside the partitions' blocks lie in the package's. -/
theorem packageBase_le_of_ringAt {s : State} {off : Nat} (h : (s.ringAt off).off = off) (hp : isPart off = false) : packageBase ≤ off := by
  rw [State.ringAt, hp] at h
  have : packageBase + (off - packageBase) = off := h
  omega

theorem consume_closed {s : State} {who : Agent} {off : Nat} (h : s.writeMask who (off + 8) &&& 0xFFFF#64 ≠ 0xFFFF#64) (cons : BitVec 16) :
    s.consume who off cons = s := if_pos h

theorem consume_open {s : State} {who : Agent} {off : Nat} (h : s.writeMask who (off + 8) &&& 0xFFFF#64 = 0xFFFF#64) (cons : BitVec 16) :
    let t := s.setReg (off + 8) (withBits (s.reg (off + 8)) 15 0 cons.toNat)
    s.consume who off cons = t.drainWaiting (t.ringAt off) s.waiting := if_neg fun hn => hn h

/-- The consumer's index is what was written, also after waiting records have been appended. -/
theorem bits_reg_consume {s : State} {who : Agent} {off : Nat} (h : s.writeMask who (off + 8) &&& 0xFFFF#64 = 0xFFFF#64)
    (hoff : (s.ringAt off).off = off) (cons : BitVec 16) : bits ((s.consume who off cons).reg (off + 8)) 15 0 = cons.toNat := by
  rw [consume_open h]
  have hr := (ringAt_off_congr (s.setReg (off + 8) (withBits (s.reg (off + 8)) 15 0 cons.toNat)) s off).trans hoff
  have drained := bits_reg_drainWaiting (s.setReg (off + 8) (withBits (s.reg (off + 8)) 15 0 cons.toNat))
    ((s.setReg (off + 8) (withBits (s.reg (off + 8)) 15 0 cons.toNat)).ringAt off) s.waiting
    (fun hp => by rw [hr] at hp ⊢; exact packageBase_le_of_ringAt hoff hp)
  rw [hr] at drained
  rw [drained, State.reg_setReg, if_pos rfl, bits_withBits_self _ (by decide) cons.isLt]

theorem consume_of_none_waiting {s : State} {who : Agent} {off : Nat} (h : s.writeMask who (off + 8) &&& 0xFFFF#64 = 0xFFFF#64)
    (hoff : (s.ringAt off).off = off) (hw : ∀ w ∈ s.waiting, w.queue ≠ off) (cons : BitVec 16) :
    s.consume who off cons = s.setReg (off + 8) (withBits (s.reg (off + 8)) 15 0 cons.toNat) := by
  rw [consume_open h]
  refine drainWaiting_of_none _ _ fun w hmem => ?_
  rw [ringAt_off_congr _ s, hoff]
  exact hw w hmem

/-! ## The clauses of O54 -/

/-- A write of PF1DELEG by its holder writes its four bits, though it sends fault records to their new owners (R373, R375). -/
theorem writeRegister_delegation (s : State) (v : DWord) (h : s.recovering = false) (k : Nat) :
    has ((s.writeRegister .level0 (packageBase + 0x10) v).reg (packageBase + 0x10)) k =
      if k ≤ 3 then has v k else has (s.reg (packageBase + 0x10)) k := by
  have hm : s.writeMask .level0 (packageBase + 0x10) = field64 3 0 := by rw [writeMask_delegation, h]; rfl
  have written : has ((s.writeBits (packageBase + 0x10) (field64 3 0) v).reg (packageBase + 0x10)) k =
      if k ≤ 3 then has v k else has (s.reg (packageBase + 0x10)) k := by
    rw [has_reg_writeBits, has_field64 (by decide)]
    simp
  have resent : ∀ t : State, (t.resendFaults fun _ _ stage => stage == 2).reg (packageBase + 0x10) = t.reg (packageBase + 0x10) :=
    fun t => reg_resendFaults t fun vf iface stage _ own _ => by
      have hle := le_faultQueueOf own
      omega
  simp only [State.writeRegister, ignoredValue_delegation, hm, Bool.false_eq_true, if_false, if_true, reduceCtorEq, false_and]
  split
  · rw [resent, written]
  · exact written

/-- PF 1 hears of its refused write of PF1DELEG (R376). -/
theorem writeRegister_delegation_pf1 {s : State} (h : s.recovering = false) (v : DWord) :
    s.writeRegister .pf1 (packageBase + 0x10) v = s.eventPf1 (eventRecord evRefused 0 0 0 0 (packageBase + 0x10)) := by
  have hm : s.writeMask .pf1 (packageBase + 0x10) = 0 := by rw [writeMask_delegation, h]; rfl
  simp only [State.writeRegister, ignoredValue_delegation, hm, writeBits_zero, h, Bool.false_eq_true, if_false, if_true, and_self]

/-- An interval of 250 to 16,000 microseconds is taken, and another ignored (R360). -/
theorem writeRegister_interval {s : State} (h : s.recovering = false) (v : DWord) :
    s.writeRegister .level0 (packageBase + 0x8) v =
      if 250 ≤ bits v 14 0 ∧ bits v 14 0 ≤ 16000 ∧ bits (s.reg (packageBase + 0x8)) 14 0 ≠ bits v 14 0 then
        s.setReg (packageBase + 0x8) ((s.reg (packageBase + 0x8) &&& ~~~field64 14 0) ||| (v &&& field64 14 0)) else s := by
  have hign : ignoredValue (packageBase + 0x8) v = true ↔ bits v 14 0 < 250 ∨ 16000 < bits v 14 0 := by
    simp [ignoredValue, isIface, isPart, packageBase, bits]
  have hm : s.writeMask .level0 (packageBase + 0x8) = field64 14 0 := by rw [writeMask_interval, h]; rfl
  by_cases hi : ignoredValue (packageBase + 0x8) v = true
  · rw [writeRegister_ignored hi, if_neg]
    have := hign.mp hi
    omega
  · have hin := mt hign.mpr hi
    have hplain := writeRegister_plain (s := s) (who := .level0) (eq_false_of_ne_true hi) (by unfold packageBase; omega)
      fun hw => absurd (isWindow_place hw) (by unfold packageBase; omega)
    rw [hplain, hm, writeBits_field64 s _ 0 (by decide)]
    by_cases heq : bits (s.reg (packageBase + 0x8)) 14 0 = bits v 14 0
    · rw [if_pos heq, if_neg fun hc => hc.2.2 heq]
    · rw [if_neg heq, if_pos ⟨by omega, by omega, heq⟩]

/-- A write that reaches no window changes the bits that its writer holds. -/
theorem registerWrite_takes {s : State} {who : Agent} {off : Nat} {v : DWord} (hv : ignoredValue off v = false)
    (hd : off ≠ packageBase + 0x10) (hbell : off = packageBase + 0x500 → who ≠ .level0)
    (hw : isWindow (off - 0x18) = true → s.writeMask who off = 0) :
    ∃ t, exec (.registerWrite who off v) s = .next t ∧
      (∀ k, has (t.reg off) k = if has (s.writeMask who off) k then has v k else has (s.reg off) k) ∧
      (∀ a, a ≠ off → t.reg a = s.reg a) ∧ t.mem = s.mem ∧ t.squads = s.squads :=
  ⟨_, (exec_registerWrite_of_not_doorbell hbell v s).trans (congrArg _ (writeRegister_plain hv hd hw)),
    has_reg_writeBits s off _ v, fun _ ha => reg_writeBits_ne s _ v ha, writeBits_mem s off _ v, writeBits_squads s off _ v⟩

/-- An agent that may write no bit of a register other than PF1DELEG changes nothing by a write of it. -/
theorem registerWrite_closed {s : State} {who : Agent} {off : Nat} (hm : s.writeMask who off = 0) (hd : off ≠ packageBase + 0x10)
    (hbell : off = packageBase + 0x500 → who ≠ .level0) (v : DWord) : exec (.registerWrite who off v) s = .next s := by
  rw [exec_registerWrite_of_not_doorbell hbell, writeRegister_closed hm hd]

theorem registerWrite_ignored {off : Nat} {v : DWord} (h : ignoredValue off v = true) (who : Agent) (s : State) :
    exec (.registerWrite who off v) s = .next s := by
  have hbell : off ≠ packageBase + 0x500 := fun e => by
    rw [e, ignoredValue_doorbell] at h
    cases h
  rw [exec_registerWrite_of_not_doorbell (absurd · hbell), writeRegister_ignored h]

/-- The doorbell performs the code of the IN buffer, and refuses one that names nothing (R409). -/
theorem registerWrite_doorbell (s : State) (v : DWord) (code : Nat) (h : code = field s.mailIn 0 1) :
    (∀ c ∈ [(1, .flashwrite), (2, .flashcommit), (3, .status), (4, Instr.restart)], code = c.1 →
      exec (.registerWrite .level0 (packageBase + 0x500) v) s = exec c.2 s) ∧
    (code = 0 ∨ 4 < code → ∃ t, exec (.registerWrite .level0 (packageBase + 0x500) v) s = .next t ∧ t.flash = s.flash ∧
      bits (t.reg (packageBase + 0x400)) 7 0 = code ∧ bits (t.reg (packageBase + 0x400)) 15 8 = 1) := by
  subst h
  constructor
  · intro c hc hcode
    rw [exec_doorbell, doorbell_performs s c hc hcode]
  · intro hcode
    have hlt := field_one_lt s.mailIn 0
    refine ⟨_, (exec_doorbell v s).trans (congrArg _ (ringDoorbell_unknown hcode)), rfl, ?_, ?_⟩ <;>
      rw [reg_mailOut_status, bits_ofNat (by omega)] <;> omega

/-- What a write of a window's CMDCODE posts (R403). -/
theorem registerWrite_code {s : State} {who : Agent} {win : Nat} (v : DWord) (hwin : isWindow win = true)
    (hm : s.writeMask who (win + 0x18) ≠ 0) :
    let s1 := s.writeBits (win + 0x18) (s.writeMask who (win + 0x18)) v
    let p : Post := ⟨who, win⟩
    let a := s1.reg win
    let b := s1.reg (win + 8)
    let vf := if isPart win then (win - 0x10000000) / 0x800000 else bits b 4 0
    let iface := if isIface win then (ifaceOf win).2 else bits b 13 8
    (∀ c ∈ [(1, .invs1 p vf iface a b), (2, .invs1all p vf iface), (3, .invs2 p vf a b), (4, .invs2all p vf), (0x20, .ckpt p vf a b),
        (0x21, .restore p vf a b), (0x30, .keyload p a.toNat b), (0x31, .keydestroy p a.toNat),
        (0x32, Instr.retire p (bits a 2 0) (bits a 31 16))],
      (s1.reg (win + 0x18)).toNat = c.1 → exec (.registerWrite who (win + 0x18) v) s = exec c.2 s1) ∧
    (∀ lk l, s1.launchNamed (contextKey vf iface (bits b 17 16)) a.toNat = some (lk, l) →
      ∀ c ∈ [(0x10, .suspend p lk false), (0x11, .resume p lk false), (0x12, Instr.endCmd p lk)],
        (s1.reg (win + 0x18)).toNat = c.1 → exec (.registerWrite who (win + 0x18) v) s = exec c.2 s1) ∧
    ((s1.reg (win + 0x18)).toNat ∉ commandCodes → exec (.registerWrite who (win + 0x18) v) s =
      .next (s1.setReg (win + 0x20) (if has (s1.reg (win + 0x20)) 63 then withBits (s1.reg (win + 0x20)) 7 0 2 else 1))) := by
  intro s1 p a b vf iface
  have posted : exec (.registerWrite who (win + 0x18) v) s = .next (s1.postCommand p) := exec_registerWrite_code hwin hm v
  have hopen : s1.writeMask p.who p.off ≠ 0 := by
    rw [writeMask_after_code s who hwin]
    exact hm
  refine ⟨fun c hc hcode => ?_, fun lk l hl c hc hcode => ?_, fun hcode => ?_⟩
  · rw [posted, postCommand_performs s1 p rfl c hc hcode]
  · rw [posted, postCommand_launch s1 p rfl lk l hl c hc hcode]
  · rw [posted, postCommand_unknown s1 p hcode, command_refused hopen]

/-- The consumer's index of a queue moves on for who may write it, and for nobody else (R401). -/
theorem queueConsume_spec (s : State) (who : Agent) (off : Nat) (cons : BitVec 16) (hoff : (s.ringAt off).off = off) :
    (s.writeMask who (off + 8) &&& 0xFFFF#64 = 0xFFFF#64 →
      (∃ t, exec (.queueConsume ⟨who, off⟩ cons) s = .next t ∧ bits (t.reg (off + 8)) 15 0 = cons.toNat) ∧
      ((∀ w ∈ s.waiting, w.queue ≠ off) →
        exec (.queueConsume ⟨who, off⟩ cons) s = .next (s.setReg (off + 8) (withBits (s.reg (off + 8)) 15 0 cons.toNat)))) ∧
    (s.writeMask who (off + 8) &&& 0xFFFF#64 ≠ 0xFFFF#64 → exec (.queueConsume ⟨who, off⟩ cons) s = .next s) := by
  refine ⟨fun h => ⟨⟨_, exec_queueConsume _ cons s, bits_reg_consume h hoff cons⟩, fun hw => ?_⟩, fun h => ?_⟩
  · rw [exec_queueConsume, consume_of_none_waiting h hoff hw]
  · rw [exec_queueConsume, consume_closed h]

/-- Settles O54, clause by clause from the law of each kind of write. -/
theorem registerWrites : Obligations.RegisterWrites := by
  unfold Obligations.RegisterWrites
  intro s who off v
  refine ⟨fun hv hd hbell hw => registerWrite_takes hv hd hbell hw, ?delegation, ?refused, ?code, fun code h => registerWrite_doorbell s v code h,
    ?recovery, fun h => ?rightsRecovery, fun h => registerWrite_ignored h who s, ?other, fun ms h => ?interval, fun vf hv h => ?rights1,
    fun vf i hv hi h => ?rights2, fun vf i => ?rightsLevel2, fun cons hoff => queueConsume_spec s who off cons hoff⟩
  case delegation =>
    rintro - rfl rfl h
    refine ⟨_, exec_registerWrite_of_not_doorbell (by decide) v s, (bits_eq_iff _ _ _ _).mpr fun k _ hk => ?_, fun k hk => ?_⟩
    · rw [writeRegister_delegation s v h, if_pos hk]
    · rw [writeRegister_delegation s v h, if_neg (by omega)]
  case refused =>
    rintro rfl h
    rw [exec_registerWrite_of_not_doorbell (by decide), writeRegister_delegation_pf1 h]
  case code =>
    rintro win rfl hwin hm
    exact registerWrite_code v hwin hm
  case recovery =>
    intro h hin hd
    refine registerWrite_closed (writeMask_recovering h hin) hd (fun hbell hwho => ?_) v
    exact Bool.eq_false_iff.mp hin (inRecovery_iff.mpr ⟨hwho, .inr (by omega)⟩)
  case rightsRecovery => rw [exec_rightsWrite, if_pos h]
  case other =>
    rintro vf iface h rfl hne
    have hplace := isPart_iff.mp (isPart_of_isIface h)
    exact registerWrite_closed (writeMask_other_iface s h hne) (by unfold packageBase; omega) (fun _ => nofun) v
  case interval =>
    have hmask : ~~~field64 14 0 = 0xFFFFFFFFFFFF8000#64 ∧ field64 14 0 = 0x7FFF#64 := by decide
    rw [exec_registerWrite_of_not_doorbell (by decide), writeRegister_interval h, hmask.1, hmask.2]
  case rights1 =>
    have hmask : ~~~field64 7 0 = 0xFFFFFFFFFFFFFF00#64 ∧ field64 7 0 = 0xFF#64 := by decide
    have hspec := writeRights_level0_spec s hv v
    rw [hmask.1, hmask.2] at hspec
    exact ⟨_, (exec_rightsWrite ..).trans (by rw [if_neg (by simp [h])]), hspec⟩
  case rights2 =>
    have hspec := writeRights_level1_spec s hv hi v
    exact ⟨_, (exec_rightsWrite ..).trans (by rw [if_neg (by simp [h])]), hspec⟩
  case rightsLevel2 => rw [exec_rightsWrite, writeRights_level2, ite_self]

end Sys2Proof.Machine
end

section
/-! SUPPORT, and the proof of O13. Integer patterns as residues and their ranges, and NaN operands through exact sums, products,
quotients and delivery. -/

namespace Sys2Proof.Machine

/-! ## Integer patterns (R99, R101) -/

theorem two_pow_pos (w : Nat) : (0 : Int) < 2 ^ w := Int.pow_pos (by decide)

theorem two_pow_eq_double_half {w : Nat} (hw : 0 < w) : (2 : Int) ^ w = 2 * 2 ^ (w - 1) := by
  rw [← Int.pow_succ', Nat.sub_add_cancel hw]

theorem coe_two_pow (w : Nat) : ((2 ^ w : Nat) : Int) = 2 ^ w := Int.natCast_pow 2 w

theorem coe_mod_two_pow (w p : Nat) : ((p % 2 ^ w : Nat) : Int) = p % 2 ^ w := by
  rw [Int.natCast_emod, coe_two_pow]

theorem coe_intPat (w : Nat) (v : Int) : (intPat w v : Int) = v % 2 ^ w :=
  Int.toNat_of_nonneg (Int.emod_nonneg v (Int.ne_of_gt (two_pow_pos w)))

theorem intPat_lt (w : Nat) (v : Int) : intPat w v < 2 ^ w := by
  refine Int.ofNat_lt.mp ?_
  rw [coe_intPat, coe_two_pow]
  exact Int.emod_lt_of_pos v (two_pow_pos w)

/-- A pattern reads as a value that is congruent to it. -/
theorem intOf_emod (w : Nat) (sgn : Bool) (p : Nat) : intOf w sgn p % 2 ^ w = p % 2 ^ w := by
  unfold intOf
  rw [coe_mod_two_pow]
  split
  · rw [Int.sub_emod_right, Int.emod_emod]
  · rw [Int.emod_emod]

/-- The low bits of a value, read back, differ from it by a multiple of the word: R101 without saturation. -/
theorem dvd_intOf_intPat_sub (w : Nat) (sgn : Bool) (v : Int) : (2 : Int) ^ w ∣ intOf w sgn (intPat w v) - v := by
  have hcongr : intOf w sgn (intPat w v) % 2 ^ w = v % 2 ^ w := by rw [intOf_emod, coe_intPat, Int.emod_emod]
  exact Int.dvd_of_emod_eq_zero (Int.emod_eq_emod_iff_emod_sub_eq_zero.mp hcongr)

/-- A pattern reads as a value in the range of its type. -/
theorem intOf_mem_range {w : Nat} (hw : 0 < w) (sgn : Bool) (p : Nat) :
    intMin w sgn ≤ intOf w sgn p ∧ intOf w sgn p ≤ intMax w sgn := by
  have hhalf := two_pow_eq_double_half hw
  have hlt : ((p % 2 ^ w : Nat) : Int) < 2 ^ w := by
    rw [coe_mod_two_pow]
    exact Int.emod_lt_of_pos _ (two_pow_pos w)
  cases sgn with
  | false =>
    simp only [intMin, intMax, intOf, Bool.false_eq_true, false_and, if_false]
    omega
  | true =>
    have hsplit : 2 ^ (w - 1) ≤ p % 2 ^ w ↔ (2 : Int) ^ (w - 1) ≤ (p % 2 ^ w : Nat) := by
      rw [← coe_two_pow (w - 1)]
      exact Int.ofNat_le.symm
    simp only [intMin, intMax, intOf, true_and, if_true, hsplit]
    split <;> omega

/-- A word's range holds fewer values than the word has patterns. -/
theorem intMax_sub_intMin_lt {w : Nat} (hw : 0 < w) (sgn : Bool) : intMax w sgn - intMin w sgn < 2 ^ w := by
  have hhalf := two_pow_eq_double_half hw
  unfold intMax intMin
  split <;> omega

/-- A value in the range of its type is read back from its low bits. -/
theorem intOf_intPat {w : Nat} {sgn : Bool} {v : Int} (hw : 0 < w) (hlo : intMin w sgn ≤ v) (hhi : v ≤ intMax w sgn) :
    intOf w sgn (intPat w v) = v := by
  obtain ⟨hmin, hmax⟩ := intOf_mem_range hw sgn (intPat w v)
  have hrange := intMax_sub_intMin_lt hw sgn
  refine Int.sub_eq_zero.mp (Int.eq_zero_of_dvd_of_natAbs_lt_natAbs (dvd_intOf_intPat_sub w sgn v) ?_)
  omega

theorem intMin_le_intMax {w : Nat} (hw : 0 < w) (sgn : Bool) : intMin w sgn ≤ intMax w sgn :=
  Int.le_trans (intOf_mem_range hw sgn 0).1 (intOf_mem_range hw sgn 0).2

theorem elemWidth_pos (et : Nat) : 0 < elemWidth et := by
  unfold elemWidth
  split <;> decide

/-! ## Integer elements (R101, R125) -/

@[simp] theorem ElemMode.intElem_flags (m : ElemMode) (v : Int) : (m.intElem v).flags = 0 := rfl

theorem ElemMode.intElem_pat_lt (m : ElemMode) (v : Int) : (m.intElem v).pat < 2 ^ m.width := by
  unfold ElemMode.intElem intResult
  split <;> exact intPat_lt ..

theorem ElemMode.int_intElem_of_sat {m : ElemMode} (hsat : m.sat = true) (v : Int) :
    m.int (m.intElem v).pat = max (intMin m.width (signedType m.et)) (min (intMax m.width (signedType m.et)) v) := by
  have hle := intMin_le_intMax (elemWidth_pos m.et) (signedType m.et)
  unfold ElemMode.int ElemMode.intElem intResult
  rw [if_pos hsat]
  exact intOf_intPat (elemWidth_pos m.et) (Int.le_max_left ..) (Int.max_le.mpr ⟨hle, Int.min_le_left ..⟩)

theorem ElemMode.dvd_int_intElem_sub {m : ElemMode} (hsat : m.sat = false) (v : Int) :
    (2 : Int) ^ m.width ∣ m.int (m.intElem v).pat - v := by
  unfold ElemMode.int ElemMode.intElem intResult
  rw [if_neg (Bool.eq_false_iff.mp hsat)]
  exact dvd_intOf_intPat_sub ..

theorem floatFmt_of_isInt {et : Nat} (h : isInt et = true) : floatFmt et = none := by
  have hle : et ≤ 7 := of_decide_eq_true h
  have hints : ∀ k : Fin 8, floatFmt k = none := by decide
  exact hints ⟨et, by omega⟩

theorem ElemMode.two_of_isInt {m : ElemMode} (h : isInt m.et = true) (fi : Int → Int → Int)
    (ff : FloatFmt → Nat → Nat → Nat → Elem) (x y draw : Nat) : m.two fi ff x y draw = m.intElem (fi (m.int x) (m.int y)) := by
  rw [ElemMode.two, floatFmt_of_isInt h]

theorem ElemMode.two_of_floatFmt {m : ElemMode} {f : FloatFmt} (h : floatFmt m.et = some f) (fi : Int → Int → Int)
    (ff : FloatFmt → Nat → Nat → Nat → Elem) (x y draw : Nat) : m.two fi ff x y draw = ff f x y draw := by
  rw [ElemMode.two, h]

theorem ElemMode.fma_of_floatFmt {m : ElemMode} {f : FloatFmt} (h : floatFmt m.et = some f) (minus negated : Bool)
    (d x y draw : Nat) : m.fma minus negated d x y draw = f.fma m.round minus negated d x y draw := by
  rw [ElemMode.fma, h]

/-! ## NaN operands (R103, R112) -/

theorem FVal.eq_nan_of_isNan {x : FVal} (h : x.isNan = true) : ∃ signalling, x = .nan signalling := by
  cases x with
  | nan signalling => exact ⟨signalling, rfl⟩
  | _ => cases h

theorem FVal.eq_nan_of_snan {x : FVal} (h : x.snan = true) : x = .nan true := by
  cases x with
  | nan signalling => exact congrArg FVal.nan h
  | _ => cases h

/-- The formats of vector arithmetic have an exponent and a canonical NaN. -/
theorem arithFloat_fmt {et : Nat} {f : FloatFmt} (hf : floatFmt et = some f) (ha : isArithFloat et = true) :
    0 < f.ebits ∧ ∃ n, f.nan = some n := by
  simp only [isArithFloat, Bool.and_eq_true, decide_eq_true_eq] at ha
  obtain rfl | rfl | rfl | rfl : et = 8 ∨ et = 9 ∨ et = 10 ∨ et = 11 := by omega
  all_goals
    cases hf
    exact ⟨by decide, _, rfl⟩

/-- In a format with infinities, a NaN has an exponent of all ones. -/
theorem FloatFmt.exponent_of_isNan {f : FloatFmt} (hinf : f.inf.isSome = true) {p : Nat} (h : (f.read p).isNan = true) :
    p % 2 ^ (f.ebits + f.mbits) / 2 ^ f.mbits = 2 ^ f.ebits - 1 := by
  by_cases hones : p % 2 ^ (f.ebits + f.mbits) / 2 ^ f.mbits = 2 ^ f.ebits - 1
  · exact hones
  · have hnone : ¬ f.inf.isNone = true := by
      rw [Option.isNone_iff_eq_none]
      exact Option.isSome_iff_ne_none.mp hinf
    simp only [FloatFmt.read, hones, hnone, and_false, Bool.false_eq_true, false_and, if_false] at h
    split at h
    · cases h
    · split at h <;> cases h

/-- No NaN is a subnormal where FTZ acts, so FTZ leaves NaN operands alone. -/
theorem FloatFmt.operand_of_isNan {f : FloatFmt} (he : 0 < f.ebits) {p : Nat} (h : (f.read p).isNan = true) (ftz : Bool) :
    f.operand ftz p = f.read p := by
  refine if_neg fun hflush => ?_
  simp only [Bool.and_eq_true, FloatFmt.flushes, FloatFmt.subnormal, decide_eq_true_eq] at hflush
  obtain ⟨⟨-, -, hinf⟩, -, hsub⟩ := hflush
  have hexp := exponent_of_isNan hinf h
  have hones := Nat.one_lt_two_pow (Nat.ne_of_gt he)
  rw [Nat.div_eq_of_lt hsub] at hexp
  omega

theorem FloatFmt.isNan_operand {f : FloatFmt} (he : 0 < f.ebits) (ftz : Bool) {p : Nat} (h : (f.read p).isNan = true) :
    (f.operand ftz p).isNan = true := by rwa [operand_of_isNan he h]

theorem FVal.isNan_of_snan {x : FVal} (h : x.snan = true) : x.isNan = true := by
  rw [eq_nan_of_snan h]
  rfl

theorem FloatFmt.snan_operand {f : FloatFmt} (he : 0 < f.ebits) (ftz : Bool) {p : Nat} (h : (f.read p).snan = true) :
    (f.operand ftz p).snan = true := by rwa [operand_of_isNan he (FVal.isNan_of_snan h)]

/-! ## NaNs in exact sums and products (R113) -/

/-- Whether an exact result is a NaN. -/
def Exact.isNan : Exact → Bool
  | .nan _ => true
  | _ => false

/-- Whether an exact result is a NaN that signals invalid. -/
def Exact.invalid : Exact → Bool
  | .nan fl => has fl 0
  | _ => false

@[simp] theorem FVal.isNan_exact (x : FVal) : x.exact.isNan = x.isNan := by cases x <;> rfl

@[simp] theorem FVal.invalid_exact (x : FVal) : x.exact.invalid = x.snan := by
  cases x with
  | nan s => cases s <;> rfl
  | _ => rfl

@[simp] theorem FVal.isNan_negate (x : FVal) : x.negate.isNan = x.isNan := by cases x <;> rfl

@[simp] theorem FVal.snan_negate (x : FVal) : x.negate.snan = x.snan := by cases x <;> rfl

@[simp] theorem Exact.isNan_neg (x : Exact) : x.neg.isNan = x.isNan := by cases x <;> rfl

@[simp] theorem Exact.invalid_neg (x : Exact) : x.neg.invalid = x.invalid := by cases x <;> rfl

theorem Exact.eq_nan_of_isNan {x : Exact} (h : x.isNan = true) : ∃ fl, x = .nan fl := by
  cases x with
  | nan fl => exact ⟨fl, rfl⟩
  | _ => cases h

theorem Exact.eq_nan_of_invalid {x : Exact} (h : x.invalid = true) : ∃ fl, x = .nan fl ∧ has fl 0 = true := by
  cases x with
  | nan fl => exact ⟨fl, rfl, h⟩
  | _ => cases h

theorem Exact.isNan_add {x y : Exact} (h : x.isNan = true ∨ y.isNan = true) : (x.add y).isNan = true := by
  rcases h with h | h
  · obtain ⟨fl, rfl⟩ := eq_nan_of_isNan h
    cases y <;> rfl
  · obtain ⟨fl, rfl⟩ := eq_nan_of_isNan h
    cases x <;> rfl

theorem Exact.invalid_add {x y : Exact} (h : x.invalid = true ∨ y.invalid = true) : (x.add y).invalid = true := by
  rcases h with h | h
  · obtain ⟨a, rfl, ha⟩ := eq_nan_of_invalid h
    cases y with
    | nan b => exact (BitVec.getLsbD_or ..).trans (Bool.or_eq_true_iff.mpr (.inl ha))
    | _ => exact ha
  · obtain ⟨b, rfl, hb⟩ := eq_nan_of_invalid h
    cases x with
    | nan a => exact (BitVec.getLsbD_or ..).trans (Bool.or_eq_true_iff.mpr (.inr hb))
    | _ => exact hb

theorem FVal.isNan_mul {x y : FVal} (h : x.isNan = true ∨ y.isNan = true) : (x.mul y).isNan = true := by
  rcases h with h | h
  · obtain ⟨a, rfl⟩ := eq_nan_of_isNan h
    cases y <;> rfl
  · obtain ⟨b, rfl⟩ := eq_nan_of_isNan h
    cases x <;> rfl

theorem FVal.invalid_mul {x y : FVal} (h : x.snan = true ∨ y.snan = true) : (x.mul y).invalid = true := by
  rcases h with h | h
  · obtain rfl := eq_nan_of_snan h
    cases y with
    | nan b => cases b <;> rfl
    | _ => rfl
  · obtain rfl := eq_nan_of_snan h
    cases x with
    | nan a => cases a <;> rfl
    | _ => rfl

/-! ## The canonical NaN as the result of a word (R104) -/

/-- The result is the format's canonical NaN, and it signals invalid if `signals` holds. -/
def FloatFmt.CanonicalNan (f : FloatFmt) (signals : Prop) (e : Elem) : Prop := some e.pat = f.nan ∧ (signals → has e.flags 0 = true)

theorem FloatFmt.canonicalNan_nanElem {f : FloatFmt} {n : Nat} (hn : f.nan = some n) {signals : Prop} {fl : Flags}
    (h : signals → has fl 0 = true) : f.CanonicalNan signals (f.nanElem fl) := by
  rw [FloatFmt.nanElem, hn]
  exact ⟨hn.symm, h⟩

theorem FloatFmt.canonicalNan_finish {f : FloatFmt} {n : Nat} (hn : f.nan = some n) {signals : Prop} {z : Exact}
    (hnan : z.isNan = true) (hinv : signals → z.invalid = true) (r : Rounding) (inverted : Bool) (draw : Nat) :
    f.CanonicalNan signals (f.finish r inverted z draw) := by
  cases z with
  | nan fl => exact canonicalNan_nanElem hn hinv
  | _ => cases hnan

theorem has_nanFlags (l : List FVal) : has (nanFlags l) 0 = l.any FVal.snan := by
  unfold nanFlags
  cases l.any FVal.snan <;> rfl

theorem FloatFmt.div_of_isNan {f : FloatFmt} {r : Rounding} {x y : Nat}
    (h : (f.operand r.ftz x).isNan = true ∨ (f.operand r.ftz y).isNan = true) (draw : Nat) :
    f.div r x y draw = f.nanElem (nanFlags [f.operand r.ftz x, f.operand r.ftz y]) := by
  unfold FloatFmt.div
  rcases h with h | h
  · obtain ⟨a, ha⟩ := FVal.eq_nan_of_isNan h
    rw [ha]
  · obtain ⟨b, hb⟩ := FVal.eq_nan_of_isNan h
    rw [hb]
    cases f.operand r.ftz x <;> rfl

section
variable {f : FloatFmt} {r : Rounding} {x y n : Nat} {signals : Prop} (hn : f.nan = some n)
  (hnan : (f.operand r.ftz x).isNan = true ∨ (f.operand r.ftz y).isNan = true)
  (hsnan : signals → (f.operand r.ftz x).snan = true ∨ (f.operand r.ftz y).snan = true)
include hn hnan hsnan

theorem FloatFmt.canonicalNan_add (draw : Nat) : f.CanonicalNan signals (f.add r x y draw) :=
  canonicalNan_finish hn (Exact.isNan_add (by simpa only [FVal.isNan_exact] using hnan))
    (fun hs => Exact.invalid_add (by simpa only [FVal.invalid_exact] using hsnan hs)) ..

theorem FloatFmt.canonicalNan_sub (draw : Nat) : f.CanonicalNan signals (f.sub r x y draw) :=
  canonicalNan_finish hn (Exact.isNan_add (by simpa only [FVal.isNan_exact, FVal.isNan_negate] using hnan))
    (fun hs => Exact.invalid_add (by simpa only [FVal.invalid_exact, FVal.snan_negate] using hsnan hs)) ..

theorem FloatFmt.canonicalNan_mul (draw : Nat) : f.CanonicalNan signals (f.mul r x y draw) :=
  canonicalNan_finish hn (FVal.isNan_mul hnan) (fun hs => FVal.invalid_mul (hsnan hs)) ..

theorem FloatFmt.canonicalNan_fma (negProduct negResult : Bool) (d draw : Nat) :
    f.CanonicalNan signals (f.fma r negProduct negResult d x y draw) := by
  refine canonicalNan_finish hn ?_ (fun hs => ?_) ..
  · simp only [apply_ite Exact.isNan, Exact.isNan_neg, ite_self]
    exact Exact.isNan_add (.inr (FVal.isNan_mul (by simpa only [apply_ite FVal.isNan, FVal.isNan_negate, ite_self] using hnan)))
  · simp only [apply_ite Exact.invalid, Exact.invalid_neg, ite_self]
    exact Exact.invalid_add (.inr (FVal.invalid_mul (by simpa only [apply_ite FVal.snan, FVal.snan_negate, ite_self] using hsnan hs)))

theorem FloatFmt.canonicalNan_div (draw : Nat) : f.CanonicalNan signals (f.div r x y draw) := by
  rw [FloatFmt.div_of_isNan hnan]
  exact canonicalNan_nanElem hn fun hs => by
    simpa only [has_nanFlags, List.any_cons, List.any_nil, Bool.or_false, Bool.or_eq_true] using hsnan hs

end

/-- Settles O13: an integer word delivers its exact value through `intElem`, and a NaN source makes the exact result of a float
word a NaN, invalid for a signalling one. -/
theorem elementArithmetic : Obligations.ElementArithmetic := by
  unfold Obligations.ElementArithmetic
  refine ⟨fun m x y z hint => ?integer, fun m f x y d z e hf ha hnan hmem => ?float⟩
  case integer =>
    intro lo hi e v hmem
    have he : e = m.intElem v := by
      simp only [List.mem_cons, List.not_mem_nil, or_false, Prod.mk.injEq] at hmem
      rcases hmem with ⟨rfl, rfl⟩ | ⟨rfl, rfl⟩ | ⟨rfl, rfl⟩ <;> exact ElemMode.two_of_isInt hint ..
    subst he
    exact ⟨m.intElem_flags v, m.intElem_pat_lt v, fun hsat => ElemMode.int_intElem_of_sat hsat v,
      fun hsat => ElemMode.dvd_int_intElem_sub hsat v⟩
  case float =>
    obtain ⟨hebits, n, hn⟩ := arithFloat_fmt hf ha
    have hnan := hnan.imp (FloatFmt.isNan_operand hebits m.round.ftz) (FloatFmt.isNan_operand hebits m.round.ftz)
    have hsnan : (f.read x).snan = true ∨ (f.read y).snan = true → _ :=
      Or.imp (FloatFmt.snan_operand hebits m.round.ftz) (FloatFmt.snan_operand hebits m.round.ftz)
    simp only [ElemMode.add, ElemMode.sub, ElemMode.mul, ElemMode.two_of_floatFmt hf, ElemMode.fma_of_floatFmt hf, List.mem_cons,
      List.not_mem_nil, or_false] at hmem
    rcases hmem with rfl | rfl | rfl | rfl | rfl | rfl | rfl
    · exact FloatFmt.canonicalNan_add hn hnan hsnan z
    · exact FloatFmt.canonicalNan_sub hn hnan hsnan z
    · exact FloatFmt.canonicalNan_mul hn hnan hsnan z
    · exact FloatFmt.canonicalNan_fma hn hnan hsnan false false d z
    · exact FloatFmt.canonicalNan_fma hn hnan hsnan true false d z
    · exact FloatFmt.canonicalNan_fma hn hnan hsnan false true d z
    · exact FloatFmt.canonicalNan_div hn hnan hsnan z

end Sys2Proof.Machine
end
